-- ==== Sys2Proof/Word.lean ====
section
/-!
DEFINITION. The word types and their plainest arithmetic.
-/

namespace Sys2Proof

/-- A 64-bit register value or virtual address. -/
abbrev Word := BitVec 64

/-- One 32-bit instruction word. -/
abbrev Word32 := BitVec 32

/-- One byte of memory. -/
abbrev Byte := BitVec 8

/-- The number of bytes in one KiB. -/
abbrev kib : Nat := 1024

end Sys2Proof
end

