-- ==== Sys2Proof/Config.lean ====
section
/-!
DEFINITION. What the spec fixes for this device, and the free values: constants without a body, of which nothing can be
proved, for every value the spec leaves open. Each free value is applied to the operands it may depend on, or to the
counter of the state that gives a fresh value each time.
-/

namespace Sys2Proof

/-- Cores of the device (R1): 8 on each of 4 dies. -/
def Config.cores : Nat := 32

/-- Hart slots of one core (R1). -/
def Config.slotsPerCore : Nat := 8

/-- Entries of a core's task queue (R116). -/
def Config.taskQueueSize : Nat := 256

/-- Entries of a core's copy queue (R1, R198). -/
def Config.copyQueueSize : Nat := 64

/-- Entries of a hart's vector instruction queue (R1, R105). -/
def Config.viqSize : Nat := 64

/-- Synchronisation registers of the device (R1): 4,096 on each of 4 dies. -/
def Config.srfSize : Nat := 16384

/-- First address of the local window (R89). -/
def Config.windowBase : Nat := 0xFFFFFF0000000000

/-- Bytes of the local window (R89). -/
def Config.windowSize : Nat := 0x100000000

/-- A fresh value for what the spec leaves undefined, one for each value of the state's free counter. -/
opaque Config.free : Nat → Nat

/-- The clocks that pass at one retirement (CYCLE is timing, R41, R43): the model fixes no number. -/
opaque Config.clocks : Nat → Nat

/-- Which of the sixteen entries gives a 4 KiB piece of a 64 KiB page its attributes (R90). -/
opaque Config.largePagePiece : Nat → Nat

/-- Where the data area of a replay log begins, in bytes from the log buffer (R343 gives no place). -/
opaque Config.logDataBase : Nat → Nat

/-- Whether ADDR of a host-write record is an SRF index (R343 does not say how to tell). -/
opaque Config.logNamesSrf : Nat → Nat → Bool

/-- The unit that drains a bounded queue (R366: the units have no numbers). -/
opaque Config.drainer : Nat → Nat

/-- The arithmetic clock in MHz that a power cap leaves a die (R371). -/
opaque Config.clockUnderCap : Nat → Nat → Nat

/-- CYCLE of the I/O die at a number of nanoseconds since reset (R351; timing). -/
opaque Config.ioCycle : Nat → Nat

/-- Bytes of device memory (R1): 384 GiB, from address 0 on (R383, command 0x0A). -/
def Config.memorySize : Nat := 384 * 2 ^ 30

/-- The HBM channel that holds an address (no rule says which). -/
opaque Config.channelOf : Nat → Nat

/-- The HBM stack that holds an address (no rule says which). -/
opaque Config.stackOf : Nat → Nat

/-! Images and signatures (R380, R382): R380 names the header's fields and the algorithms, and no rule gives their places. -/

/-- The header of an image holds the magic value. -/
opaque Config.imageMagic : List Byte → Bool

/-- The RSA and the SLH-DSA public keys that an image carries. -/
opaque Config.imageKeys : List Byte → List Byte × List Byte

/-- The security version in an image's header. -/
opaque Config.securityVersion : List Byte → Nat

/-- The version of the firmware in an image (R385). -/
opaque Config.firmwareVersion : List Byte → Nat

/-- SHA-384. -/
opaque Config.sha384 : List Byte → Nat

/-- The RSA-3072 signature of an image verifies under a key. -/
opaque Config.rsaVerifies : List Byte → List Byte → Bool

/-- The SLH-DSA-SHA2-192s signature of an image verifies under a key. -/
opaque Config.slhVerifies : List Byte → List Byte → Bool

/-- The boot ROM's bytes. -/
opaque Config.rom : List Byte

/-- The RSA private key of the device's identity, from the fused secret and the image's measurement (R382). -/
opaque Config.rsaIdentity : Nat → Nat → List Byte

/-- The SLH-DSA private key of the device's identity, from the fused secret and the image's measurement (R382). -/
opaque Config.slhIdentity : Nat → Nat → List Byte

/-- The RSA signature of bytes under a private key. -/
opaque Config.rsaSign : List Byte → List Byte → List Byte

/-- The SLH-DSA signature of bytes under a private key. -/
opaque Config.slhSign : List Byte → List Byte → List Byte

/-- The bytes of the summary, from the numbers it holds (R385 gives no layout). -/
opaque Config.summaryLayout : List Nat → List Byte

/-- The bytes of an attestation report before its signatures, from the nonce and the numbers it holds (R382 gives no
layout). -/
opaque Config.attestation : List Byte → List Nat → List Byte

end Sys2Proof
end

