-- ==== Sys2Proof/Syntax.lean ====
section
/-!
DEFINITION. The instructions, one constructor per row of the opcode table, as the decoder delivers them.
-/

namespace Sys2Proof

/-- One constructor for each row of the opcode table: the encoded instructions (formats X, I, U, B, J, V, W, M of
R32 and the long forms of R37, R195, R227, R255, R286), then the steps the machine takes without an instruction word
(device events), which the agenda of the state hands to `exec`. Register fields keep the widths of R33. -/
inductive Instr where
  /-- ADD, R45. -/
  | add (d : BitVec 5) (a : BitVec 5) (b : BitVec 5)
  /-- SUB, R45. -/
  | sub (d : BitVec 5) (a : BitVec 5) (b : BitVec 5)
  /-- AND, R45. -/
  | and (d : BitVec 5) (a : BitVec 5) (b : BitVec 5)
  /-- OR, R45. -/
  | or (d : BitVec 5) (a : BitVec 5) (b : BitVec 5)
  /-- XOR, R45. -/
  | xor (d : BitVec 5) (a : BitVec 5) (b : BitVec 5)
  /-- SLL, R45. -/
  | sll (d : BitVec 5) (a : BitVec 5) (b : BitVec 5)
  /-- SRL, R45. -/
  | srl (d : BitVec 5) (a : BitVec 5) (b : BitVec 5)
  /-- SRA, R45. -/
  | sra (d : BitVec 5) (a : BitVec 5) (b : BitVec 5)
  /-- SLT, R45. -/
  | slt (d : BitVec 5) (a : BitVec 5) (b : BitVec 5)
  /-- SLTU, R45. -/
  | sltu (d : BitVec 5) (a : BitVec 5) (b : BitVec 5)
  /-- MIN, R45. -/
  | min (d : BitVec 5) (a : BitVec 5) (b : BitVec 5)
  /-- MAX, R45. -/
  | max (d : BitVec 5) (a : BitVec 5) (b : BitVec 5)
  /-- MINU, R45. -/
  | minu (d : BitVec 5) (a : BitVec 5) (b : BitVec 5)
  /-- MAXU, R45. -/
  | maxu (d : BitVec 5) (a : BitVec 5) (b : BitVec 5)
  /-- ANDN, R45. -/
  | andn (d : BitVec 5) (a : BitVec 5) (b : BitVec 5)
  /-- ORN, R45. -/
  | orn (d : BitVec 5) (a : BitVec 5) (b : BitVec 5)
  /-- CLZ, R45. -/
  | clz (d : BitVec 5) (a : BitVec 5)
  /-- CTZ, R45. -/
  | ctz (d : BitVec 5) (a : BitVec 5)
  /-- POPC, R45. -/
  | popc (d : BitVec 5) (a : BitVec 5)
  /-- SEXTW, R45. -/
  | sextw (d : BitVec 5) (a : BitVec 5)
  /-- ADDW, R45. -/
  | addw (d : BitVec 5) (a : BitVec 5) (b : BitVec 5)
  /-- SUBW, R45. -/
  | subw (d : BitVec 5) (a : BitVec 5) (b : BitVec 5)
  /-- ADDI, R46. -/
  | addi (d : BitVec 5) (a : BitVec 5) (imm : BitVec 15)
  /-- ANDI, R46. -/
  | andi (d : BitVec 5) (a : BitVec 5) (imm : BitVec 15)
  /-- ORI, R46. -/
  | ori (d : BitVec 5) (a : BitVec 5) (imm : BitVec 15)
  /-- XORI, R46. -/
  | xori (d : BitVec 5) (a : BitVec 5) (imm : BitVec 15)
  /-- SLTI, R46. -/
  | slti (d : BitVec 5) (a : BitVec 5) (imm : BitVec 15)
  /-- SLTIU, R46. -/
  | sltiu (d : BitVec 5) (a : BitVec 5) (imm : BitVec 15)
  /-- SLLI, R47. -/
  | slli (d : BitVec 5) (a : BitVec 5) (n : BitVec 6)
  /-- SRLI, R47. -/
  | srli (d : BitVec 5) (a : BitVec 5) (n : BitVec 6)
  /-- SRAI, R47. -/
  | srai (d : BitVec 5) (a : BitVec 5) (n : BitVec 6)
  /-- LUI, R48. -/
  | lui (d : BitVec 5) (imm : BitVec 20)
  /-- AUIPC, R48. -/
  | auipc (d : BitVec 5) (imm : BitVec 20)
  /-- MUL, R49. -/
  | mul (d : BitVec 5) (a : BitVec 5) (b : BitVec 5)
  /-- MULH, R49. -/
  | mulh (d : BitVec 5) (a : BitVec 5) (b : BitVec 5)
  /-- MULHU, R49. -/
  | mulhu (d : BitVec 5) (a : BitVec 5) (b : BitVec 5)
  /-- MULHSU, R49. -/
  | mulhsu (d : BitVec 5) (a : BitVec 5) (b : BitVec 5)
  /-- DIV, R50. -/
  | div (d : BitVec 5) (a : BitVec 5) (b : BitVec 5)
  /-- DIVU, R50. -/
  | divu (d : BitVec 5) (a : BitVec 5) (b : BitVec 5)
  /-- REM, R50. -/
  | rem (d : BitVec 5) (a : BitVec 5) (b : BitVec 5)
  /-- REMU, R50. -/
  | remu (d : BitVec 5) (a : BitVec 5) (b : BitVec 5)
  /-- MULW, R49. -/
  | mulw (d : BitVec 5) (a : BitVec 5) (b : BitVec 5)
  /-- BEQ, R51. -/
  | beq (a : BitVec 5) (b : BitVec 5) (o : BitVec 12)
  /-- BNE, R51. -/
  | bne (a : BitVec 5) (b : BitVec 5) (o : BitVec 12)
  /-- BLT, R51. -/
  | blt (a : BitVec 5) (b : BitVec 5) (o : BitVec 12)
  /-- BGE, R51. -/
  | bge (a : BitVec 5) (b : BitVec 5) (o : BitVec 12)
  /-- BLTU, R51. -/
  | bltu (a : BitVec 5) (b : BitVec 5) (o : BitVec 12)
  /-- BGEU, R51. -/
  | bgeu (a : BitVec 5) (b : BitVec 5) (o : BitVec 12)
  /-- JAL, R52. -/
  | jal (d : BitVec 5) (o : BitVec 20)
  /-- JALR, R52. -/
  | jalr (d : BitVec 5) (a : BitVec 5) (imm : BitVec 15)
  /-- LOOP, R54. -/
  | loop (k : BitVec 1) (a : BitVec 5) (imm : BitVec 15)
  /-- LOOPI, R55. -/
  | loopi (k : BitVec 1) (dist : BitVec 16) (count : BitVec 16)
  /-- LB, R61. -/
  | lb (d : BitVec 5) (a : BitVec 5) (imm : BitVec 15)
  /-- LH, R61. -/
  | lh (d : BitVec 5) (a : BitVec 5) (imm : BitVec 15)
  /-- LW, R61. -/
  | lw (d : BitVec 5) (a : BitVec 5) (imm : BitVec 15)
  /-- LD, R61. -/
  | ld (d : BitVec 5) (a : BitVec 5) (imm : BitVec 15)
  /-- LBU, R61. -/
  | lbu (d : BitVec 5) (a : BitVec 5) (imm : BitVec 15)
  /-- LHU, R61. -/
  | lhu (d : BitVec 5) (a : BitVec 5) (imm : BitVec 15)
  /-- LWU, R61. -/
  | lwu (d : BitVec 5) (a : BitVec 5) (imm : BitVec 15)
  /-- SB, R61. -/
  | sb (d : BitVec 5) (a : BitVec 5) (imm : BitVec 15)
  /-- SH, R61. -/
  | sh (d : BitVec 5) (a : BitVec 5) (imm : BitVec 15)
  /-- SW, R61. -/
  | sw (d : BitVec 5) (a : BitVec 5) (imm : BitVec 15)
  /-- SD, R61. -/
  | sd (d : BitVec 5) (a : BitVec 5) (imm : BitVec 15)
  /-- AMOSWAP, R66. -/
  | amoswap (d : BitVec 5) (a : BitVec 5) (b : BitVec 5) (z : BitVec 1) (o : BitVec 2) (sc : BitVec 3)
  /-- AMOADD, R66. -/
  | amoadd (d : BitVec 5) (a : BitVec 5) (b : BitVec 5) (z : BitVec 1) (o : BitVec 2) (sc : BitVec 3)
  /-- AMOAND, R66. -/
  | amoand (d : BitVec 5) (a : BitVec 5) (b : BitVec 5) (z : BitVec 1) (o : BitVec 2) (sc : BitVec 3)
  /-- AMOOR, R66. -/
  | amoor (d : BitVec 5) (a : BitVec 5) (b : BitVec 5) (z : BitVec 1) (o : BitVec 2) (sc : BitVec 3)
  /-- AMOXOR, R66. -/
  | amoxor (d : BitVec 5) (a : BitVec 5) (b : BitVec 5) (z : BitVec 1) (o : BitVec 2) (sc : BitVec 3)
  /-- AMOMIN, R66. -/
  | amomin (d : BitVec 5) (a : BitVec 5) (b : BitVec 5) (z : BitVec 1) (o : BitVec 2) (sc : BitVec 3)
  /-- AMOMAX, R66. -/
  | amomax (d : BitVec 5) (a : BitVec 5) (b : BitVec 5) (z : BitVec 1) (o : BitVec 2) (sc : BitVec 3)
  /-- AMOMINU, R66. -/
  | amominu (d : BitVec 5) (a : BitVec 5) (b : BitVec 5) (z : BitVec 1) (o : BitVec 2) (sc : BitVec 3)
  /-- AMOMAXU, R66. -/
  | amomaxu (d : BitVec 5) (a : BitVec 5) (b : BitVec 5) (z : BitVec 1) (o : BitVec 2) (sc : BitVec 3)
  /-- AMOCAS, R66. -/
  | amocas (d : BitVec 5) (a : BitVec 5) (b : BitVec 5) (z : BitVec 1) (o : BitVec 2) (sc : BitVec 3)
  /-- FENCE, R326. -/
  | fence (sc : BitVec 3) (x : BitVec 3) (y : BitVec 3)
  /-- TFENCE, R93. -/
  | tfence (sc : BitVec 3)
  /-- ECALL, R97. -/
  | ecall
  /-- EBREAK, R97. -/
  | ebreak
  /-- TRET, R84. -/
  | tret
  /-- WFI, R98. -/
  | wfi
  /-- CVB, R336. -/
  | cvb
  /-- TMARK, R347. -/
  | tmark (a : BitVec 5)
  /-- CSRRW, R42. -/
  | csrrw (d : BitVec 5) (a : BitVec 5) (c : BitVec 12)
  /-- CSRRS, R42. -/
  | csrrs (d : BitVec 5) (a : BitVec 5) (c : BitVec 12)
  /-- CSRRC, R42. -/
  | csrrc (d : BitVec 5) (a : BitVec 5) (c : BitVec 12)
  /-- CSRRWI, R42. -/
  | csrrwi (d : BitVec 5) (u : BitVec 5) (c : BitVec 12)
  /-- CSRRSI, R42. -/
  | csrrsi (d : BitVec 5) (u : BitVec 5) (c : BitVec 12)
  /-- CSRRCI, R42. -/
  | csrrci (d : BitVec 5) (u : BitVec 5) (c : BitVec 12)
  /-- FADD_S, R73. -/
  | faddS (d : BitVec 5) (a : BitVec 5) (b : BitVec 5)
  /-- FADD_D, R73. -/
  | faddD (d : BitVec 5) (a : BitVec 5) (b : BitVec 5)
  /-- FSUB_S, R73. -/
  | fsubS (d : BitVec 5) (a : BitVec 5) (b : BitVec 5)
  /-- FSUB_D, R73. -/
  | fsubD (d : BitVec 5) (a : BitVec 5) (b : BitVec 5)
  /-- FMUL_S, R73. -/
  | fmulS (d : BitVec 5) (a : BitVec 5) (b : BitVec 5)
  /-- FMUL_D, R73. -/
  | fmulD (d : BitVec 5) (a : BitVec 5) (b : BitVec 5)
  /-- FDIV_S, R73. -/
  | fdivS (d : BitVec 5) (a : BitVec 5) (b : BitVec 5)
  /-- FDIV_D, R73. -/
  | fdivD (d : BitVec 5) (a : BitVec 5) (b : BitVec 5)
  /-- FSQRT_S, R73. -/
  | fsqrtS (d : BitVec 5) (a : BitVec 5)
  /-- FSQRT_D, R73. -/
  | fsqrtD (d : BitVec 5) (a : BitVec 5)
  /-- FMIN_S, R73. -/
  | fminS (d : BitVec 5) (a : BitVec 5) (b : BitVec 5)
  /-- FMIN_D, R73. -/
  | fminD (d : BitVec 5) (a : BitVec 5) (b : BitVec 5)
  /-- FMAX_S, R73. -/
  | fmaxS (d : BitVec 5) (a : BitVec 5) (b : BitVec 5)
  /-- FMAX_D, R73. -/
  | fmaxD (d : BitVec 5) (a : BitVec 5) (b : BitVec 5)
  /-- FSGNJ_S, R73. -/
  | fsgnjS (d : BitVec 5) (a : BitVec 5) (b : BitVec 5)
  /-- FSGNJ_D, R73. -/
  | fsgnjD (d : BitVec 5) (a : BitVec 5) (b : BitVec 5)
  /-- FSGNJN_S, R73. -/
  | fsgnjnS (d : BitVec 5) (a : BitVec 5) (b : BitVec 5)
  /-- FSGNJN_D, R73. -/
  | fsgnjnD (d : BitVec 5) (a : BitVec 5) (b : BitVec 5)
  /-- FSGNJX_S, R73. -/
  | fsgnjxS (d : BitVec 5) (a : BitVec 5) (b : BitVec 5)
  /-- FSGNJX_D, R73. -/
  | fsgnjxD (d : BitVec 5) (a : BitVec 5) (b : BitVec 5)
  /-- FEQ_S, R73. -/
  | feqS (d : BitVec 5) (a : BitVec 5) (b : BitVec 5)
  /-- FEQ_D, R73. -/
  | feqD (d : BitVec 5) (a : BitVec 5) (b : BitVec 5)
  /-- FLT_S, R73. -/
  | fltS (d : BitVec 5) (a : BitVec 5) (b : BitVec 5)
  /-- FLT_D, R73. -/
  | fltD (d : BitVec 5) (a : BitVec 5) (b : BitVec 5)
  /-- FLE_S, R73. -/
  | fleS (d : BitVec 5) (a : BitVec 5) (b : BitVec 5)
  /-- FLE_D, R73. -/
  | fleD (d : BitVec 5) (a : BitVec 5) (b : BitVec 5)
  /-- FCLASS_S, R73. -/
  | fclassS (d : BitVec 5) (a : BitVec 5)
  /-- FCLASS_D, R73. -/
  | fclassD (d : BitVec 5) (a : BitVec 5)
  /-- FMADD_S, R74. -/
  | fmaddS (d : BitVec 5) (a : BitVec 5) (b : BitVec 5) (c : BitVec 5)
  /-- FMADD_D, R74. -/
  | fmaddD (d : BitVec 5) (a : BitVec 5) (b : BitVec 5) (c : BitVec 5)
  /-- FMSUB_S, R74. -/
  | fmsubS (d : BitVec 5) (a : BitVec 5) (b : BitVec 5) (c : BitVec 5)
  /-- FMSUB_D, R74. -/
  | fmsubD (d : BitVec 5) (a : BitVec 5) (b : BitVec 5) (c : BitVec 5)
  /-- FNMADD_S, R74. -/
  | fnmaddS (d : BitVec 5) (a : BitVec 5) (b : BitVec 5) (c : BitVec 5)
  /-- FNMADD_D, R74. -/
  | fnmaddD (d : BitVec 5) (a : BitVec 5) (b : BitVec 5) (c : BitVec 5)
  /-- FNMSUB_S, R74. -/
  | fnmsubS (d : BitVec 5) (a : BitVec 5) (b : BitVec 5) (c : BitVec 5)
  /-- FNMSUB_D, R74. -/
  | fnmsubD (d : BitVec 5) (a : BitVec 5) (b : BitVec 5) (c : BitVec 5)
  /-- FCVTWS, R75. -/
  | fcvtws (d : BitVec 5) (a : BitVec 5)
  /-- FCVTWUS, R75. -/
  | fcvtwus (d : BitVec 5) (a : BitVec 5)
  /-- FCVTLS, R75. -/
  | fcvtls (d : BitVec 5) (a : BitVec 5)
  /-- FCVTLUS, R75. -/
  | fcvtlus (d : BitVec 5) (a : BitVec 5)
  /-- FCVTSW, R75. -/
  | fcvtsw (d : BitVec 5) (a : BitVec 5)
  /-- FCVTSWU, R75. -/
  | fcvtswu (d : BitVec 5) (a : BitVec 5)
  /-- FCVTSL, R75. -/
  | fcvtsl (d : BitVec 5) (a : BitVec 5)
  /-- FCVTSLU, R75. -/
  | fcvtslu (d : BitVec 5) (a : BitVec 5)
  /-- FCVTWD, R75. -/
  | fcvtwd (d : BitVec 5) (a : BitVec 5)
  /-- FCVTWUD, R75. -/
  | fcvtwud (d : BitVec 5) (a : BitVec 5)
  /-- FCVTLD, R75. -/
  | fcvtld (d : BitVec 5) (a : BitVec 5)
  /-- FCVTLUD, R75. -/
  | fcvtlud (d : BitVec 5) (a : BitVec 5)
  /-- FCVTDW, R75. -/
  | fcvtdw (d : BitVec 5) (a : BitVec 5)
  /-- FCVTDWU, R75. -/
  | fcvtdwu (d : BitVec 5) (a : BitVec 5)
  /-- FCVTDL, R75. -/
  | fcvtdl (d : BitVec 5) (a : BitVec 5)
  /-- FCVTDLU, R75. -/
  | fcvtdlu (d : BitVec 5) (a : BitVec 5)
  /-- FCVTSD, R75. -/
  | fcvtsd (d : BitVec 5) (a : BitVec 5)
  /-- FCVTDS, R75. -/
  | fcvtds (d : BitVec 5) (a : BitVec 5)
  /-- SYLD, R311. -/
  | syld (d : BitVec 5) (a : BitVec 5) (o : BitVec 2) (sc : BitVec 2)
  /-- SYST, R311. -/
  | syst (a : BitVec 5) (b : BitVec 5) (o : BitVec 2) (sc : BitVec 2)
  /-- SYTAS, R311. -/
  | sytas (d : BitVec 5) (a : BitVec 5) (o : BitVec 2) (sc : BitVec 2)
  /-- SYFAA, R311. -/
  | syfaa (d : BitVec 5) (a : BitVec 5) (b : BitVec 5) (o : BitVec 2) (sc : BitVec 2)
  /-- SYCAS, R311. -/
  | sycas (d : BitVec 5) (a : BitVec 5) (b : BitVec 5) (o : BitVec 2) (sc : BitVec 2)
  /-- SYWAIT, R311. -/
  | sywait (d : BitVec 5) (a : BitVec 5) (b : BitVec 5) (o : BitVec 2) (sc : BitVec 2) (c : BitVec 3)
  /-- SYBAR, R312. -/
  | sybar (d : BitVec 5) (a : BitVec 5) (b : BitVec 5) (o : BitVec 2) (sc : BitVec 2)
  /-- IPOST, R316. -/
  | ipost (a : BitVec 5) (b : BitVec 5)
  /-- IWAIT, R316. -/
  | iwait (d : BitVec 5) (a : BitVec 5) (b : BitVec 5)
  /-- TSPAWN, R117. -/
  | tspawn (d : BitVec 5) (a : BitVec 5)
  /-- TTAKE, R117. -/
  | ttake (d : BitVec 5)
  /-- TJOIN, R117. -/
  | tjoin (d : BitVec 5) (a : BitVec 5)
  /-- TDONE, R117. -/
  | tdone (a : BitVec 5)
  /-- LI, R37. -/
  | li (d : BitVec 5) (ext : BitVec 1) (imm : BitVec 32)
  /-- SETVL, R149. -/
  | setvl (d : BitVec 5) (b : BitVec 5)
  /-- VCFG, R150. -/
  | vcfg (e : BitVec 5) (sc : BitVec 1) (r : BitVec 3) (f : BitVec 2) (t : BitVec 1)
  /-- VTAG, R150. -/
  | vtag (e : BitVec 5)
  /-- VRETAG, R151. -/
  | vretag (d : BitVec 6) (t : BitVec 5)
  /-- MMODE, R204. -/
  | mmode (d : BitVec 5) (b : BitVec 5)
  /-- SETTILE, R205. -/
  | settile (d : BitVec 5) (b : BitVec 5)
  /-- VADD_V, R153. -/
  | vaddV (d : BitVec 6) (a : BitVec 6) (b : BitVec 6) (g : BitVec 4)
  /-- VSUB_V, R153. -/
  | vsubV (d : BitVec 6) (a : BitVec 6) (b : BitVec 6) (g : BitVec 4)
  /-- VMUL_V, R153. -/
  | vmulV (d : BitVec 6) (a : BitVec 6) (b : BitVec 6) (g : BitVec 4)
  /-- VMULH_V, R153. -/
  | vmulhV (d : BitVec 6) (a : BitVec 6) (b : BitVec 6) (g : BitVec 4)
  /-- VMIN_V, R153. -/
  | vminV (d : BitVec 6) (a : BitVec 6) (b : BitVec 6) (g : BitVec 4)
  /-- VMAX_V, R153. -/
  | vmaxV (d : BitVec 6) (a : BitVec 6) (b : BitVec 6) (g : BitVec 4)
  /-- VDIV_V, R153. -/
  | vdivV (d : BitVec 6) (a : BitVec 6) (b : BitVec 6) (g : BitVec 4)
  /-- VREM_V, R153. -/
  | vremV (d : BitVec 6) (a : BitVec 6) (b : BitVec 6) (g : BitVec 4)
  /-- VADD_W, R153. -/
  | vaddW (d : BitVec 6) (a : BitVec 6) (x : BitVec 5) (g : BitVec 4)
  /-- VSUB_W, R153. -/
  | vsubW (d : BitVec 6) (a : BitVec 6) (x : BitVec 5) (g : BitVec 4)
  /-- VMUL_W, R153. -/
  | vmulW (d : BitVec 6) (a : BitVec 6) (x : BitVec 5) (g : BitVec 4)
  /-- VMULH_W, R153. -/
  | vmulhW (d : BitVec 6) (a : BitVec 6) (x : BitVec 5) (g : BitVec 4)
  /-- VMIN_W, R153. -/
  | vminW (d : BitVec 6) (a : BitVec 6) (x : BitVec 5) (g : BitVec 4)
  /-- VMAX_W, R153. -/
  | vmaxW (d : BitVec 6) (a : BitVec 6) (x : BitVec 5) (g : BitVec 4)
  /-- VDIV_W, R153. -/
  | vdivW (d : BitVec 6) (a : BitVec 6) (x : BitVec 5) (g : BitVec 4)
  /-- VREM_W, R153. -/
  | vremW (d : BitVec 6) (a : BitVec 6) (x : BitVec 5) (g : BitVec 4)
  /-- VAND_V, R153. -/
  | vandV (d : BitVec 6) (a : BitVec 6) (b : BitVec 6) (g : BitVec 4)
  /-- VOR_V, R153. -/
  | vorV (d : BitVec 6) (a : BitVec 6) (b : BitVec 6) (g : BitVec 4)
  /-- VXOR_V, R153. -/
  | vxorV (d : BitVec 6) (a : BitVec 6) (b : BitVec 6) (g : BitVec 4)
  /-- VANDN_V, R153. -/
  | vandnV (d : BitVec 6) (a : BitVec 6) (b : BitVec 6) (g : BitVec 4)
  /-- VSLL_V, R153. -/
  | vsllV (d : BitVec 6) (a : BitVec 6) (b : BitVec 6) (g : BitVec 4)
  /-- VSRL_V, R153. -/
  | vsrlV (d : BitVec 6) (a : BitVec 6) (b : BitVec 6) (g : BitVec 4)
  /-- VSRA_V, R153. -/
  | vsraV (d : BitVec 6) (a : BitVec 6) (b : BitVec 6) (g : BitVec 4)
  /-- VMULHU_V, R153. -/
  | vmulhuV (d : BitVec 6) (a : BitVec 6) (b : BitVec 6) (g : BitVec 4)
  /-- VAND_W, R153. -/
  | vandW (d : BitVec 6) (a : BitVec 6) (x : BitVec 5) (g : BitVec 4)
  /-- VOR_W, R153. -/
  | vorW (d : BitVec 6) (a : BitVec 6) (x : BitVec 5) (g : BitVec 4)
  /-- VXOR_W, R153. -/
  | vxorW (d : BitVec 6) (a : BitVec 6) (x : BitVec 5) (g : BitVec 4)
  /-- VANDN_W, R153. -/
  | vandnW (d : BitVec 6) (a : BitVec 6) (x : BitVec 5) (g : BitVec 4)
  /-- VSLL_W, R153. -/
  | vsllW (d : BitVec 6) (a : BitVec 6) (x : BitVec 5) (g : BitVec 4)
  /-- VSRL_W, R153. -/
  | vsrlW (d : BitVec 6) (a : BitVec 6) (x : BitVec 5) (g : BitVec 4)
  /-- VSRA_W, R153. -/
  | vsraW (d : BitVec 6) (a : BitVec 6) (x : BitVec 5) (g : BitVec 4)
  /-- VMULHU_W, R153. -/
  | vmulhuW (d : BitVec 6) (a : BitVec 6) (x : BitVec 5) (g : BitVec 4)
  /-- VFMA_V, R155. -/
  | vfmaV (d : BitVec 6) (a : BitVec 6) (b : BitVec 6) (g : BitVec 4)
  /-- VFMS_V, R155. -/
  | vfmsV (d : BitVec 6) (a : BitVec 6) (b : BitVec 6) (g : BitVec 4)
  /-- VFNMA_V, R155. -/
  | vfnmaV (d : BitVec 6) (a : BitVec 6) (b : BitVec 6) (g : BitVec 4)
  /-- VFNMS_V, R155. -/
  | vfnmsV (d : BitVec 6) (a : BitVec 6) (b : BitVec 6) (g : BitVec 4)
  /-- VFMA_W, R155. -/
  | vfmaW (d : BitVec 6) (a : BitVec 6) (x : BitVec 5) (g : BitVec 4)
  /-- VFMS_W, R155. -/
  | vfmsW (d : BitVec 6) (a : BitVec 6) (x : BitVec 5) (g : BitVec 4)
  /-- VFNMA_W, R155. -/
  | vfnmaW (d : BitVec 6) (a : BitVec 6) (x : BitVec 5) (g : BitVec 4)
  /-- VFNMS_W, R155. -/
  | vfnmsW (d : BitVec 6) (a : BitVec 6) (x : BitVec 5) (g : BitVec 4)
  /-- VNEG, R156. -/
  | vneg (d : BitVec 6) (a : BitVec 6) (g : BitVec 4)
  /-- VABS, R156. -/
  | vabs (d : BitVec 6) (a : BitVec 6) (g : BitVec 4)
  /-- VSQRT, R156. -/
  | vsqrt (d : BitVec 6) (a : BitVec 6) (g : BitVec 4)
  /-- VEXP2, R156. -/
  | vexp2 (d : BitVec 6) (a : BitVec 6) (g : BitVec 4)
  /-- VLOG2, R156. -/
  | vlog2 (d : BitVec 6) (a : BitVec 6) (g : BitVec 4)
  /-- VRCP, R156. -/
  | vrcp (d : BitVec 6) (a : BitVec 6) (g : BitVec 4)
  /-- VNOT, R156. -/
  | vnot (d : BitVec 6) (a : BitVec 6) (g : BitVec 4)
  /-- VIOTA, R157. -/
  | viota (d : BitVec 6) (a : BitVec 4) (g : BitVec 4)
  /-- VCMPEQ_V, R158. -/
  | vcmpeqV (d : BitVec 4) (a : BitVec 6) (b : BitVec 6) (g : BitVec 4)
  /-- VCMPNE_V, R158. -/
  | vcmpneV (d : BitVec 4) (a : BitVec 6) (b : BitVec 6) (g : BitVec 4)
  /-- VCMPLT_V, R158. -/
  | vcmpltV (d : BitVec 4) (a : BitVec 6) (b : BitVec 6) (g : BitVec 4)
  /-- VCMPLE_V, R158. -/
  | vcmpleV (d : BitVec 4) (a : BitVec 6) (b : BitVec 6) (g : BitVec 4)
  /-- VCMPGT_V, R158. -/
  | vcmpgtV (d : BitVec 4) (a : BitVec 6) (b : BitVec 6) (g : BitVec 4)
  /-- VCMPGE_V, R158. -/
  | vcmpgeV (d : BitVec 4) (a : BitVec 6) (b : BitVec 6) (g : BitVec 4)
  /-- VCMPUN_V, R158. -/
  | vcmpunV (d : BitVec 4) (a : BitVec 6) (b : BitVec 6) (g : BitVec 4)
  /-- VCMPEQ_W, R158. -/
  | vcmpeqW (d : BitVec 4) (a : BitVec 6) (x : BitVec 5) (g : BitVec 4)
  /-- VCMPNE_W, R158. -/
  | vcmpneW (d : BitVec 4) (a : BitVec 6) (x : BitVec 5) (g : BitVec 4)
  /-- VCMPLT_W, R158. -/
  | vcmpltW (d : BitVec 4) (a : BitVec 6) (x : BitVec 5) (g : BitVec 4)
  /-- VCMPLE_W, R158. -/
  | vcmpleW (d : BitVec 4) (a : BitVec 6) (x : BitVec 5) (g : BitVec 4)
  /-- VCMPGT_W, R158. -/
  | vcmpgtW (d : BitVec 4) (a : BitVec 6) (x : BitVec 5) (g : BitVec 4)
  /-- VCMPGE_W, R158. -/
  | vcmpgeW (d : BitVec 4) (a : BitVec 6) (x : BitVec 5) (g : BitVec 4)
  /-- VCMPUN_W, R158. -/
  | vcmpunW (d : BitVec 4) (a : BitVec 6) (x : BitVec 5) (g : BitVec 4)
  /-- VMV, R159. -/
  | vmv (d : BitVec 6) (a : BitVec 6) (g : BitVec 4)
  /-- VSPLAT, R159. -/
  | vsplat (d : BitVec 6) (x : BitVec 5) (g : BitVec 4)
  /-- VSEL, R159. -/
  | vsel (d : BitVec 6) (a : BitVec 6) (b : BitVec 6) (g : BitVec 4)
  /-- VMVX, R159. -/
  | vmvx (d : BitVec 5) (a : BitVec 6) (x : BitVec 5)
  /-- VINS, R159. -/
  | vins (d : BitVec 6) (a : BitVec 5) (x : BitVec 5)
  /-- VCVT, R137. -/
  | vcvt (d : BitVec 6) (a : BitVec 6) (t : BitVec 5) (g : BitVec 4)
  /-- PAND, R160. -/
  | pand (d : BitVec 4) (a : BitVec 4) (b : BitVec 4) (g : BitVec 4)
  /-- POR, R160. -/
  | por (d : BitVec 4) (a : BitVec 4) (b : BitVec 4) (g : BitVec 4)
  /-- PXOR, R160. -/
  | pxor (d : BitVec 4) (a : BitVec 4) (b : BitVec 4) (g : BitVec 4)
  /-- PANDN, R160. -/
  | pandn (d : BitVec 4) (a : BitVec 4) (b : BitVec 4) (g : BitVec 4)
  /-- PNOT, R160. -/
  | pnot (d : BitVec 4) (a : BitVec 4) (g : BitVec 4)
  /-- PFIRST, R160. -/
  | pfirst (d : BitVec 4) (a : BitVec 4) (g : BitVec 4)
  /-- PCNT, R160. -/
  | pcnt (d : BitVec 5) (a : BitVec 4) (g : BitVec 4)
  /-- PSETVL, R160. -/
  | psetvl (d : BitVec 5) (a : BitVec 4) (g : BitVec 4)
  /-- VSLIDEUP, R161. -/
  | vslideup (d : BitVec 6) (a : BitVec 6) (x : BitVec 5) (g : BitVec 4)
  /-- VSLIDEDN, R161. -/
  | vslidedn (d : BitVec 6) (a : BitVec 6) (x : BitVec 5) (g : BitVec 4)
  /-- VPERM, R161. -/
  | vperm (d : BitVec 6) (a : BitVec 6) (vi : BitVec 6) (g : BitVec 4)
  /-- VBFLY, R161. -/
  | vbfly (d : BitVec 6) (a : BitVec 6) (k : BitVec 4) (g : BitVec 4)
  /-- VCOMPRESS, R161. -/
  | vcompress (d : BitVec 6) (a : BitVec 6) (g : BitVec 4)
  /-- VEXPAND, R161. -/
  | vexpand (d : BitVec 6) (a : BitVec 6) (g : BitVec 4)
  /-- VSCAN, R161. -/
  | vscan (d : BitVec 6) (a : BitVec 6) (g : BitVec 4)
  /-- VREV, R161. -/
  | vrev (d : BitVec 6) (a : BitVec 6) (g : BitVec 4)
  /-- VREDSUM, R162. -/
  | vredsum (d : BitVec 6) (a : BitVec 6) (g : BitVec 4)
  /-- VREDMIN, R162. -/
  | vredmin (d : BitVec 6) (a : BitVec 6) (g : BitVec 4)
  /-- VREDMAX, R162. -/
  | vredmax (d : BitVec 6) (a : BitVec 6) (g : BitVec 4)
  /-- VREDAND, R162. -/
  | vredand (d : BitVec 6) (a : BitVec 6) (g : BitVec 4)
  /-- VREDOR, R162. -/
  | vredor (d : BitVec 6) (a : BitVec 6) (g : BitVec 4)
  /-- VREDXOR, R162. -/
  | vredxor (d : BitVec 6) (a : BitVec 6) (g : BitVec 4)
  /-- VREDMINI, R162. -/
  | vredmini (d : BitVec 6) (a : BitVec 6) (g : BitVec 4)
  /-- VREDMAXI, R162. -/
  | vredmaxi (d : BitVec 6) (a : BitVec 6) (g : BitVec 4)
  /-- VSAMPLE, R271. -/
  | vsample (d : BitVec 5) (a : BitVec 6) (x : BitVec 4) (g : BitVec 4)
  /-- VTOPK, R274. -/
  | vtopk (d : BitVec 6) (a : BitVec 6) (x : BitVec 5) (g : BitVec 4)
  /-- VLD, R165. -/
  | vld (d : BitVec 6) (x : BitVec 5) (o : BitVec 1) (g : BitVec 4)
  /-- VLDS, R165. -/
  | vlds (d : BitVec 6) (x : BitVec 5) (xs : BitVec 5) (o : BitVec 1) (g : BitVec 4)
  /-- VLDX, R165. -/
  | vldx (d : BitVec 6) (x : BitVec 5) (vi : BitVec 6) (o : BitVec 1) (g : BitVec 4)
  /-- LOAD_DATA_RETURN (event), R170. -/
  | loadDataReturn (k : BitVec 16)
  /-- VST, R165. -/
  | vst (d : BitVec 6) (x : BitVec 5) (o : BitVec 1) (g : BitVec 4)
  /-- VSTS, R165. -/
  | vsts (d : BitVec 6) (x : BitVec 5) (xs : BitVec 5) (o : BitVec 1) (g : BitVec 4)
  /-- VSTX, R174. -/
  | vstx (d : BitVec 6) (x : BitVec 5) (vi : BitVec 6) (o : BitVec 1) (g : BitVec 4)
  /-- VCADD, R175. -/
  | vcadd (d : BitVec 6) (x : BitVec 5) (vi : BitVec 6) (o : BitVec 1) (g : BitVec 4)
  /-- VCMIN, R175. -/
  | vcmin (d : BitVec 6) (x : BitVec 5) (vi : BitVec 6) (o : BitVec 1) (g : BitVec 4)
  /-- VCMAX, R175. -/
  | vcmax (d : BitVec 6) (x : BitVec 5) (vi : BitVec 6) (o : BitVec 1) (g : BitVec 4)
  /-- VCOR, R175. -/
  | vcor (d : BitVec 6) (x : BitVec 5) (vi : BitVec 6) (o : BitVec 1) (g : BitVec 4)
  /-- VAADD, R177. -/
  | vaadd (d : BitVec 6) (x : BitVec 5) (vi : BitVec 6) (o : BitVec 1) (g : BitVec 4)
  /-- VAMIN, R177. -/
  | vamin (d : BitVec 6) (x : BitVec 5) (vi : BitVec 6) (o : BitVec 1) (g : BitVec 4)
  /-- VAMAX, R177. -/
  | vamax (d : BitVec 6) (x : BitVec 5) (vi : BitVec 6) (o : BitVec 1) (g : BitVec 4)
  /-- VAAND, R177. -/
  | vaand (d : BitVec 6) (x : BitVec 5) (vi : BitVec 6) (o : BitVec 1) (g : BitVec 4)
  /-- VAOR, R177. -/
  | vaor (d : BitVec 6) (x : BitVec 5) (vi : BitVec 6) (o : BitVec 1) (g : BitVec 4)
  /-- VAXOR, R177. -/
  | vaxor (d : BitVec 6) (x : BitVec 5) (vi : BitVec 6) (o : BitVec 1) (g : BitVec 4)
  /-- VASWAP, R177. -/
  | vaswap (d : BitVec 6) (x : BitVec 5) (vi : BitVec 6) (o : BitVec 1) (g : BitVec 4)
  /-- VFENCE, R181. -/
  | vfence (sc : BitVec 3)
  /-- VBIND, R188. -/
  | vbind (d : BitVec 6) (k : BitVec 3) (x : BitVec 5)
  /-- VUNBIND, R193. -/
  | vunbind (k : BitVec 3)
  /-- VBSTAT, R193. -/
  | vbstat (d : BitVec 5) (k : BitVec 3)
  /-- STREAM_FETCH (event), R191. -/
  | streamFetch (k : BitVec 3)
  /-- MZERO, R208. -/
  | mzero (t : BitVec 2)
  /-- MMAC, R209. -/
  | mmac (t : BitVec 2) (a : BitVec 6) (b : BitVec 6) (g : BitVec 4)
  /-- MMACW, R209. -/
  | mmacw (t : BitVec 2) (a : BitVec 6) (g : BitVec 4)
  /-- MCVT, R211. -/
  | mcvt (t : BitVec 2) (c : BitVec 5)
  /-- MRDROW, R212. -/
  | mrdrow (d : BitVec 6) (t : BitVec 2) (x : BitVec 5)
  /-- MWRROW, R212. -/
  | mwrrow (t : BitVec 2) (a : BitVec 6) (x : BitVec 5)
  /-- MWLD, R216. -/
  | mwld (e : BitVec 2) (f : BitVec 2) (a : BitVec 5) (b : BitVec 5)
  /-- MSCL, R213. -/
  | mscl (t : BitVec 2) (a : BitVec 6) (b : BitVec 6)
  /-- HGEN, R229. -/
  | hgen (d : BitVec 6) (a : BitVec 5) (b : BitVec 5) (g : BitVec 4)
  /-- HROT, R230. -/
  | hrot (d : BitVec 6) (a : BitVec 6) (x : BitVec 5) (g : BitVec 4)
  /-- HACC, R231. -/
  | hacc (d : BitVec 6) (a : BitVec 6) (g : BitVec 4)
  /-- HSIGN, R232. -/
  | hsign (d : BitVec 6) (a : BitVec 6) (b : BitVec 6) (g : BitVec 4)
  /-- HDIST, R233. -/
  | hdist (d : BitVec 5) (a : BitVec 6) (b : BitVec 6) (g : BitVec 4)
  /-- HSIMM, R234. -/
  | hsimm (d : BitVec 6) (a : BitVec 6) (x : BitVec 5)
  /-- HFSTEP, R218. -/
  | hfstep (d : BitVec 6) (a : BitVec 6) (x : BitVec 5)
  /-- HCLEAN, R238. -/
  | hclean (d : BitVec 5) (a : BitVec 6) (b : BitVec 5)
  /-- HFACT, R242. -/
  | hfact (d : BitVec 6) (a : BitVec 6) (b : BitVec 5)
  /-- SVLD, R268. -/
  | svld (y : BitVec 3) (a : BitVec 5) (b : BitVec 5)
  /-- SVST, R268. -/
  | svst (y : BitVec 3) (a : BitVec 5)
  /-- SVADD, R269. -/
  | svadd (d : BitVec 3) (a : BitVec 3) (b : BitVec 3)
  /-- SVMUL, R269. -/
  | svmul (d : BitVec 3) (a : BitVec 3) (b : BitVec 3)
  /-- SVDOT, R270. -/
  | svdot (d : BitVec 5) (a : BitVec 3) (b : BitVec 3)
  /-- SVTOV, R270. -/
  | svtov (d : BitVec 6) (y : BitVec 3) (x : BitVec 5)
  /-- SVLEN, R270. -/
  | svlen (d : BitVec 5) (y : BitVec 3)
  /-- RPOST, R301. -/
  | rpost (a : BitVec 6) (x : BitVec 5)
  /-- RWAIT, R301. -/
  | rwait (d : BitVec 5) (v : BitVec 6) (x : BitVec 5)
  /-- ROUTER_NODE (event), R302. -/
  | routerNode (gang : BitVec 32) (tree : BitVec 3) (member : BitVec 5)
  /-- ROUND_CLOSE (event), R303. -/
  | roundClose (gang : BitVec 32) (tree : BitVec 3)
  /-- CPY, R196. -/
  | cpy (d : BitVec 5) (a : BitVec 5) (b : BitVec 5) (slack : BitVec 4) (tk : BitVec 1) (treg : BitVec 5)
  /-- CPYS, R196. -/
  | cpys (d : BitVec 5) (a : BitVec 5) (b : BitVec 5) (slack : BitVec 4) (tk : BitVec 1) (treg : BitVec 5) (sz : BitVec 3) (xs : BitVec 5)
  /-- CPYX, R196. -/
  | cpyx (d : BitVec 5) (a : BitVec 5) (b : BitVec 5) (slack : BitVec 4) (tk : BitVec 1) (treg : BitVec 5) (sz : BitVec 3) (vi : BitVec 6)
  /-- CPYT, R198. -/
  | cpyt (d : BitVec 5) (a : BitVec 5)
  /-- COPY_COMPLETE (event), R197. -/
  | copyComplete
  /-- SRDEF, R249. -/
  | srdef (a : BitVec 5)
  /-- SRLD, R257. -/
  | srld (d : BitVec 6) (a : BitVec 5) (k : BitVec 6)
  /-- SRST, R257. -/
  | srst (d : BitVec 6) (a : BitVec 5) (k : BitVec 6)
  /-- SRROW, R259. -/
  | srrow (d : BitVec 4) (a : BitVec 5) (b : BitVec 5)
  /-- SRTRAV, R260. -/
  | srtrav (d : BitVec 6) (a : BitVec 5) (b : BitVec 4)
  /-- SRDENSE, R261. -/
  | srdense (d : BitVec 5) (a : BitVec 5) (b : BitVec 5) (tk : BitVec 1) (treg : BitVec 5)
  /-- SRCNT, R262. -/
  | srcnt (d : BitVec 5) (a : BitVec 5)
  /-- EDEF, R287. -/
  | edef (a : BitVec 5) (b : BitVec 5) (off : BitVec 32)
  /-- ERUN, R290. -/
  | erun (d : BitVec 5) (b : BitVec 5)
  /-- EEND, R286. -/
  | eend
  /-- ESTAT, R295. -/
  | estat (d : BitVec 5) (b : BitVec 5)
  /-- EFRONT, R294. -/
  | efront (d : BitVec 5)
  /-- TIMER_EXPIRY (event), R79. -/
  | timerExpiry
  /-- INTERRUPT (event), R83. -/
  | interrupt
  /-- PREEMPT (event), R95. -/
  | preempt (hart : BitVec 8) (area : BitVec 56)
  /-- HOSTMSG (event), R375. -/
  | hostmsg (hart : BitVec 8)
  /-- BREAKPOINT_HALT (event), R346. -/
  | breakpointHalt
  /-- WCB_DRAIN (event), R322. -/
  | wcbDrain (k : BitVec 16)
  /-- SRF_MIRROR_UPDATE (event), R306. -/
  | srfMirrorUpdate (die : BitVec 2)
  /-- RING_POST_DELIVERY (event), R316. -/
  | ringPostDelivery (gang : BitVec 32)
  /-- TAIL (event), R352. -/
  | tail (q : BitVec 6) (v : BitVec 32)
  /-- GANG_START (event), R357. -/
  | gangStart (q : BitVec 6) (cores : BitVec 160) (slots : BitVec 768)
  /-- GANG_COMPLETE (event), R359. -/
  | gangComplete (gang : BitVec 32)
  /-- GANG_PREEMPT (event), R363. -/
  | gangPreempt (gang : BitVec 32) (record : BitVec 56) (areas : BitVec 14336)
  /-- GANG_RESUME (event), R364. -/
  | gangResume (gang : BitVec 32) (cores : BitVec 160) (slots : BitVec 768)
  /-- PROBE_TOKEN_SEND (event), R366. -/
  | probeTokenSend (unit : BitVec 16) (queue : BitVec 16) (left : BitVec 1)
  /-- PROBE_TOKEN_RECEIVE (event), R366. -/
  | probeTokenReceive (k : BitVec 16) (waits : BitVec 17)
  /-- L2_WINDOW (event), R369. -/
  | l2Window (slice : BitVec 11) (misses : BitVec 32) (accesses : BitVec 32) (fits : BitVec 1)
  /-- THROTTLE_START (event), R370. -/
  | throttleStart (die : BitVec 2) (temp : BitVec 8) (steps : BitVec 5)
  /-- THROTTLE_END (event), R370. -/
  | throttleEnd (die : BitVec 2) (temp : BitVec 8)
  /-- LEASE_EXPIRY (event), R373. -/
  | leaseExpiry
  /-- COUNTER_ROTATION (event), R349. -/
  | counterRotation (core : BitVec 5)
  /-- REPLAY_INPUT_APPLY (event), R342. -/
  | replayInputApply (gang : BitVec 32)
  /-- HOST_APERTURE_WRITE (event), R374. -/
  | hostApertureWrite (off : BitVec 36) (n : BitVec 7) (data : BitVec 512)
  /-- HOST_SRF_READ (event), R375. -/
  | hostSrfRead (idx : BitVec 14)
  /-- HOST_SRF_WRITE (event), R375. -/
  | hostSrfWrite (idx : BitVec 14) (v : BitVec 64)
  /-- REGISTER_WRITE (event), R374. -/
  | registerWrite (bar : BitVec 3) (off : BitVec 36) (size : BitVec 4) (v : BitVec 64)
  /-- RALBA_FRAME_RECEIVE (event), R378. -/
  | ralbaFrameReceive (inward : BitVec 1) (ctx : BitVec 16) (win : BitVec 8) (count : BitVec 13) (peer : BitVec 64) (seq : BitVec 32) (op : BitVec 4) (tag : BitVec 5) (va : BitVec 64) (n : BitVec 7) (data : BitVec 512) (expect : BitVec 64) (taint : BitVec 1)
  /-- FRAME_RETRY (event), R378. -/
  | frameRetry (ctx : BitVec 16) (win : BitVec 8) (reaches : BitVec 1)
  /-- LINK_LOSS (event), R378. -/
  | linkLoss (ctx : BitVec 16) (win : BitVec 8)
  /-- DEVICE_RESET (event), R380. -/
  | deviceReset (atomics : BitVec 1)
  /-- POWER_LOSS (event), R351. -/
  | powerLoss
  /-- RECOVERY_DOORBELL (event), R381. -/
  | recoveryDoorbell (len : BitVec 64)
  /-- SUMMARY (event), R385. -/
  | summary (buf : BitVec 64)
  /-- SET_LAUNCH_QUEUE (event), R352. -/
  | setLaunchQueue (buf : BitVec 64) (queue : BitVec 6) (k : BitVec 8) (base : BitVec 56)
  /-- RACK_LEASE (event), R373. -/
  | rackLease (buf : BitVec 64) (seq : BitVec 64) (cap : BitVec 16) (ms : BitVec 32)
  /-- SET_WINDOW (event), R377. -/
  | setWindow (buf : BitVec 64) (ctx : BitVec 16) (num : BitVec 8) (peer : BitVec 64) (peerCtx : BitVec 16) (base : BitVec 64) (len : BitVec 64) (status : BitVec 56)
  /-- RESET_HART (event), R365. -/
  | resetHart (buf : BitVec 64) (hart : BitVec 8)
  /-- ATTESTATION_REPORT (event), R382. -/
  | attestationReport (buf : BitVec 64)
  /-- RETIRE_RESOURCE (event), R379. -/
  | retireResource (buf : BitVec 64) (kind : BitVec 8) (number : BitVec 16)
  /-- SET_BREAKPOINTS (event), R350. -/
  | setBreakpoints (buf : BitVec 64)
  /-- SET_COUNTERS (event), R350. -/
  | setCounters (buf : BitVec 64)
  /-- READ_COUNTERS (event), R350. -/
  | readCounters (buf : BitVec 64)
  /-- SET_TRACE (event), R350. -/
  | setTrace (buf : BitVec 64)
  /-- READ_TRACE_STATUS (event), R350. -/
  | readTraceStatus (buf : BitVec 64)
  /-- REGISTER_CONTEXT (event), R384. -/
  | registerContext (buf : BitVec 64)
  /-- PLACE_APERTURE (event), R383. -/
  | placeAperture (buf : BitVec 64)
  /-- SET_THOT (event), R383. -/
  | setThot (buf : BitVec 64)
  /-- SET_ETHERTYPE (event), R383. -/
  | setEthertype (buf : BitVec 64)
  /-- ASSIGN_ROOT_PORT (event), R383. -/
  | assignRootPort (buf : BitVec 64)
  /-- ILLEGAL (event), R38. -/
  | illegal (w : BitVec 64)
  /-- FETCH_TRAP (event), R31. -/
  | fetchTrap
  /-- COMBINE_APPLIED (event), R176. -/
  | combineApplied (k : BitVec 16)
  /-- HALTED_HART_RESUME (event), R346. -/
  | haltedHartResume (hart : BitVec 8)
  /-- REMOTE_LINK_RESTORED (event), R378. -/
  | remoteLinkRestored (ctx : BitVec 16) (win : BitVec 8)
  /-- ROOT_PORT_DEVICE_ACCESS (event), R376. -/
  | rootPortDeviceAccess (port : BitVec 2) (write : BitVec 1) (va : BitVec 64) (n : BitVec 7) (data : BitVec 512)
  /-- BOOST_END (event), R371. -/
  | boostEnd
  /-- ENDED_BY_SUPERVISOR_SIDE (event), R360. -/
  | endedBySupervisorSide (gang : BitVec 32)
  /-- IMAGE_VERIFICATION_DONE (event), R381. -/
  | imageVerificationDone
  deriving DecidableEq, Repr

end Sys2Proof
end

