-- ==== Sys2Proof/WellFormed.lean ====
section
/-!
DEFINITION. The field rules an instruction of the decoder obeys beyond the widths of its fields: the values R33, R34,
R37, R55, R126, R195, R207, R227 and R255 allow. A word that breaks one is ILLEGAL (R38). An event has no word and so
no field rule.
-/

namespace Sys2Proof

/-- The field values the formats allow (R33, R34, R37 and the tables of R55, R137, R150, R195, R207, R227, R255). -/
def Instr.wellFormed : Instr → Bool
  | .add _ _ _ => true
  | .sub _ _ _ => true
  | .and _ _ _ => true
  | .or _ _ _ => true
  | .xor _ _ _ => true
  | .sll _ _ _ => true
  | .srl _ _ _ => true
  | .sra _ _ _ => true
  | .slt _ _ _ => true
  | .sltu _ _ _ => true
  | .min _ _ _ => true
  | .max _ _ _ => true
  | .minu _ _ _ => true
  | .maxu _ _ _ => true
  | .andn _ _ _ => true
  | .orn _ _ _ => true
  | .clz _ _ => true
  | .ctz _ _ => true
  | .popc _ _ => true
  | .sextw _ _ => true
  | .addw _ _ _ => true
  | .subw _ _ _ => true
  | .addi _ _ _ => true
  | .andi _ _ _ => true
  | .ori _ _ _ => true
  | .xori _ _ _ => true
  | .slti _ _ _ => true
  | .sltiu _ _ _ => true
  | .slli _ _ _ => true
  | .srli _ _ _ => true
  | .srai _ _ _ => true
  | .lui _ _ => true
  | .auipc _ _ => true
  | .mul _ _ _ => true
  | .mulh _ _ _ => true
  | .mulhu _ _ _ => true
  | .mulhsu _ _ _ => true
  | .div _ _ _ => true
  | .divu _ _ _ => true
  | .rem _ _ _ => true
  | .remu _ _ _ => true
  | .mulw _ _ _ => true
  | .beq _ _ _ => true
  | .bne _ _ _ => true
  | .blt _ _ _ => true
  | .bge _ _ _ => true
  | .bltu _ _ _ => true
  | .bgeu _ _ _ => true
  | .jal _ _ => true
  | .jalr _ _ _ => true
  | .loop _ _ imm => decide (1 ≤ imm.toNat) && decide (imm.toNat ≤ 16383)
  | .loopi _ dist _ => decide (2 ≤ dist.toNat) && decide (dist.toNat ≤ 16383)
  | .lb _ _ _ => true
  | .lh _ _ _ => true
  | .lw _ _ _ => true
  | .ld _ _ _ => true
  | .lbu _ _ _ => true
  | .lhu _ _ _ => true
  | .lwu _ _ _ => true
  | .sb _ _ _ => true
  | .sh _ _ _ => true
  | .sw _ _ _ => true
  | .sd _ _ _ => true
  | .amoswap _ _ _ _ _ sc => decide (sc.toNat ≤ 4)
  | .amoadd _ _ _ _ _ sc => decide (sc.toNat ≤ 4)
  | .amoand _ _ _ _ _ sc => decide (sc.toNat ≤ 4)
  | .amoor _ _ _ _ _ sc => decide (sc.toNat ≤ 4)
  | .amoxor _ _ _ _ _ sc => decide (sc.toNat ≤ 4)
  | .amomin _ _ _ _ _ sc => decide (sc.toNat ≤ 4)
  | .amomax _ _ _ _ _ sc => decide (sc.toNat ≤ 4)
  | .amominu _ _ _ _ _ sc => decide (sc.toNat ≤ 4)
  | .amomaxu _ _ _ _ _ sc => decide (sc.toNat ≤ 4)
  | .amocas _ _ _ _ _ sc => decide (sc.toNat ≤ 4)
  | .fence sc x y => decide (sc.toNat ≤ 4) && decide (x ≠ 0#3) && decide (y ≠ 0#3)
  | .tfence sc => decide (sc.toNat ≤ 4)
  | .ecall => true
  | .ebreak => true
  | .tret => true
  | .wfi => true
  | .cvb => true
  | .tmark _ => true
  | .csrrw _ _ _ => true
  | .csrrs _ _ _ => true
  | .csrrc _ _ _ => true
  | .csrrwi _ _ _ => true
  | .csrrsi _ _ _ => true
  | .csrrci _ _ _ => true
  | .faddS _ _ _ => true
  | .faddD _ _ _ => true
  | .fsubS _ _ _ => true
  | .fsubD _ _ _ => true
  | .fmulS _ _ _ => true
  | .fmulD _ _ _ => true
  | .fdivS _ _ _ => true
  | .fdivD _ _ _ => true
  | .fsqrtS _ _ => true
  | .fsqrtD _ _ => true
  | .fminS _ _ _ => true
  | .fminD _ _ _ => true
  | .fmaxS _ _ _ => true
  | .fmaxD _ _ _ => true
  | .fsgnjS _ _ _ => true
  | .fsgnjD _ _ _ => true
  | .fsgnjnS _ _ _ => true
  | .fsgnjnD _ _ _ => true
  | .fsgnjxS _ _ _ => true
  | .fsgnjxD _ _ _ => true
  | .feqS _ _ _ => true
  | .feqD _ _ _ => true
  | .fltS _ _ _ => true
  | .fltD _ _ _ => true
  | .fleS _ _ _ => true
  | .fleD _ _ _ => true
  | .fclassS _ _ => true
  | .fclassD _ _ => true
  | .fmaddS _ _ _ _ => true
  | .fmaddD _ _ _ _ => true
  | .fmsubS _ _ _ _ => true
  | .fmsubD _ _ _ _ => true
  | .fnmaddS _ _ _ _ => true
  | .fnmaddD _ _ _ _ => true
  | .fnmsubS _ _ _ _ => true
  | .fnmsubD _ _ _ _ => true
  | .fcvtws _ _ => true
  | .fcvtwus _ _ => true
  | .fcvtls _ _ => true
  | .fcvtlus _ _ => true
  | .fcvtsw _ _ => true
  | .fcvtswu _ _ => true
  | .fcvtsl _ _ => true
  | .fcvtslu _ _ => true
  | .fcvtwd _ _ => true
  | .fcvtwud _ _ => true
  | .fcvtld _ _ => true
  | .fcvtlud _ _ => true
  | .fcvtdw _ _ => true
  | .fcvtdwu _ _ => true
  | .fcvtdl _ _ => true
  | .fcvtdlu _ _ => true
  | .fcvtsd _ _ => true
  | .fcvtds _ _ => true
  | .syld _ _ _ sc => decide (sc.toNat ≤ 2)
  | .syst _ _ _ sc => decide (sc.toNat ≤ 2)
  | .sytas _ _ _ sc => decide (sc.toNat ≤ 2)
  | .syfaa _ _ _ _ sc => decide (sc.toNat ≤ 2)
  | .sycas _ _ _ _ sc => decide (sc.toNat ≤ 2)
  | .sywait _ _ _ _ sc c => decide (sc.toNat ≤ 2) && decide (c.toNat ≤ 5)
  | .sybar _ _ _ _ sc => decide (sc.toNat ≤ 2)
  | .ipost _ _ => true
  | .iwait _ _ _ => true
  | .tspawn _ _ => true
  | .ttake _ => true
  | .tjoin _ _ => true
  | .tdone _ => true
  | .li _ _ _ => true
  | .setvl _ _ => true
  | .vcfg e _ r f _ => decide (e.toNat ≤ 18) && decide (r.toNat ≤ 4) && decide (f.toNat ≤ 2)
  | .vtag e => decide (e.toNat ≤ 18)
  | .vretag _ t => decide (1 ≤ t.toNat) && decide (t.toNat ≤ 18)
  | .mmode _ _ => true
  | .settile _ _ => true
  | .vaddV _ _ _ _ => true
  | .vsubV _ _ _ _ => true
  | .vmulV _ _ _ _ => true
  | .vmulhV _ _ _ _ => true
  | .vminV _ _ _ _ => true
  | .vmaxV _ _ _ _ => true
  | .vdivV _ _ _ _ => true
  | .vremV _ _ _ _ => true
  | .vaddW _ _ _ _ => true
  | .vsubW _ _ _ _ => true
  | .vmulW _ _ _ _ => true
  | .vmulhW _ _ _ _ => true
  | .vminW _ _ _ _ => true
  | .vmaxW _ _ _ _ => true
  | .vdivW _ _ _ _ => true
  | .vremW _ _ _ _ => true
  | .vandV _ _ _ _ => true
  | .vorV _ _ _ _ => true
  | .vxorV _ _ _ _ => true
  | .vandnV _ _ _ _ => true
  | .vsllV _ _ _ _ => true
  | .vsrlV _ _ _ _ => true
  | .vsraV _ _ _ _ => true
  | .vmulhuV _ _ _ _ => true
  | .vandW _ _ _ _ => true
  | .vorW _ _ _ _ => true
  | .vxorW _ _ _ _ => true
  | .vandnW _ _ _ _ => true
  | .vsllW _ _ _ _ => true
  | .vsrlW _ _ _ _ => true
  | .vsraW _ _ _ _ => true
  | .vmulhuW _ _ _ _ => true
  | .vfmaV _ _ _ _ => true
  | .vfmsV _ _ _ _ => true
  | .vfnmaV _ _ _ _ => true
  | .vfnmsV _ _ _ _ => true
  | .vfmaW _ _ _ _ => true
  | .vfmsW _ _ _ _ => true
  | .vfnmaW _ _ _ _ => true
  | .vfnmsW _ _ _ _ => true
  | .vneg _ _ _ => true
  | .vabs _ _ _ => true
  | .vsqrt _ _ _ => true
  | .vexp2 _ _ _ => true
  | .vlog2 _ _ _ => true
  | .vrcp _ _ _ => true
  | .vnot _ _ _ => true
  | .viota _ _ _ => true
  | .vcmpeqV _ _ _ _ => true
  | .vcmpneV _ _ _ _ => true
  | .vcmpltV _ _ _ _ => true
  | .vcmpleV _ _ _ _ => true
  | .vcmpgtV _ _ _ _ => true
  | .vcmpgeV _ _ _ _ => true
  | .vcmpunV _ _ _ _ => true
  | .vcmpeqW _ _ _ _ => true
  | .vcmpneW _ _ _ _ => true
  | .vcmpltW _ _ _ _ => true
  | .vcmpleW _ _ _ _ => true
  | .vcmpgtW _ _ _ _ => true
  | .vcmpgeW _ _ _ _ => true
  | .vcmpunW _ _ _ _ => true
  | .vmv _ _ _ => true
  | .vsplat _ _ _ => true
  | .vsel _ _ _ _ => true
  | .vmvx _ _ _ => true
  | .vins _ _ _ => true
  | .vcvt _ _ t _ => decide (1 ≤ t.toNat) && decide (t.toNat ≤ 18)
  | .pand _ _ _ _ => true
  | .por _ _ _ _ => true
  | .pxor _ _ _ _ => true
  | .pandn _ _ _ _ => true
  | .pnot _ _ _ => true
  | .pfirst _ _ _ => true
  | .pcnt _ _ _ => true
  | .psetvl _ _ _ => true
  | .vslideup _ _ _ _ => true
  | .vslidedn _ _ _ _ => true
  | .vperm _ _ _ _ => true
  | .vbfly _ _ _ _ => true
  | .vcompress _ _ _ => true
  | .vexpand _ _ _ => true
  | .vscan _ _ _ => true
  | .vrev _ _ _ => true
  | .vredsum _ _ _ => true
  | .vredmin _ _ _ => true
  | .vredmax _ _ _ => true
  | .vredand _ _ _ => true
  | .vredor _ _ _ => true
  | .vredxor _ _ _ => true
  | .vredmini _ _ _ => true
  | .vredmaxi _ _ _ => true
  | .vsample _ _ _ _ => true
  | .vtopk d _ _ _ => decide (d.toNat ≤ 62)
  | .vld _ _ _ _ => true
  | .vlds _ _ _ _ _ => true
  | .vldx _ _ _ _ _ => true
  | .loadDataReturn _ => true
  | .vst _ _ _ _ => true
  | .vsts _ _ _ _ _ => true
  | .vstx _ _ _ _ _ => true
  | .vcadd _ _ _ _ _ => true
  | .vcmin _ _ _ _ _ => true
  | .vcmax _ _ _ _ _ => true
  | .vcor _ _ _ _ _ => true
  | .vaadd _ _ _ _ _ => true
  | .vamin _ _ _ _ _ => true
  | .vamax _ _ _ _ _ => true
  | .vaand _ _ _ _ _ => true
  | .vaor _ _ _ _ _ => true
  | .vaxor _ _ _ _ _ => true
  | .vaswap _ _ _ _ _ => true
  | .vfence sc => decide (sc.toNat ≤ 4)
  | .vbind _ _ _ => true
  | .vunbind _ => true
  | .vbstat _ _ => true
  | .streamFetch _ => true
  | .mzero _ => true
  | .mmac _ _ _ _ => true
  | .mmacw _ _ _ => true
  | .mcvt _ c => (c = 3#5 || c = 11#5 || c = 13#5)
  | .mrdrow _ _ _ => true
  | .mwrrow _ _ _ => true
  | .mwld _ f _ _ => decide (f.toNat ≤ 2)
  | .mscl _ _ _ => true
  | .hgen _ _ _ _ => true
  | .hrot _ _ _ _ => true
  | .hacc _ _ _ => true
  | .hsign _ _ _ _ => true
  | .hdist _ _ _ _ => true
  | .hsimm _ _ _ => true
  | .hfstep d _ _ => decide (d.toNat ≤ 60)
  | .hclean d _ b => decide (d ≠ 0#5) && decide (d ≠ b)
  | .hfact d _ _ => decide (d.toNat ≤ 60)
  | .svld _ _ _ => true
  | .svst _ _ => true
  | .svadd _ _ _ => true
  | .svmul _ _ _ => true
  | .svdot _ _ _ => true
  | .svtov _ _ _ => true
  | .svlen _ _ => true
  | .rpost _ _ => true
  | .rwait _ _ _ => true
  | .routerNode _ _ _ => true
  | .roundClose _ _ => true
  | .cpy _ _ _ _ tk treg => (tk = 1#1 || treg ≠ 0#5)
  | .cpys _ _ _ _ tk treg sz _ => (tk = 1#1 || treg ≠ 0#5) && decide (sz.toNat ≤ 6)
  | .cpyx _ _ _ _ tk treg sz _ => (tk = 1#1 || treg ≠ 0#5) && decide (sz.toNat ≤ 6)
  | .cpyt _ _ => true
  | .copyComplete => true
  | .srdef _ => true
  | .srld _ _ _ => true
  | .srst _ _ _ => true
  | .srrow _ _ _ => true
  | .srtrav d _ _ => decide (d.toNat ≤ 62)
  | .srdense _ _ _ tk treg => (tk = 1#1 || treg ≠ 0#5)
  | .srcnt _ _ => true
  | .edef _ _ _ => true
  | .erun _ _ => true
  | .eend => true
  | .estat _ _ => true
  | .efront _ => true
  | .timerExpiry => true
  | .interrupt => true
  | .preempt _ _ => true
  | .hostmsg _ => true
  | .breakpointHalt => true
  | .wcbDrain _ => true
  | .srfMirrorUpdate _ => true
  | .ringPostDelivery _ => true
  | .tail _ _ => true
  | .gangStart _ _ _ => true
  | .gangComplete _ => true
  | .gangPreempt _ _ _ => true
  | .gangResume _ _ _ => true
  | .probeTokenSend _ _ _ => true
  | .probeTokenReceive _ _ => true
  | .l2Window _ _ _ _ => true
  | .throttleStart _ _ _ => true
  | .throttleEnd _ _ => true
  | .leaseExpiry => true
  | .counterRotation _ => true
  | .replayInputApply _ => true
  | .hostApertureWrite _ _ _ => true
  | .hostSrfRead _ => true
  | .hostSrfWrite _ _ => true
  | .registerWrite _ _ _ _ => true
  | .ralbaFrameReceive _ _ _ _ _ _ _ _ _ _ _ _ _ => true
  | .frameRetry _ _ _ => true
  | .linkLoss _ _ => true
  | .deviceReset _ => true
  | .powerLoss => true
  | .recoveryDoorbell _ => true
  | .summary _ => true
  | .setLaunchQueue _ _ _ _ => true
  | .rackLease _ _ _ _ => true
  | .setWindow _ _ _ _ _ _ _ _ => true
  | .resetHart _ _ => true
  | .attestationReport _ => true
  | .retireResource _ _ _ => true
  | .setBreakpoints _ => true
  | .setCounters _ => true
  | .readCounters _ => true
  | .setTrace _ => true
  | .readTraceStatus _ => true
  | .registerContext _ => true
  | .placeAperture _ => true
  | .setThot _ => true
  | .setEthertype _ => true
  | .assignRootPort _ => true
  | .illegal _ => true
  | .fetchTrap => true
  | .combineApplied _ => true
  | .haltedHartResume _ => true
  | .remoteLinkRestored _ _ => true
  | .rootPortDeviceAccess _ _ _ _ _ => true
  | .boostEnd => true
  | .endedBySupervisorSide _ => true
  | .imageVerificationDone => true

/-- The rows with a word of their own: every constructor but the events. -/
def Instr.hasWord : Instr → Bool
  | .add _ _ _ => true
  | .sub _ _ _ => true
  | .and _ _ _ => true
  | .or _ _ _ => true
  | .xor _ _ _ => true
  | .sll _ _ _ => true
  | .srl _ _ _ => true
  | .sra _ _ _ => true
  | .slt _ _ _ => true
  | .sltu _ _ _ => true
  | .min _ _ _ => true
  | .max _ _ _ => true
  | .minu _ _ _ => true
  | .maxu _ _ _ => true
  | .andn _ _ _ => true
  | .orn _ _ _ => true
  | .clz _ _ => true
  | .ctz _ _ => true
  | .popc _ _ => true
  | .sextw _ _ => true
  | .addw _ _ _ => true
  | .subw _ _ _ => true
  | .addi _ _ _ => true
  | .andi _ _ _ => true
  | .ori _ _ _ => true
  | .xori _ _ _ => true
  | .slti _ _ _ => true
  | .sltiu _ _ _ => true
  | .slli _ _ _ => true
  | .srli _ _ _ => true
  | .srai _ _ _ => true
  | .lui _ _ => true
  | .auipc _ _ => true
  | .mul _ _ _ => true
  | .mulh _ _ _ => true
  | .mulhu _ _ _ => true
  | .mulhsu _ _ _ => true
  | .div _ _ _ => true
  | .divu _ _ _ => true
  | .rem _ _ _ => true
  | .remu _ _ _ => true
  | .mulw _ _ _ => true
  | .beq _ _ _ => true
  | .bne _ _ _ => true
  | .blt _ _ _ => true
  | .bge _ _ _ => true
  | .bltu _ _ _ => true
  | .bgeu _ _ _ => true
  | .jal _ _ => true
  | .jalr _ _ _ => true
  | .loop _ _ _ => true
  | .loopi _ _ _ => true
  | .lb _ _ _ => true
  | .lh _ _ _ => true
  | .lw _ _ _ => true
  | .ld _ _ _ => true
  | .lbu _ _ _ => true
  | .lhu _ _ _ => true
  | .lwu _ _ _ => true
  | .sb _ _ _ => true
  | .sh _ _ _ => true
  | .sw _ _ _ => true
  | .sd _ _ _ => true
  | .amoswap _ _ _ _ _ _ => true
  | .amoadd _ _ _ _ _ _ => true
  | .amoand _ _ _ _ _ _ => true
  | .amoor _ _ _ _ _ _ => true
  | .amoxor _ _ _ _ _ _ => true
  | .amomin _ _ _ _ _ _ => true
  | .amomax _ _ _ _ _ _ => true
  | .amominu _ _ _ _ _ _ => true
  | .amomaxu _ _ _ _ _ _ => true
  | .amocas _ _ _ _ _ _ => true
  | .fence _ _ _ => true
  | .tfence _ => true
  | .ecall => true
  | .ebreak => true
  | .tret => true
  | .wfi => true
  | .cvb => true
  | .tmark _ => true
  | .csrrw _ _ _ => true
  | .csrrs _ _ _ => true
  | .csrrc _ _ _ => true
  | .csrrwi _ _ _ => true
  | .csrrsi _ _ _ => true
  | .csrrci _ _ _ => true
  | .faddS _ _ _ => true
  | .faddD _ _ _ => true
  | .fsubS _ _ _ => true
  | .fsubD _ _ _ => true
  | .fmulS _ _ _ => true
  | .fmulD _ _ _ => true
  | .fdivS _ _ _ => true
  | .fdivD _ _ _ => true
  | .fsqrtS _ _ => true
  | .fsqrtD _ _ => true
  | .fminS _ _ _ => true
  | .fminD _ _ _ => true
  | .fmaxS _ _ _ => true
  | .fmaxD _ _ _ => true
  | .fsgnjS _ _ _ => true
  | .fsgnjD _ _ _ => true
  | .fsgnjnS _ _ _ => true
  | .fsgnjnD _ _ _ => true
  | .fsgnjxS _ _ _ => true
  | .fsgnjxD _ _ _ => true
  | .feqS _ _ _ => true
  | .feqD _ _ _ => true
  | .fltS _ _ _ => true
  | .fltD _ _ _ => true
  | .fleS _ _ _ => true
  | .fleD _ _ _ => true
  | .fclassS _ _ => true
  | .fclassD _ _ => true
  | .fmaddS _ _ _ _ => true
  | .fmaddD _ _ _ _ => true
  | .fmsubS _ _ _ _ => true
  | .fmsubD _ _ _ _ => true
  | .fnmaddS _ _ _ _ => true
  | .fnmaddD _ _ _ _ => true
  | .fnmsubS _ _ _ _ => true
  | .fnmsubD _ _ _ _ => true
  | .fcvtws _ _ => true
  | .fcvtwus _ _ => true
  | .fcvtls _ _ => true
  | .fcvtlus _ _ => true
  | .fcvtsw _ _ => true
  | .fcvtswu _ _ => true
  | .fcvtsl _ _ => true
  | .fcvtslu _ _ => true
  | .fcvtwd _ _ => true
  | .fcvtwud _ _ => true
  | .fcvtld _ _ => true
  | .fcvtlud _ _ => true
  | .fcvtdw _ _ => true
  | .fcvtdwu _ _ => true
  | .fcvtdl _ _ => true
  | .fcvtdlu _ _ => true
  | .fcvtsd _ _ => true
  | .fcvtds _ _ => true
  | .syld _ _ _ _ => true
  | .syst _ _ _ _ => true
  | .sytas _ _ _ _ => true
  | .syfaa _ _ _ _ _ => true
  | .sycas _ _ _ _ _ => true
  | .sywait _ _ _ _ _ _ => true
  | .sybar _ _ _ _ _ => true
  | .ipost _ _ => true
  | .iwait _ _ _ => true
  | .tspawn _ _ => true
  | .ttake _ => true
  | .tjoin _ _ => true
  | .tdone _ => true
  | .li _ _ _ => true
  | .setvl _ _ => true
  | .vcfg _ _ _ _ _ => true
  | .vtag _ => true
  | .vretag _ _ => true
  | .mmode _ _ => true
  | .settile _ _ => true
  | .vaddV _ _ _ _ => true
  | .vsubV _ _ _ _ => true
  | .vmulV _ _ _ _ => true
  | .vmulhV _ _ _ _ => true
  | .vminV _ _ _ _ => true
  | .vmaxV _ _ _ _ => true
  | .vdivV _ _ _ _ => true
  | .vremV _ _ _ _ => true
  | .vaddW _ _ _ _ => true
  | .vsubW _ _ _ _ => true
  | .vmulW _ _ _ _ => true
  | .vmulhW _ _ _ _ => true
  | .vminW _ _ _ _ => true
  | .vmaxW _ _ _ _ => true
  | .vdivW _ _ _ _ => true
  | .vremW _ _ _ _ => true
  | .vandV _ _ _ _ => true
  | .vorV _ _ _ _ => true
  | .vxorV _ _ _ _ => true
  | .vandnV _ _ _ _ => true
  | .vsllV _ _ _ _ => true
  | .vsrlV _ _ _ _ => true
  | .vsraV _ _ _ _ => true
  | .vmulhuV _ _ _ _ => true
  | .vandW _ _ _ _ => true
  | .vorW _ _ _ _ => true
  | .vxorW _ _ _ _ => true
  | .vandnW _ _ _ _ => true
  | .vsllW _ _ _ _ => true
  | .vsrlW _ _ _ _ => true
  | .vsraW _ _ _ _ => true
  | .vmulhuW _ _ _ _ => true
  | .vfmaV _ _ _ _ => true
  | .vfmsV _ _ _ _ => true
  | .vfnmaV _ _ _ _ => true
  | .vfnmsV _ _ _ _ => true
  | .vfmaW _ _ _ _ => true
  | .vfmsW _ _ _ _ => true
  | .vfnmaW _ _ _ _ => true
  | .vfnmsW _ _ _ _ => true
  | .vneg _ _ _ => true
  | .vabs _ _ _ => true
  | .vsqrt _ _ _ => true
  | .vexp2 _ _ _ => true
  | .vlog2 _ _ _ => true
  | .vrcp _ _ _ => true
  | .vnot _ _ _ => true
  | .viota _ _ _ => true
  | .vcmpeqV _ _ _ _ => true
  | .vcmpneV _ _ _ _ => true
  | .vcmpltV _ _ _ _ => true
  | .vcmpleV _ _ _ _ => true
  | .vcmpgtV _ _ _ _ => true
  | .vcmpgeV _ _ _ _ => true
  | .vcmpunV _ _ _ _ => true
  | .vcmpeqW _ _ _ _ => true
  | .vcmpneW _ _ _ _ => true
  | .vcmpltW _ _ _ _ => true
  | .vcmpleW _ _ _ _ => true
  | .vcmpgtW _ _ _ _ => true
  | .vcmpgeW _ _ _ _ => true
  | .vcmpunW _ _ _ _ => true
  | .vmv _ _ _ => true
  | .vsplat _ _ _ => true
  | .vsel _ _ _ _ => true
  | .vmvx _ _ _ => true
  | .vins _ _ _ => true
  | .vcvt _ _ _ _ => true
  | .pand _ _ _ _ => true
  | .por _ _ _ _ => true
  | .pxor _ _ _ _ => true
  | .pandn _ _ _ _ => true
  | .pnot _ _ _ => true
  | .pfirst _ _ _ => true
  | .pcnt _ _ _ => true
  | .psetvl _ _ _ => true
  | .vslideup _ _ _ _ => true
  | .vslidedn _ _ _ _ => true
  | .vperm _ _ _ _ => true
  | .vbfly _ _ _ _ => true
  | .vcompress _ _ _ => true
  | .vexpand _ _ _ => true
  | .vscan _ _ _ => true
  | .vrev _ _ _ => true
  | .vredsum _ _ _ => true
  | .vredmin _ _ _ => true
  | .vredmax _ _ _ => true
  | .vredand _ _ _ => true
  | .vredor _ _ _ => true
  | .vredxor _ _ _ => true
  | .vredmini _ _ _ => true
  | .vredmaxi _ _ _ => true
  | .vsample _ _ _ _ => true
  | .vtopk _ _ _ _ => true
  | .vld _ _ _ _ => true
  | .vlds _ _ _ _ _ => true
  | .vldx _ _ _ _ _ => true
  | .loadDataReturn _ => false
  | .vst _ _ _ _ => true
  | .vsts _ _ _ _ _ => true
  | .vstx _ _ _ _ _ => true
  | .vcadd _ _ _ _ _ => true
  | .vcmin _ _ _ _ _ => true
  | .vcmax _ _ _ _ _ => true
  | .vcor _ _ _ _ _ => true
  | .vaadd _ _ _ _ _ => true
  | .vamin _ _ _ _ _ => true
  | .vamax _ _ _ _ _ => true
  | .vaand _ _ _ _ _ => true
  | .vaor _ _ _ _ _ => true
  | .vaxor _ _ _ _ _ => true
  | .vaswap _ _ _ _ _ => true
  | .vfence _ => true
  | .vbind _ _ _ => true
  | .vunbind _ => true
  | .vbstat _ _ => true
  | .streamFetch _ => false
  | .mzero _ => true
  | .mmac _ _ _ _ => true
  | .mmacw _ _ _ => true
  | .mcvt _ _ => true
  | .mrdrow _ _ _ => true
  | .mwrrow _ _ _ => true
  | .mwld _ _ _ _ => true
  | .mscl _ _ _ => true
  | .hgen _ _ _ _ => true
  | .hrot _ _ _ _ => true
  | .hacc _ _ _ => true
  | .hsign _ _ _ _ => true
  | .hdist _ _ _ _ => true
  | .hsimm _ _ _ => true
  | .hfstep _ _ _ => true
  | .hclean _ _ _ => true
  | .hfact _ _ _ => true
  | .svld _ _ _ => true
  | .svst _ _ => true
  | .svadd _ _ _ => true
  | .svmul _ _ _ => true
  | .svdot _ _ _ => true
  | .svtov _ _ _ => true
  | .svlen _ _ => true
  | .rpost _ _ => true
  | .rwait _ _ _ => true
  | .routerNode _ _ _ => false
  | .roundClose _ _ => false
  | .cpy _ _ _ _ _ _ => true
  | .cpys _ _ _ _ _ _ _ _ => true
  | .cpyx _ _ _ _ _ _ _ _ => true
  | .cpyt _ _ => true
  | .copyComplete => false
  | .srdef _ => true
  | .srld _ _ _ => true
  | .srst _ _ _ => true
  | .srrow _ _ _ => true
  | .srtrav _ _ _ => true
  | .srdense _ _ _ _ _ => true
  | .srcnt _ _ => true
  | .edef _ _ _ => true
  | .erun _ _ => true
  | .eend => true
  | .estat _ _ => true
  | .efront _ => true
  | .timerExpiry => false
  | .interrupt => false
  | .preempt _ _ => false
  | .hostmsg _ => false
  | .breakpointHalt => false
  | .wcbDrain _ => false
  | .srfMirrorUpdate _ => false
  | .ringPostDelivery _ => false
  | .tail _ _ => false
  | .gangStart _ _ _ => false
  | .gangComplete _ => false
  | .gangPreempt _ _ _ => false
  | .gangResume _ _ _ => false
  | .probeTokenSend _ _ _ => false
  | .probeTokenReceive _ _ => false
  | .l2Window _ _ _ _ => false
  | .throttleStart _ _ _ => false
  | .throttleEnd _ _ => false
  | .leaseExpiry => false
  | .counterRotation _ => false
  | .replayInputApply _ => false
  | .hostApertureWrite _ _ _ => false
  | .hostSrfRead _ => false
  | .hostSrfWrite _ _ => false
  | .registerWrite _ _ _ _ => false
  | .ralbaFrameReceive _ _ _ _ _ _ _ _ _ _ _ _ _ => false
  | .frameRetry _ _ _ => false
  | .linkLoss _ _ => false
  | .deviceReset _ => false
  | .powerLoss => false
  | .recoveryDoorbell _ => false
  | .summary _ => false
  | .setLaunchQueue _ _ _ _ => false
  | .rackLease _ _ _ _ => false
  | .setWindow _ _ _ _ _ _ _ _ => false
  | .resetHart _ _ => false
  | .attestationReport _ => false
  | .retireResource _ _ _ => false
  | .setBreakpoints _ => false
  | .setCounters _ => false
  | .readCounters _ => false
  | .setTrace _ => false
  | .readTraceStatus _ => false
  | .registerContext _ => false
  | .placeAperture _ => false
  | .setThot _ => false
  | .setEthertype _ => false
  | .assignRootPort _ => false
  | .illegal _ => false
  | .fetchTrap => false
  | .combineApplied _ => false
  | .haltedHartResume _ => false
  | .remoteLinkRestored _ _ => false
  | .rootPortDeviceAccess _ _ _ _ _ => false
  | .boostEnd => false
  | .endedBySupervisorSide _ => false
  | .imageVerificationDone => false

end Sys2Proof
end

