-- ==== Sys2Proof/Decode.lean ====
section
/-!
DEFINITION. The decoder (R29 to R38), total on any bytes and rejecting by name, and the encoder written from the same
tables.
-/

namespace Sys2Proof

/-- Why some bytes are no instruction (R38). -/
inductive DecodeError where
  /-- The major is reserved, or is a long major where a 32-bit word is read. -/
  | reservedMajor
  /-- The function value is not listed in R35, R36 or R37. -/
  | unlistedFunction
  /-- A field the instruction leaves unused is not zero (R33). -/
  | unusedFieldNotZero
  /-- A field holds a value outside its listed range (R33, R34, R37). -/
  | fieldOutOfRange
  /-- Fewer bytes than the instruction has. -/
  | truncated
  deriving DecidableEq, Repr

/-- Bits `lo + n - 1` to `lo` of a word (R3). -/
def fld (lo n : Nat) (w : Word32) : BitVec n := BitVec.ofNat n (w.toNat / 2 ^ lo)

/-- A field placed with its lowest bit at `lo`, as a summand of the word's number. -/
def slot {n : Nat} (lo : Nat) (x : BitVec n) : Nat := x.toNat * 2 ^ lo

/-- The word of a number. -/
def pack (k : Nat) : Word32 := BitVec.ofNat 32 k

/-- An instruction whose unused fields are zero and whose fields lie in range, or the reason it is none. -/
def accept (unusedZero : Bool) (i : Instr) : Except DecodeError Instr :=
  if unusedZero then (if i.wellFormed then .ok i else .error .fieldOutOfRange) else .error .unusedFieldNotZero

/-- `accept` for word 0 of a long form (step 2 of R31). -/
def acceptHead (unusedZero inRange : Bool) : Except DecodeError Unit :=
  if unusedZero then (if inRange then .ok () else .error .fieldOutOfRange) else .error .unusedFieldNotZero

/-- Word 0 of a long form: OP[6:4] is 0b111 (R29). -/
def isLong (w : Word32) : Bool := fld 4 3 w == 7#3

/-- Major 0x01 (R35, R36, R37): ADD, SUB, AND, OR, XOR, SLL, SRL, SRA, SLT, SLTU, MIN, MAX, MINU, MAXU, ANDN, ORN, CLZ, CTZ, POPC, SEXTW, ADDW, SUBW. -/
noncomputable def decodeMajor01 (w : Word32) : Except DecodeError Instr :=
  match (fld 22 10 w).toNat with
  | 0 => accept true (.add (fld 7 5 w) (fld 12 5 w) (fld 17 5 w))
  | 1 => accept true (.sub (fld 7 5 w) (fld 12 5 w) (fld 17 5 w))
  | 2 => accept true (.and (fld 7 5 w) (fld 12 5 w) (fld 17 5 w))
  | 3 => accept true (.or (fld 7 5 w) (fld 12 5 w) (fld 17 5 w))
  | 4 => accept true (.xor (fld 7 5 w) (fld 12 5 w) (fld 17 5 w))
  | 5 => accept true (.sll (fld 7 5 w) (fld 12 5 w) (fld 17 5 w))
  | 6 => accept true (.srl (fld 7 5 w) (fld 12 5 w) (fld 17 5 w))
  | 7 => accept true (.sra (fld 7 5 w) (fld 12 5 w) (fld 17 5 w))
  | 8 => accept true (.slt (fld 7 5 w) (fld 12 5 w) (fld 17 5 w))
  | 9 => accept true (.sltu (fld 7 5 w) (fld 12 5 w) (fld 17 5 w))
  | 10 => accept true (.min (fld 7 5 w) (fld 12 5 w) (fld 17 5 w))
  | 11 => accept true (.max (fld 7 5 w) (fld 12 5 w) (fld 17 5 w))
  | 12 => accept true (.minu (fld 7 5 w) (fld 12 5 w) (fld 17 5 w))
  | 13 => accept true (.maxu (fld 7 5 w) (fld 12 5 w) (fld 17 5 w))
  | 14 => accept true (.andn (fld 7 5 w) (fld 12 5 w) (fld 17 5 w))
  | 15 => accept true (.orn (fld 7 5 w) (fld 12 5 w) (fld 17 5 w))
  | 16 => accept (fld 17 5 w == 0#5) (.clz (fld 7 5 w) (fld 12 5 w))
  | 17 => accept (fld 17 5 w == 0#5) (.ctz (fld 7 5 w) (fld 12 5 w))
  | 18 => accept (fld 17 5 w == 0#5) (.popc (fld 7 5 w) (fld 12 5 w))
  | 19 => accept (fld 17 5 w == 0#5) (.sextw (fld 7 5 w) (fld 12 5 w))
  | 20 => accept true (.addw (fld 7 5 w) (fld 12 5 w) (fld 17 5 w))
  | 21 => accept true (.subw (fld 7 5 w) (fld 12 5 w) (fld 17 5 w))
  | _ => .error .unlistedFunction

/-- Major 0x02 (R35, R36, R37): ADDI. -/
noncomputable def decodeMajor02 (w : Word32) : Except DecodeError Instr :=
  accept true (.addi (fld 7 5 w) (fld 12 5 w) (fld 17 15 w))

/-- Major 0x03 (R35, R36, R37): ANDI. -/
noncomputable def decodeMajor03 (w : Word32) : Except DecodeError Instr :=
  accept true (.andi (fld 7 5 w) (fld 12 5 w) (fld 17 15 w))

/-- Major 0x04 (R35, R36, R37): ORI. -/
noncomputable def decodeMajor04 (w : Word32) : Except DecodeError Instr :=
  accept true (.ori (fld 7 5 w) (fld 12 5 w) (fld 17 15 w))

/-- Major 0x05 (R35, R36, R37): XORI. -/
noncomputable def decodeMajor05 (w : Word32) : Except DecodeError Instr :=
  accept true (.xori (fld 7 5 w) (fld 12 5 w) (fld 17 15 w))

/-- Major 0x06 (R35, R36, R37): SLTI. -/
noncomputable def decodeMajor06 (w : Word32) : Except DecodeError Instr :=
  accept true (.slti (fld 7 5 w) (fld 12 5 w) (fld 17 15 w))

/-- Major 0x07 (R35, R36, R37): SLTIU. -/
noncomputable def decodeMajor07 (w : Word32) : Except DecodeError Instr :=
  accept true (.sltiu (fld 7 5 w) (fld 12 5 w) (fld 17 15 w))

/-- Major 0x08 (R35, R36, R37): SLLI, SRLI, SRAI. -/
noncomputable def decodeMajor08 (w : Word32) : Except DecodeError Instr :=
  match (fld 29 3 w).toNat with
  | 0 => accept (fld 23 6 w == 0#6) (.slli (fld 7 5 w) (fld 12 5 w) (fld 17 6 w))
  | 1 => accept (fld 23 6 w == 0#6) (.srli (fld 7 5 w) (fld 12 5 w) (fld 17 6 w))
  | 2 => accept (fld 23 6 w == 0#6) (.srai (fld 7 5 w) (fld 12 5 w) (fld 17 6 w))
  | _ => .error .unlistedFunction

/-- Major 0x09 (R35, R36, R37): LUI. -/
noncomputable def decodeMajor09 (w : Word32) : Except DecodeError Instr :=
  accept true (.lui (fld 7 5 w) (fld 12 20 w))

/-- Major 0x0a (R35, R36, R37): AUIPC. -/
noncomputable def decodeMajor0A (w : Word32) : Except DecodeError Instr :=
  accept true (.auipc (fld 7 5 w) (fld 12 20 w))

/-- Major 0x0b (R35, R36, R37): MUL, MULH, MULHU, MULHSU, DIV, DIVU, REM, REMU, MULW. -/
noncomputable def decodeMajor0B (w : Word32) : Except DecodeError Instr :=
  match (fld 22 10 w).toNat with
  | 0 => accept true (.mul (fld 7 5 w) (fld 12 5 w) (fld 17 5 w))
  | 1 => accept true (.mulh (fld 7 5 w) (fld 12 5 w) (fld 17 5 w))
  | 2 => accept true (.mulhu (fld 7 5 w) (fld 12 5 w) (fld 17 5 w))
  | 3 => accept true (.mulhsu (fld 7 5 w) (fld 12 5 w) (fld 17 5 w))
  | 4 => accept true (.div (fld 7 5 w) (fld 12 5 w) (fld 17 5 w))
  | 5 => accept true (.divu (fld 7 5 w) (fld 12 5 w) (fld 17 5 w))
  | 6 => accept true (.rem (fld 7 5 w) (fld 12 5 w) (fld 17 5 w))
  | 7 => accept true (.remu (fld 7 5 w) (fld 12 5 w) (fld 17 5 w))
  | 8 => accept true (.mulw (fld 7 5 w) (fld 12 5 w) (fld 17 5 w))
  | _ => .error .unlistedFunction

/-- Major 0x0c (R35, R36, R37): BEQ, BNE, BLT, BGE, BLTU, BGEU. -/
noncomputable def decodeMajor0C (w : Word32) : Except DecodeError Instr :=
  match (fld 17 3 w).toNat with
  | 0 => accept true (.beq (fld 7 5 w) (fld 12 5 w) (fld 20 12 w))
  | 1 => accept true (.bne (fld 7 5 w) (fld 12 5 w) (fld 20 12 w))
  | 4 => accept true (.blt (fld 7 5 w) (fld 12 5 w) (fld 20 12 w))
  | 5 => accept true (.bge (fld 7 5 w) (fld 12 5 w) (fld 20 12 w))
  | 6 => accept true (.bltu (fld 7 5 w) (fld 12 5 w) (fld 20 12 w))
  | 7 => accept true (.bgeu (fld 7 5 w) (fld 12 5 w) (fld 20 12 w))
  | _ => .error .unlistedFunction

/-- Major 0x0d (R35, R36, R37): JAL. -/
noncomputable def decodeMajor0D (w : Word32) : Except DecodeError Instr :=
  accept true (.jal (fld 7 5 w) (fld 12 20 w))

/-- Major 0x0e (R35, R36, R37): JALR. -/
noncomputable def decodeMajor0E (w : Word32) : Except DecodeError Instr :=
  accept true (.jalr (fld 7 5 w) (fld 12 5 w) (fld 17 15 w))

/-- Major 0x0f (R35, R36, R37): LOOP. -/
noncomputable def decodeMajor0F (w : Word32) : Except DecodeError Instr :=
  accept (fld 8 4 w == 0#4) (.loop (fld 7 1 w) (fld 12 5 w) (fld 17 15 w))

/-- Major 0x10 (R35, R36, R37): LB. -/
noncomputable def decodeMajor10 (w : Word32) : Except DecodeError Instr :=
  accept true (.lb (fld 7 5 w) (fld 12 5 w) (fld 17 15 w))

/-- Major 0x11 (R35, R36, R37): LH. -/
noncomputable def decodeMajor11 (w : Word32) : Except DecodeError Instr :=
  accept true (.lh (fld 7 5 w) (fld 12 5 w) (fld 17 15 w))

/-- Major 0x12 (R35, R36, R37): LW. -/
noncomputable def decodeMajor12 (w : Word32) : Except DecodeError Instr :=
  accept true (.lw (fld 7 5 w) (fld 12 5 w) (fld 17 15 w))

/-- Major 0x13 (R35, R36, R37): LD. -/
noncomputable def decodeMajor13 (w : Word32) : Except DecodeError Instr :=
  accept true (.ld (fld 7 5 w) (fld 12 5 w) (fld 17 15 w))

/-- Major 0x14 (R35, R36, R37): LBU. -/
noncomputable def decodeMajor14 (w : Word32) : Except DecodeError Instr :=
  accept true (.lbu (fld 7 5 w) (fld 12 5 w) (fld 17 15 w))

/-- Major 0x15 (R35, R36, R37): LHU. -/
noncomputable def decodeMajor15 (w : Word32) : Except DecodeError Instr :=
  accept true (.lhu (fld 7 5 w) (fld 12 5 w) (fld 17 15 w))

/-- Major 0x16 (R35, R36, R37): LWU. -/
noncomputable def decodeMajor16 (w : Word32) : Except DecodeError Instr :=
  accept true (.lwu (fld 7 5 w) (fld 12 5 w) (fld 17 15 w))

/-- Major 0x18 (R35, R36, R37): SB. -/
noncomputable def decodeMajor18 (w : Word32) : Except DecodeError Instr :=
  accept true (.sb (fld 7 5 w) (fld 12 5 w) (fld 17 15 w))

/-- Major 0x19 (R35, R36, R37): SH. -/
noncomputable def decodeMajor19 (w : Word32) : Except DecodeError Instr :=
  accept true (.sh (fld 7 5 w) (fld 12 5 w) (fld 17 15 w))

/-- Major 0x1a (R35, R36, R37): SW. -/
noncomputable def decodeMajor1A (w : Word32) : Except DecodeError Instr :=
  accept true (.sw (fld 7 5 w) (fld 12 5 w) (fld 17 15 w))

/-- Major 0x1b (R35, R36, R37): SD. -/
noncomputable def decodeMajor1B (w : Word32) : Except DecodeError Instr :=
  accept true (.sd (fld 7 5 w) (fld 12 5 w) (fld 17 15 w))

/-- Major 0x1c (R35, R36, R37): AMOSWAP, AMOADD, AMOAND, AMOOR, AMOXOR, AMOMIN, AMOMAX, AMOMINU, AMOMAXU, AMOCAS. -/
noncomputable def decodeMajor1C (w : Word32) : Except DecodeError Instr :=
  match (fld 22 4 w).toNat with
  | 0 => accept true (.amoswap (fld 7 5 w) (fld 12 5 w) (fld 17 5 w) (fld 26 1 w) (fld 27 2 w) (fld 29 3 w))
  | 1 => accept true (.amoadd (fld 7 5 w) (fld 12 5 w) (fld 17 5 w) (fld 26 1 w) (fld 27 2 w) (fld 29 3 w))
  | 2 => accept true (.amoand (fld 7 5 w) (fld 12 5 w) (fld 17 5 w) (fld 26 1 w) (fld 27 2 w) (fld 29 3 w))
  | 3 => accept true (.amoor (fld 7 5 w) (fld 12 5 w) (fld 17 5 w) (fld 26 1 w) (fld 27 2 w) (fld 29 3 w))
  | 4 => accept true (.amoxor (fld 7 5 w) (fld 12 5 w) (fld 17 5 w) (fld 26 1 w) (fld 27 2 w) (fld 29 3 w))
  | 5 => accept true (.amomin (fld 7 5 w) (fld 12 5 w) (fld 17 5 w) (fld 26 1 w) (fld 27 2 w) (fld 29 3 w))
  | 6 => accept true (.amomax (fld 7 5 w) (fld 12 5 w) (fld 17 5 w) (fld 26 1 w) (fld 27 2 w) (fld 29 3 w))
  | 7 => accept true (.amominu (fld 7 5 w) (fld 12 5 w) (fld 17 5 w) (fld 26 1 w) (fld 27 2 w) (fld 29 3 w))
  | 8 => accept true (.amomaxu (fld 7 5 w) (fld 12 5 w) (fld 17 5 w) (fld 26 1 w) (fld 27 2 w) (fld 29 3 w))
  | 9 => accept true (.amocas (fld 7 5 w) (fld 12 5 w) (fld 17 5 w) (fld 26 1 w) (fld 27 2 w) (fld 29 3 w))
  | _ => .error .unlistedFunction

/-- Major 0x1d (R35, R36, R37): FENCE, TFENCE. -/
noncomputable def decodeMajor1D (w : Word32) : Except DecodeError Instr :=
  match (fld 22 1 w).toNat with
  | 0 => accept (fld 7 15 w == 0#15) (.fence (fld 23 3 w) (fld 26 3 w) (fld 29 3 w))
  | 1 => accept (fld 7 15 w == 0#15 && fld 26 6 w == 0#6) (.tfence (fld 23 3 w))
  | _ => .error .unlistedFunction

/-- Major 0x1e (R35, R36, R37): ECALL, EBREAK, TRET, WFI, CVB, TMARK. -/
noncomputable def decodeMajor1E (w : Word32) : Except DecodeError Instr :=
  match (fld 22 10 w).toNat with
  | 0 => accept (fld 7 15 w == 0#15) (.ecall)
  | 1 => accept (fld 7 15 w == 0#15) (.ebreak)
  | 2 => accept (fld 7 15 w == 0#15) (.tret)
  | 3 => accept (fld 7 15 w == 0#15) (.wfi)
  | 4 => accept (fld 7 15 w == 0#15) (.cvb)
  | 5 => accept (fld 7 5 w == 0#5 && fld 17 5 w == 0#5) (.tmark (fld 12 5 w))
  | _ => .error .unlistedFunction

/-- Major 0x1f (R35, R36, R37): CSRRW, CSRRS, CSRRC, CSRRWI, CSRRSI, CSRRCI. -/
noncomputable def decodeMajor1F (w : Word32) : Except DecodeError Instr :=
  match (fld 29 3 w).toNat with
  | 0 => accept true (.csrrw (fld 7 5 w) (fld 12 5 w) (fld 17 12 w))
  | 1 => accept true (.csrrs (fld 7 5 w) (fld 12 5 w) (fld 17 12 w))
  | 2 => accept true (.csrrc (fld 7 5 w) (fld 12 5 w) (fld 17 12 w))
  | 4 => accept true (.csrrwi (fld 7 5 w) (fld 12 5 w) (fld 17 12 w))
  | 5 => accept true (.csrrsi (fld 7 5 w) (fld 12 5 w) (fld 17 12 w))
  | 6 => accept true (.csrrci (fld 7 5 w) (fld 12 5 w) (fld 17 12 w))
  | _ => .error .unlistedFunction

/-- Major 0x20 (R35, R36, R37): FADD_S, FADD_D, FSUB_S, FSUB_D, FMUL_S, FMUL_D, FDIV_S, FDIV_D, FSQRT_S, FSQRT_D, FMIN_S, FMIN_D, FMAX_S, FMAX_D, FSGNJ_S, FSGNJ_D, FSGNJN_S, FSGNJN_D, FSGNJX_S, FSGNJX_D, FEQ_S, FEQ_D, FLT_S, FLT_D, FLE_S, FLE_D, FCLASS_S, FCLASS_D. -/
noncomputable def decodeMajor20 (w : Word32) : Except DecodeError Instr :=
  match (fld 22 10 w).toNat with
  | 0 => accept true (.faddS (fld 7 5 w) (fld 12 5 w) (fld 17 5 w))
  | 1 => accept true (.faddD (fld 7 5 w) (fld 12 5 w) (fld 17 5 w))
  | 2 => accept true (.fsubS (fld 7 5 w) (fld 12 5 w) (fld 17 5 w))
  | 3 => accept true (.fsubD (fld 7 5 w) (fld 12 5 w) (fld 17 5 w))
  | 4 => accept true (.fmulS (fld 7 5 w) (fld 12 5 w) (fld 17 5 w))
  | 5 => accept true (.fmulD (fld 7 5 w) (fld 12 5 w) (fld 17 5 w))
  | 6 => accept true (.fdivS (fld 7 5 w) (fld 12 5 w) (fld 17 5 w))
  | 7 => accept true (.fdivD (fld 7 5 w) (fld 12 5 w) (fld 17 5 w))
  | 8 => accept (fld 17 5 w == 0#5) (.fsqrtS (fld 7 5 w) (fld 12 5 w))
  | 9 => accept (fld 17 5 w == 0#5) (.fsqrtD (fld 7 5 w) (fld 12 5 w))
  | 10 => accept true (.fminS (fld 7 5 w) (fld 12 5 w) (fld 17 5 w))
  | 11 => accept true (.fminD (fld 7 5 w) (fld 12 5 w) (fld 17 5 w))
  | 12 => accept true (.fmaxS (fld 7 5 w) (fld 12 5 w) (fld 17 5 w))
  | 13 => accept true (.fmaxD (fld 7 5 w) (fld 12 5 w) (fld 17 5 w))
  | 14 => accept true (.fsgnjS (fld 7 5 w) (fld 12 5 w) (fld 17 5 w))
  | 15 => accept true (.fsgnjD (fld 7 5 w) (fld 12 5 w) (fld 17 5 w))
  | 16 => accept true (.fsgnjnS (fld 7 5 w) (fld 12 5 w) (fld 17 5 w))
  | 17 => accept true (.fsgnjnD (fld 7 5 w) (fld 12 5 w) (fld 17 5 w))
  | 18 => accept true (.fsgnjxS (fld 7 5 w) (fld 12 5 w) (fld 17 5 w))
  | 19 => accept true (.fsgnjxD (fld 7 5 w) (fld 12 5 w) (fld 17 5 w))
  | 20 => accept true (.feqS (fld 7 5 w) (fld 12 5 w) (fld 17 5 w))
  | 21 => accept true (.feqD (fld 7 5 w) (fld 12 5 w) (fld 17 5 w))
  | 22 => accept true (.fltS (fld 7 5 w) (fld 12 5 w) (fld 17 5 w))
  | 23 => accept true (.fltD (fld 7 5 w) (fld 12 5 w) (fld 17 5 w))
  | 24 => accept true (.fleS (fld 7 5 w) (fld 12 5 w) (fld 17 5 w))
  | 25 => accept true (.fleD (fld 7 5 w) (fld 12 5 w) (fld 17 5 w))
  | 26 => accept (fld 17 5 w == 0#5) (.fclassS (fld 7 5 w) (fld 12 5 w))
  | 27 => accept (fld 17 5 w == 0#5) (.fclassD (fld 7 5 w) (fld 12 5 w))
  | _ => .error .unlistedFunction

/-- Major 0x21 (R35, R36, R37): FMADD_S, FMADD_D, FMSUB_S, FMSUB_D, FNMADD_S, FNMADD_D, FNMSUB_S, FNMSUB_D. -/
noncomputable def decodeMajor21 (w : Word32) : Except DecodeError Instr :=
  match (fld 27 5 w).toNat with
  | 0 => accept true (.fmaddS (fld 7 5 w) (fld 12 5 w) (fld 17 5 w) (fld 22 5 w))
  | 4 => accept true (.fmaddD (fld 7 5 w) (fld 12 5 w) (fld 17 5 w) (fld 22 5 w))
  | 1 => accept true (.fmsubS (fld 7 5 w) (fld 12 5 w) (fld 17 5 w) (fld 22 5 w))
  | 5 => accept true (.fmsubD (fld 7 5 w) (fld 12 5 w) (fld 17 5 w) (fld 22 5 w))
  | 2 => accept true (.fnmaddS (fld 7 5 w) (fld 12 5 w) (fld 17 5 w) (fld 22 5 w))
  | 6 => accept true (.fnmaddD (fld 7 5 w) (fld 12 5 w) (fld 17 5 w) (fld 22 5 w))
  | 3 => accept true (.fnmsubS (fld 7 5 w) (fld 12 5 w) (fld 17 5 w) (fld 22 5 w))
  | 7 => accept true (.fnmsubD (fld 7 5 w) (fld 12 5 w) (fld 17 5 w) (fld 22 5 w))
  | _ => .error .unlistedFunction

/-- Major 0x22 (R35, R36, R37): FCVTWS, FCVTWUS, FCVTLS, FCVTLUS, FCVTSW, FCVTSWU, FCVTSL, FCVTSLU, FCVTWD, FCVTWUD, FCVTLD, FCVTLUD, FCVTDW, FCVTDWU, FCVTDL, FCVTDLU, FCVTSD, FCVTDS. -/
noncomputable def decodeMajor22 (w : Word32) : Except DecodeError Instr :=
  match (fld 22 10 w).toNat with
  | 0 => accept (fld 17 5 w == 0#5) (.fcvtws (fld 7 5 w) (fld 12 5 w))
  | 1 => accept (fld 17 5 w == 0#5) (.fcvtwus (fld 7 5 w) (fld 12 5 w))
  | 2 => accept (fld 17 5 w == 0#5) (.fcvtls (fld 7 5 w) (fld 12 5 w))
  | 3 => accept (fld 17 5 w == 0#5) (.fcvtlus (fld 7 5 w) (fld 12 5 w))
  | 4 => accept (fld 17 5 w == 0#5) (.fcvtsw (fld 7 5 w) (fld 12 5 w))
  | 5 => accept (fld 17 5 w == 0#5) (.fcvtswu (fld 7 5 w) (fld 12 5 w))
  | 6 => accept (fld 17 5 w == 0#5) (.fcvtsl (fld 7 5 w) (fld 12 5 w))
  | 7 => accept (fld 17 5 w == 0#5) (.fcvtslu (fld 7 5 w) (fld 12 5 w))
  | 8 => accept (fld 17 5 w == 0#5) (.fcvtwd (fld 7 5 w) (fld 12 5 w))
  | 9 => accept (fld 17 5 w == 0#5) (.fcvtwud (fld 7 5 w) (fld 12 5 w))
  | 10 => accept (fld 17 5 w == 0#5) (.fcvtld (fld 7 5 w) (fld 12 5 w))
  | 11 => accept (fld 17 5 w == 0#5) (.fcvtlud (fld 7 5 w) (fld 12 5 w))
  | 12 => accept (fld 17 5 w == 0#5) (.fcvtdw (fld 7 5 w) (fld 12 5 w))
  | 13 => accept (fld 17 5 w == 0#5) (.fcvtdwu (fld 7 5 w) (fld 12 5 w))
  | 14 => accept (fld 17 5 w == 0#5) (.fcvtdl (fld 7 5 w) (fld 12 5 w))
  | 15 => accept (fld 17 5 w == 0#5) (.fcvtdlu (fld 7 5 w) (fld 12 5 w))
  | 16 => accept (fld 17 5 w == 0#5) (.fcvtsd (fld 7 5 w) (fld 12 5 w))
  | 17 => accept (fld 17 5 w == 0#5) (.fcvtds (fld 7 5 w) (fld 12 5 w))
  | _ => .error .unlistedFunction

/-- Major 0x23 (R35, R36, R37): SYLD, SYST, SYTAS, SYFAA, SYCAS, SYWAIT, SYBAR. -/
noncomputable def decodeMajor23 (w : Word32) : Except DecodeError Instr :=
  match (fld 22 3 w).toNat with
  | 0 => accept (fld 17 5 w == 0#5 && fld 29 3 w == 0#3) (.syld (fld 7 5 w) (fld 12 5 w) (fld 25 2 w) (fld 27 2 w))
  | 1 => accept (fld 7 5 w == 0#5 && fld 29 3 w == 0#3) (.syst (fld 12 5 w) (fld 17 5 w) (fld 25 2 w) (fld 27 2 w))
  | 2 => accept (fld 17 5 w == 0#5 && fld 29 3 w == 0#3) (.sytas (fld 7 5 w) (fld 12 5 w) (fld 25 2 w) (fld 27 2 w))
  | 3 => accept (fld 29 3 w == 0#3) (.syfaa (fld 7 5 w) (fld 12 5 w) (fld 17 5 w) (fld 25 2 w) (fld 27 2 w))
  | 4 => accept (fld 29 3 w == 0#3) (.sycas (fld 7 5 w) (fld 12 5 w) (fld 17 5 w) (fld 25 2 w) (fld 27 2 w))
  | 5 => accept true (.sywait (fld 7 5 w) (fld 12 5 w) (fld 17 5 w) (fld 25 2 w) (fld 27 2 w) (fld 29 3 w))
  | 6 => accept (fld 29 3 w == 0#3) (.sybar (fld 7 5 w) (fld 12 5 w) (fld 17 5 w) (fld 25 2 w) (fld 27 2 w))
  | _ => .error .unlistedFunction

/-- Major 0x24 (R35, R36, R37): IPOST, IWAIT, TSPAWN, TTAKE, TJOIN, TDONE. -/
noncomputable def decodeMajor24 (w : Word32) : Except DecodeError Instr :=
  match (fld 22 10 w).toNat with
  | 0 => accept (fld 7 5 w == 0#5) (.ipost (fld 12 5 w) (fld 17 5 w))
  | 1 => accept true (.iwait (fld 7 5 w) (fld 12 5 w) (fld 17 5 w))
  | 2 => accept (fld 17 5 w == 0#5) (.tspawn (fld 7 5 w) (fld 12 5 w))
  | 3 => accept (fld 12 10 w == 0#10) (.ttake (fld 7 5 w))
  | 4 => accept (fld 17 5 w == 0#5) (.tjoin (fld 7 5 w) (fld 12 5 w))
  | 5 => accept (fld 7 5 w == 0#5 && fld 17 5 w == 0#5) (.tdone (fld 12 5 w))
  | _ => .error .unlistedFunction

/-- Major 0x30 (R35, R36, R37): SETVL, VCFG, VTAG, VRETAG, MMODE, SETTILE. -/
noncomputable def decodeMajor30 (w : Word32) : Except DecodeError Instr :=
  match (fld 29 3 w).toNat with
  | 0 => accept (fld 12 7 w == 0#7 && fld 24 5 w == 0#5) (.setvl (fld 7 5 w) (fld 19 5 w))
  | 1 => accept (fld 19 10 w == 0#10) (.vcfg (fld 7 5 w) (fld 12 1 w) (fld 13 3 w) (fld 16 2 w) (fld 18 1 w))
  | 2 => accept (fld 12 17 w == 0#17) (.vtag (fld 7 5 w))
  | 3 => accept (fld 18 11 w == 0#11) (.vretag (fld 7 6 w) (fld 13 5 w))
  | 4 => accept (fld 12 7 w == 0#7 && fld 24 5 w == 0#5) (.mmode (fld 7 5 w) (fld 19 5 w))
  | 5 => accept (fld 12 7 w == 0#7 && fld 24 5 w == 0#5) (.settile (fld 7 5 w) (fld 19 5 w))
  | _ => .error .unlistedFunction

/-- Major 0x31 (R35, R36, R37): VADD_V, VSUB_V, VMUL_V, VMULH_V, VMIN_V, VMAX_V, VDIV_V, VREM_V. -/
def decodeMajor31 (w : Word32) : Except DecodeError Instr :=
  match (fld 29 3 w).toNat with
  | 0 => accept true (.vaddV (fld 7 6 w) (fld 13 6 w) (fld 19 6 w) (fld 25 4 w))
  | 1 => accept true (.vsubV (fld 7 6 w) (fld 13 6 w) (fld 19 6 w) (fld 25 4 w))
  | 2 => accept true (.vmulV (fld 7 6 w) (fld 13 6 w) (fld 19 6 w) (fld 25 4 w))
  | 3 => accept true (.vmulhV (fld 7 6 w) (fld 13 6 w) (fld 19 6 w) (fld 25 4 w))
  | 4 => accept true (.vminV (fld 7 6 w) (fld 13 6 w) (fld 19 6 w) (fld 25 4 w))
  | 5 => accept true (.vmaxV (fld 7 6 w) (fld 13 6 w) (fld 19 6 w) (fld 25 4 w))
  | 6 => accept true (.vdivV (fld 7 6 w) (fld 13 6 w) (fld 19 6 w) (fld 25 4 w))
  | 7 => accept true (.vremV (fld 7 6 w) (fld 13 6 w) (fld 19 6 w) (fld 25 4 w))
  | _ => .error .unlistedFunction

/-- Major 0x32 (R35, R36, R37): VADD_W, VSUB_W, VMUL_W, VMULH_W, VMIN_W, VMAX_W, VDIV_W, VREM_W. -/
def decodeMajor32 (w : Word32) : Except DecodeError Instr :=
  match (fld 29 3 w).toNat with
  | 0 => accept (fld 24 1 w == 0#1) (.vaddW (fld 7 6 w) (fld 13 6 w) (fld 19 5 w) (fld 25 4 w))
  | 1 => accept (fld 24 1 w == 0#1) (.vsubW (fld 7 6 w) (fld 13 6 w) (fld 19 5 w) (fld 25 4 w))
  | 2 => accept (fld 24 1 w == 0#1) (.vmulW (fld 7 6 w) (fld 13 6 w) (fld 19 5 w) (fld 25 4 w))
  | 3 => accept (fld 24 1 w == 0#1) (.vmulhW (fld 7 6 w) (fld 13 6 w) (fld 19 5 w) (fld 25 4 w))
  | 4 => accept (fld 24 1 w == 0#1) (.vminW (fld 7 6 w) (fld 13 6 w) (fld 19 5 w) (fld 25 4 w))
  | 5 => accept (fld 24 1 w == 0#1) (.vmaxW (fld 7 6 w) (fld 13 6 w) (fld 19 5 w) (fld 25 4 w))
  | 6 => accept (fld 24 1 w == 0#1) (.vdivW (fld 7 6 w) (fld 13 6 w) (fld 19 5 w) (fld 25 4 w))
  | 7 => accept (fld 24 1 w == 0#1) (.vremW (fld 7 6 w) (fld 13 6 w) (fld 19 5 w) (fld 25 4 w))
  | _ => .error .unlistedFunction

/-- Major 0x33 (R35, R36, R37): VAND_V, VOR_V, VXOR_V, VANDN_V, VSLL_V, VSRL_V, VSRA_V, VMULHU_V. -/
def decodeMajor33 (w : Word32) : Except DecodeError Instr :=
  match (fld 29 3 w).toNat with
  | 0 => accept true (.vandV (fld 7 6 w) (fld 13 6 w) (fld 19 6 w) (fld 25 4 w))
  | 1 => accept true (.vorV (fld 7 6 w) (fld 13 6 w) (fld 19 6 w) (fld 25 4 w))
  | 2 => accept true (.vxorV (fld 7 6 w) (fld 13 6 w) (fld 19 6 w) (fld 25 4 w))
  | 3 => accept true (.vandnV (fld 7 6 w) (fld 13 6 w) (fld 19 6 w) (fld 25 4 w))
  | 4 => accept true (.vsllV (fld 7 6 w) (fld 13 6 w) (fld 19 6 w) (fld 25 4 w))
  | 5 => accept true (.vsrlV (fld 7 6 w) (fld 13 6 w) (fld 19 6 w) (fld 25 4 w))
  | 6 => accept true (.vsraV (fld 7 6 w) (fld 13 6 w) (fld 19 6 w) (fld 25 4 w))
  | 7 => accept true (.vmulhuV (fld 7 6 w) (fld 13 6 w) (fld 19 6 w) (fld 25 4 w))
  | _ => .error .unlistedFunction

/-- Major 0x34 (R35, R36, R37): VAND_W, VOR_W, VXOR_W, VANDN_W, VSLL_W, VSRL_W, VSRA_W, VMULHU_W. -/
def decodeMajor34 (w : Word32) : Except DecodeError Instr :=
  match (fld 29 3 w).toNat with
  | 0 => accept (fld 24 1 w == 0#1) (.vandW (fld 7 6 w) (fld 13 6 w) (fld 19 5 w) (fld 25 4 w))
  | 1 => accept (fld 24 1 w == 0#1) (.vorW (fld 7 6 w) (fld 13 6 w) (fld 19 5 w) (fld 25 4 w))
  | 2 => accept (fld 24 1 w == 0#1) (.vxorW (fld 7 6 w) (fld 13 6 w) (fld 19 5 w) (fld 25 4 w))
  | 3 => accept (fld 24 1 w == 0#1) (.vandnW (fld 7 6 w) (fld 13 6 w) (fld 19 5 w) (fld 25 4 w))
  | 4 => accept (fld 24 1 w == 0#1) (.vsllW (fld 7 6 w) (fld 13 6 w) (fld 19 5 w) (fld 25 4 w))
  | 5 => accept (fld 24 1 w == 0#1) (.vsrlW (fld 7 6 w) (fld 13 6 w) (fld 19 5 w) (fld 25 4 w))
  | 6 => accept (fld 24 1 w == 0#1) (.vsraW (fld 7 6 w) (fld 13 6 w) (fld 19 5 w) (fld 25 4 w))
  | 7 => accept (fld 24 1 w == 0#1) (.vmulhuW (fld 7 6 w) (fld 13 6 w) (fld 19 5 w) (fld 25 4 w))
  | _ => .error .unlistedFunction

/-- Major 0x35 (R35, R36, R37): VFMA_V, VFMS_V, VFNMA_V, VFNMS_V. -/
def decodeMajor35 (w : Word32) : Except DecodeError Instr :=
  match (fld 29 3 w).toNat with
  | 0 => accept true (.vfmaV (fld 7 6 w) (fld 13 6 w) (fld 19 6 w) (fld 25 4 w))
  | 1 => accept true (.vfmsV (fld 7 6 w) (fld 13 6 w) (fld 19 6 w) (fld 25 4 w))
  | 2 => accept true (.vfnmaV (fld 7 6 w) (fld 13 6 w) (fld 19 6 w) (fld 25 4 w))
  | 3 => accept true (.vfnmsV (fld 7 6 w) (fld 13 6 w) (fld 19 6 w) (fld 25 4 w))
  | _ => .error .unlistedFunction

/-- Major 0x36 (R35, R36, R37): VFMA_W, VFMS_W, VFNMA_W, VFNMS_W. -/
def decodeMajor36 (w : Word32) : Except DecodeError Instr :=
  match (fld 29 3 w).toNat with
  | 0 => accept (fld 24 1 w == 0#1) (.vfmaW (fld 7 6 w) (fld 13 6 w) (fld 19 5 w) (fld 25 4 w))
  | 1 => accept (fld 24 1 w == 0#1) (.vfmsW (fld 7 6 w) (fld 13 6 w) (fld 19 5 w) (fld 25 4 w))
  | 2 => accept (fld 24 1 w == 0#1) (.vfnmaW (fld 7 6 w) (fld 13 6 w) (fld 19 5 w) (fld 25 4 w))
  | 3 => accept (fld 24 1 w == 0#1) (.vfnmsW (fld 7 6 w) (fld 13 6 w) (fld 19 5 w) (fld 25 4 w))
  | _ => .error .unlistedFunction

/-- Major 0x37 (R35, R36, R37): VNEG, VABS, VSQRT, VEXP2, VLOG2, VRCP, VNOT, VIOTA. -/
def decodeMajor37 (w : Word32) : Except DecodeError Instr :=
  match (fld 29 3 w).toNat with
  | 0 => accept (fld 19 6 w == 0#6) (.vneg (fld 7 6 w) (fld 13 6 w) (fld 25 4 w))
  | 1 => accept (fld 19 6 w == 0#6) (.vabs (fld 7 6 w) (fld 13 6 w) (fld 25 4 w))
  | 2 => accept (fld 19 6 w == 0#6) (.vsqrt (fld 7 6 w) (fld 13 6 w) (fld 25 4 w))
  | 3 => accept (fld 19 6 w == 0#6) (.vexp2 (fld 7 6 w) (fld 13 6 w) (fld 25 4 w))
  | 4 => accept (fld 19 6 w == 0#6) (.vlog2 (fld 7 6 w) (fld 13 6 w) (fld 25 4 w))
  | 5 => accept (fld 19 6 w == 0#6) (.vrcp (fld 7 6 w) (fld 13 6 w) (fld 25 4 w))
  | 6 => accept (fld 19 6 w == 0#6) (.vnot (fld 7 6 w) (fld 13 6 w) (fld 25 4 w))
  | 7 => accept (fld 17 8 w == 0#8) (.viota (fld 7 6 w) (fld 13 4 w) (fld 25 4 w))
  | _ => .error .unlistedFunction

/-- Major 0x38 (R35, R36, R37): VCMPEQ_V, VCMPNE_V, VCMPLT_V, VCMPLE_V, VCMPGT_V, VCMPGE_V, VCMPUN_V. -/
def decodeMajor38 (w : Word32) : Except DecodeError Instr :=
  match (fld 29 3 w).toNat with
  | 0 => accept (fld 11 2 w == 0#2) (.vcmpeqV (fld 7 4 w) (fld 13 6 w) (fld 19 6 w) (fld 25 4 w))
  | 1 => accept (fld 11 2 w == 0#2) (.vcmpneV (fld 7 4 w) (fld 13 6 w) (fld 19 6 w) (fld 25 4 w))
  | 2 => accept (fld 11 2 w == 0#2) (.vcmpltV (fld 7 4 w) (fld 13 6 w) (fld 19 6 w) (fld 25 4 w))
  | 3 => accept (fld 11 2 w == 0#2) (.vcmpleV (fld 7 4 w) (fld 13 6 w) (fld 19 6 w) (fld 25 4 w))
  | 4 => accept (fld 11 2 w == 0#2) (.vcmpgtV (fld 7 4 w) (fld 13 6 w) (fld 19 6 w) (fld 25 4 w))
  | 5 => accept (fld 11 2 w == 0#2) (.vcmpgeV (fld 7 4 w) (fld 13 6 w) (fld 19 6 w) (fld 25 4 w))
  | 6 => accept (fld 11 2 w == 0#2) (.vcmpunV (fld 7 4 w) (fld 13 6 w) (fld 19 6 w) (fld 25 4 w))
  | _ => .error .unlistedFunction

/-- Major 0x39 (R35, R36, R37): VCMPEQ_W, VCMPNE_W, VCMPLT_W, VCMPLE_W, VCMPGT_W, VCMPGE_W, VCMPUN_W. -/
def decodeMajor39 (w : Word32) : Except DecodeError Instr :=
  match (fld 29 3 w).toNat with
  | 0 => accept (fld 11 2 w == 0#2 && fld 24 1 w == 0#1) (.vcmpeqW (fld 7 4 w) (fld 13 6 w) (fld 19 5 w) (fld 25 4 w))
  | 1 => accept (fld 11 2 w == 0#2 && fld 24 1 w == 0#1) (.vcmpneW (fld 7 4 w) (fld 13 6 w) (fld 19 5 w) (fld 25 4 w))
  | 2 => accept (fld 11 2 w == 0#2 && fld 24 1 w == 0#1) (.vcmpltW (fld 7 4 w) (fld 13 6 w) (fld 19 5 w) (fld 25 4 w))
  | 3 => accept (fld 11 2 w == 0#2 && fld 24 1 w == 0#1) (.vcmpleW (fld 7 4 w) (fld 13 6 w) (fld 19 5 w) (fld 25 4 w))
  | 4 => accept (fld 11 2 w == 0#2 && fld 24 1 w == 0#1) (.vcmpgtW (fld 7 4 w) (fld 13 6 w) (fld 19 5 w) (fld 25 4 w))
  | 5 => accept (fld 11 2 w == 0#2 && fld 24 1 w == 0#1) (.vcmpgeW (fld 7 4 w) (fld 13 6 w) (fld 19 5 w) (fld 25 4 w))
  | 6 => accept (fld 11 2 w == 0#2 && fld 24 1 w == 0#1) (.vcmpunW (fld 7 4 w) (fld 13 6 w) (fld 19 5 w) (fld 25 4 w))
  | _ => .error .unlistedFunction

/-- Major 0x3a (R35, R36, R37): VMV, VSPLAT, VSEL, VMVX, VINS, VCVT. -/
def decodeMajor3A (w : Word32) : Except DecodeError Instr :=
  match (fld 29 3 w).toNat with
  | 0 => accept (fld 19 6 w == 0#6) (.vmv (fld 7 6 w) (fld 13 6 w) (fld 25 4 w))
  | 1 => accept (fld 13 6 w == 0#6 && fld 24 1 w == 0#1) (.vsplat (fld 7 6 w) (fld 19 5 w) (fld 25 4 w))
  | 2 => accept true (.vsel (fld 7 6 w) (fld 13 6 w) (fld 19 6 w) (fld 25 4 w))
  | 3 => accept (fld 12 1 w == 0#1 && fld 24 5 w == 0#5) (.vmvx (fld 7 5 w) (fld 13 6 w) (fld 19 5 w))
  | 4 => accept (fld 18 1 w == 0#1 && fld 24 5 w == 0#5) (.vins (fld 7 6 w) (fld 13 5 w) (fld 19 5 w))
  | 5 => accept (fld 24 1 w == 0#1) (.vcvt (fld 7 6 w) (fld 13 6 w) (fld 19 5 w) (fld 25 4 w))
  | _ => .error .unlistedFunction

/-- Major 0x3b (R35, R36, R37): PAND, POR, PXOR, PANDN, PNOT, PFIRST, PCNT, PSETVL. -/
def decodeMajor3B (w : Word32) : Except DecodeError Instr :=
  match (fld 29 3 w).toNat with
  | 0 => accept (fld 11 2 w == 0#2 && fld 17 2 w == 0#2 && fld 23 2 w == 0#2) (.pand (fld 7 4 w) (fld 13 4 w) (fld 19 4 w) (fld 25 4 w))
  | 1 => accept (fld 11 2 w == 0#2 && fld 17 2 w == 0#2 && fld 23 2 w == 0#2) (.por (fld 7 4 w) (fld 13 4 w) (fld 19 4 w) (fld 25 4 w))
  | 2 => accept (fld 11 2 w == 0#2 && fld 17 2 w == 0#2 && fld 23 2 w == 0#2) (.pxor (fld 7 4 w) (fld 13 4 w) (fld 19 4 w) (fld 25 4 w))
  | 3 => accept (fld 11 2 w == 0#2 && fld 17 2 w == 0#2 && fld 23 2 w == 0#2) (.pandn (fld 7 4 w) (fld 13 4 w) (fld 19 4 w) (fld 25 4 w))
  | 4 => accept (fld 11 2 w == 0#2 && fld 17 8 w == 0#8) (.pnot (fld 7 4 w) (fld 13 4 w) (fld 25 4 w))
  | 5 => accept (fld 11 2 w == 0#2 && fld 17 8 w == 0#8) (.pfirst (fld 7 4 w) (fld 13 4 w) (fld 25 4 w))
  | 6 => accept (fld 12 1 w == 0#1 && fld 17 8 w == 0#8) (.pcnt (fld 7 5 w) (fld 13 4 w) (fld 25 4 w))
  | 7 => accept (fld 12 1 w == 0#1 && fld 17 8 w == 0#8) (.psetvl (fld 7 5 w) (fld 13 4 w) (fld 25 4 w))
  | _ => .error .unlistedFunction

/-- Major 0x3c (R35, R36, R37): VSLIDEUP, VSLIDEDN, VPERM, VBFLY, VCOMPRESS, VEXPAND, VSCAN, VREV. -/
noncomputable def decodeMajor3C (w : Word32) : Except DecodeError Instr :=
  match (fld 29 3 w).toNat with
  | 0 => accept (fld 24 1 w == 0#1) (.vslideup (fld 7 6 w) (fld 13 6 w) (fld 19 5 w) (fld 25 4 w))
  | 1 => accept (fld 24 1 w == 0#1) (.vslidedn (fld 7 6 w) (fld 13 6 w) (fld 19 5 w) (fld 25 4 w))
  | 2 => accept true (.vperm (fld 7 6 w) (fld 13 6 w) (fld 19 6 w) (fld 25 4 w))
  | 3 => accept (fld 23 2 w == 0#2) (.vbfly (fld 7 6 w) (fld 13 6 w) (fld 19 4 w) (fld 25 4 w))
  | 4 => accept (fld 19 6 w == 0#6) (.vcompress (fld 7 6 w) (fld 13 6 w) (fld 25 4 w))
  | 5 => accept (fld 19 6 w == 0#6) (.vexpand (fld 7 6 w) (fld 13 6 w) (fld 25 4 w))
  | 6 => accept (fld 19 6 w == 0#6) (.vscan (fld 7 6 w) (fld 13 6 w) (fld 25 4 w))
  | 7 => accept (fld 19 6 w == 0#6) (.vrev (fld 7 6 w) (fld 13 6 w) (fld 25 4 w))
  | _ => .error .unlistedFunction

/-- Major 0x3d (R35, R36, R37): VREDSUM, VREDMIN, VREDMAX, VREDAND, VREDOR, VREDXOR, VREDMINI, VREDMAXI. -/
noncomputable def decodeMajor3D (w : Word32) : Except DecodeError Instr :=
  match (fld 29 3 w).toNat with
  | 0 => accept (fld 19 6 w == 0#6) (.vredsum (fld 7 6 w) (fld 13 6 w) (fld 25 4 w))
  | 1 => accept (fld 19 6 w == 0#6) (.vredmin (fld 7 6 w) (fld 13 6 w) (fld 25 4 w))
  | 2 => accept (fld 19 6 w == 0#6) (.vredmax (fld 7 6 w) (fld 13 6 w) (fld 25 4 w))
  | 3 => accept (fld 19 6 w == 0#6) (.vredand (fld 7 6 w) (fld 13 6 w) (fld 25 4 w))
  | 4 => accept (fld 19 6 w == 0#6) (.vredor (fld 7 6 w) (fld 13 6 w) (fld 25 4 w))
  | 5 => accept (fld 19 6 w == 0#6) (.vredxor (fld 7 6 w) (fld 13 6 w) (fld 25 4 w))
  | 6 => accept (fld 19 6 w == 0#6) (.vredmini (fld 7 6 w) (fld 13 6 w) (fld 25 4 w))
  | 7 => accept (fld 19 6 w == 0#6) (.vredmaxi (fld 7 6 w) (fld 13 6 w) (fld 25 4 w))
  | _ => .error .unlistedFunction

/-- Major 0x3e (R35, R36, R37): VSAMPLE, VTOPK. -/
noncomputable def decodeMajor3E (w : Word32) : Except DecodeError Instr :=
  match (fld 29 3 w).toNat with
  | 0 => accept (fld 12 1 w == 0#1 && fld 19 1 w == 0#1 && fld 24 1 w == 0#1) (.vsample (fld 7 5 w) (fld 13 6 w) (fld 20 4 w) (fld 25 4 w))
  | 1 => accept (fld 24 1 w == 0#1) (.vtopk (fld 7 6 w) (fld 13 6 w) (fld 19 5 w) (fld 25 4 w))
  | _ => .error .unlistedFunction

/-- Major 0x40 (R35, R36, R37): VLD, VLDS, VLDX. -/
noncomputable def decodeMajor40 (w : Word32) : Except DecodeError Instr :=
  match (fld 29 3 w).toNat with
  | 0 => accept (fld 18 6 w == 0#6) (.vld (fld 7 6 w) (fld 13 5 w) (fld 24 1 w) (fld 25 4 w))
  | 1 => accept (fld 23 1 w == 0#1) (.vlds (fld 7 6 w) (fld 13 5 w) (fld 18 5 w) (fld 24 1 w) (fld 25 4 w))
  | 2 => accept true (.vldx (fld 7 6 w) (fld 13 5 w) (fld 18 6 w) (fld 24 1 w) (fld 25 4 w))
  | _ => .error .unlistedFunction

/-- Major 0x41 (R35, R36, R37): VST, VSTS, VSTX, VCADD, VCMIN, VCMAX, VCOR. -/
noncomputable def decodeMajor41 (w : Word32) : Except DecodeError Instr :=
  match (fld 29 3 w).toNat with
  | 0 => accept (fld 18 6 w == 0#6) (.vst (fld 7 6 w) (fld 13 5 w) (fld 24 1 w) (fld 25 4 w))
  | 1 => accept (fld 23 1 w == 0#1) (.vsts (fld 7 6 w) (fld 13 5 w) (fld 18 5 w) (fld 24 1 w) (fld 25 4 w))
  | 2 => accept true (.vstx (fld 7 6 w) (fld 13 5 w) (fld 18 6 w) (fld 24 1 w) (fld 25 4 w))
  | 3 => accept true (.vcadd (fld 7 6 w) (fld 13 5 w) (fld 18 6 w) (fld 24 1 w) (fld 25 4 w))
  | 4 => accept true (.vcmin (fld 7 6 w) (fld 13 5 w) (fld 18 6 w) (fld 24 1 w) (fld 25 4 w))
  | 5 => accept true (.vcmax (fld 7 6 w) (fld 13 5 w) (fld 18 6 w) (fld 24 1 w) (fld 25 4 w))
  | 6 => accept true (.vcor (fld 7 6 w) (fld 13 5 w) (fld 18 6 w) (fld 24 1 w) (fld 25 4 w))
  | _ => .error .unlistedFunction

/-- Major 0x42 (R35, R36, R37): VAADD, VAMIN, VAMAX, VAAND, VAOR, VAXOR, VASWAP. -/
noncomputable def decodeMajor42 (w : Word32) : Except DecodeError Instr :=
  match (fld 29 3 w).toNat with
  | 0 => accept true (.vaadd (fld 7 6 w) (fld 13 5 w) (fld 18 6 w) (fld 24 1 w) (fld 25 4 w))
  | 1 => accept true (.vamin (fld 7 6 w) (fld 13 5 w) (fld 18 6 w) (fld 24 1 w) (fld 25 4 w))
  | 2 => accept true (.vamax (fld 7 6 w) (fld 13 5 w) (fld 18 6 w) (fld 24 1 w) (fld 25 4 w))
  | 3 => accept true (.vaand (fld 7 6 w) (fld 13 5 w) (fld 18 6 w) (fld 24 1 w) (fld 25 4 w))
  | 4 => accept true (.vaor (fld 7 6 w) (fld 13 5 w) (fld 18 6 w) (fld 24 1 w) (fld 25 4 w))
  | 5 => accept true (.vaxor (fld 7 6 w) (fld 13 5 w) (fld 18 6 w) (fld 24 1 w) (fld 25 4 w))
  | 6 => accept true (.vaswap (fld 7 6 w) (fld 13 5 w) (fld 18 6 w) (fld 24 1 w) (fld 25 4 w))
  | _ => .error .unlistedFunction

/-- Major 0x43 (R35, R36, R37): VFENCE. -/
noncomputable def decodeMajor43 (w : Word32) : Except DecodeError Instr :=
  accept (fld 7 22 w == 0#22) (.vfence (fld 29 3 w))

/-- Major 0x44 (R35, R36, R37): VBIND, VUNBIND, VBSTAT. -/
noncomputable def decodeMajor44 (w : Word32) : Except DecodeError Instr :=
  match (fld 29 3 w).toNat with
  | 0 => accept (fld 16 3 w == 0#3 && fld 24 5 w == 0#5) (.vbind (fld 7 6 w) (fld 13 3 w) (fld 19 5 w))
  | 1 => accept (fld 7 6 w == 0#6 && fld 16 13 w == 0#13) (.vunbind (fld 13 3 w))
  | 2 => accept (fld 12 1 w == 0#1 && fld 16 13 w == 0#13) (.vbstat (fld 7 5 w) (fld 13 3 w))
  | _ => .error .unlistedFunction

/-- Major 0x48 (R35, R36, R37): MZERO, MMAC, MMACW, MCVT, MRDROW, MWRROW, MWLD, MSCL. -/
noncomputable def decodeMajor48 (w : Word32) : Except DecodeError Instr :=
  match (fld 29 3 w).toNat with
  | 0 => accept (fld 9 20 w == 0#20) (.mzero (fld 7 2 w))
  | 1 => accept (fld 9 4 w == 0#4) (.mmac (fld 7 2 w) (fld 13 6 w) (fld 19 6 w) (fld 25 4 w))
  | 2 => accept (fld 9 4 w == 0#4 && fld 19 6 w == 0#6) (.mmacw (fld 7 2 w) (fld 13 6 w) (fld 25 4 w))
  | 3 => accept (fld 9 10 w == 0#10 && fld 24 5 w == 0#5) (.mcvt (fld 7 2 w) (fld 19 5 w))
  | 4 => accept (fld 15 4 w == 0#4 && fld 24 5 w == 0#5) (.mrdrow (fld 7 6 w) (fld 13 2 w) (fld 19 5 w))
  | 5 => accept (fld 9 4 w == 0#4 && fld 24 5 w == 0#5) (.mwrrow (fld 7 2 w) (fld 13 6 w) (fld 19 5 w))
  | 6 => accept (fld 11 2 w == 0#2 && fld 18 1 w == 0#1 && fld 24 5 w == 0#5) (.mwld (fld 7 2 w) (fld 9 2 w) (fld 13 5 w) (fld 19 5 w))
  | 7 => accept (fld 9 4 w == 0#4 && fld 25 4 w == 0#4) (.mscl (fld 7 2 w) (fld 13 6 w) (fld 19 6 w))
  | _ => .error .unlistedFunction

/-- Major 0x4c (R35, R36, R37): HGEN, HROT, HACC, HSIGN, HDIST, HSIMM, HFSTEP. -/
noncomputable def decodeMajor4C (w : Word32) : Except DecodeError Instr :=
  match (fld 29 3 w).toNat with
  | 0 => accept (fld 18 1 w == 0#1 && fld 24 1 w == 0#1) (.hgen (fld 7 6 w) (fld 13 5 w) (fld 19 5 w) (fld 25 4 w))
  | 1 => accept (fld 24 1 w == 0#1) (.hrot (fld 7 6 w) (fld 13 6 w) (fld 19 5 w) (fld 25 4 w))
  | 2 => accept (fld 19 6 w == 0#6) (.hacc (fld 7 6 w) (fld 13 6 w) (fld 25 4 w))
  | 3 => accept true (.hsign (fld 7 6 w) (fld 13 6 w) (fld 19 6 w) (fld 25 4 w))
  | 4 => accept (fld 12 1 w == 0#1) (.hdist (fld 7 5 w) (fld 13 6 w) (fld 19 6 w) (fld 25 4 w))
  | 5 => accept (fld 24 5 w == 0#5) (.hsimm (fld 7 6 w) (fld 13 6 w) (fld 19 5 w))
  | 6 => accept (fld 24 5 w == 0#5) (.hfstep (fld 7 6 w) (fld 13 6 w) (fld 19 5 w))
  | _ => .error .unlistedFunction

/-- Major 0x50 (R35, R36, R37): SVLD, SVST, SVADD, SVMUL, SVDOT, SVTOV, SVLEN. -/
noncomputable def decodeMajor50 (w : Word32) : Except DecodeError Instr :=
  match (fld 29 3 w).toNat with
  | 0 => accept (fld 10 3 w == 0#3 && fld 18 1 w == 0#1 && fld 24 5 w == 0#5) (.svld (fld 7 3 w) (fld 13 5 w) (fld 19 5 w))
  | 1 => accept (fld 10 3 w == 0#3 && fld 18 11 w == 0#11) (.svst (fld 7 3 w) (fld 13 5 w))
  | 2 => accept (fld 10 3 w == 0#3 && fld 16 3 w == 0#3 && fld 22 7 w == 0#7) (.svadd (fld 7 3 w) (fld 13 3 w) (fld 19 3 w))
  | 3 => accept (fld 10 3 w == 0#3 && fld 16 3 w == 0#3 && fld 22 7 w == 0#7) (.svmul (fld 7 3 w) (fld 13 3 w) (fld 19 3 w))
  | 4 => accept (fld 12 1 w == 0#1 && fld 16 3 w == 0#3 && fld 22 7 w == 0#7) (.svdot (fld 7 5 w) (fld 13 3 w) (fld 19 3 w))
  | 5 => accept (fld 16 3 w == 0#3 && fld 24 5 w == 0#5) (.svtov (fld 7 6 w) (fld 13 3 w) (fld 19 5 w))
  | 6 => accept (fld 12 1 w == 0#1 && fld 16 13 w == 0#13) (.svlen (fld 7 5 w) (fld 13 3 w))
  | _ => .error .unlistedFunction

/-- Major 0x54 (R35, R36, R37): RPOST, RWAIT. -/
noncomputable def decodeMajor54 (w : Word32) : Except DecodeError Instr :=
  match (fld 29 3 w).toNat with
  | 0 => accept (fld 7 6 w == 0#6 && fld 24 5 w == 0#5) (.rpost (fld 13 6 w) (fld 19 5 w))
  | 1 => accept (fld 12 1 w == 0#1 && fld 24 5 w == 0#5) (.rwait (fld 7 5 w) (fld 13 6 w) (fld 19 5 w))
  | _ => .error .unlistedFunction

/-- The instruction of one 32-bit word (R35, R36): the major opcode picks the table. A long major is no short word, and
every other major is reserved. -/
noncomputable def decodeWord (w : Word32) : Except DecodeError Instr :=
  match (fld 0 7 w).toNat with
  | 1 => decodeMajor01 w
  | 2 => decodeMajor02 w
  | 3 => decodeMajor03 w
  | 4 => decodeMajor04 w
  | 5 => decodeMajor05 w
  | 6 => decodeMajor06 w
  | 7 => decodeMajor07 w
  | 8 => decodeMajor08 w
  | 9 => decodeMajor09 w
  | 10 => decodeMajor0A w
  | 11 => decodeMajor0B w
  | 12 => decodeMajor0C w
  | 13 => decodeMajor0D w
  | 14 => decodeMajor0E w
  | 15 => decodeMajor0F w
  | 16 => decodeMajor10 w
  | 17 => decodeMajor11 w
  | 18 => decodeMajor12 w
  | 19 => decodeMajor13 w
  | 20 => decodeMajor14 w
  | 21 => decodeMajor15 w
  | 22 => decodeMajor16 w
  | 24 => decodeMajor18 w
  | 25 => decodeMajor19 w
  | 26 => decodeMajor1A w
  | 27 => decodeMajor1B w
  | 28 => decodeMajor1C w
  | 29 => decodeMajor1D w
  | 30 => decodeMajor1E w
  | 31 => decodeMajor1F w
  | 32 => decodeMajor20 w
  | 33 => decodeMajor21 w
  | 34 => decodeMajor22 w
  | 35 => decodeMajor23 w
  | 36 => decodeMajor24 w
  | 48 => decodeMajor30 w
  | 49 => decodeMajor31 w
  | 50 => decodeMajor32 w
  | 51 => decodeMajor33 w
  | 52 => decodeMajor34 w
  | 53 => decodeMajor35 w
  | 54 => decodeMajor36 w
  | 55 => decodeMajor37 w
  | 56 => decodeMajor38 w
  | 57 => decodeMajor39 w
  | 58 => decodeMajor3A w
  | 59 => decodeMajor3B w
  | 60 => decodeMajor3C w
  | 61 => decodeMajor3D w
  | 62 => decodeMajor3E w
  | 64 => decodeMajor40 w
  | 65 => decodeMajor41 w
  | 66 => decodeMajor42 w
  | 67 => decodeMajor43 w
  | 68 => decodeMajor44 w
  | 72 => decodeMajor48 w
  | 76 => decodeMajor4C w
  | 80 => decodeMajor50 w
  | 84 => decodeMajor54 w
  | _ => .error .reservedMajor

/-- Step 2 of R31 for major 0x70: what word 0 alone decides (LOOPI). -/
def headMajor70 (w : Word32) : Except DecodeError Unit :=
  acceptHead (fld 8 24 w == 0#24) true

/-- Step 2 of R31 for major 0x71: what word 0 alone decides (LI). -/
def headMajor71 (w : Word32) : Except DecodeError Unit :=
  acceptHead (fld 12 13 w == 0#13 && fld 26 6 w == 0#6) true

/-- Step 2 of R31 for major 0x72: what word 0 alone decides (CPY, CPYS, CPYX, CPYT). -/
def headMajor72 (w : Word32) : Except DecodeError Unit :=
  match (fld 25 7 w).toNat with
  | 0 => acceptHead (fld 12 1 w == 0#1 && fld 18 1 w == 0#1 && fld 24 1 w == 0#1) true
  | 1 => acceptHead (fld 12 1 w == 0#1 && fld 18 1 w == 0#1 && fld 24 1 w == 0#1) true
  | 2 => acceptHead (fld 12 1 w == 0#1 && fld 18 1 w == 0#1 && fld 24 1 w == 0#1) true
  | 3 => acceptHead (fld 12 1 w == 0#1 && fld 18 7 w == 0#7) true
  | _ => .error .unlistedFunction

/-- Step 2 of R31 for major 0x73: what word 0 alone decides (HCLEAN, HFACT). -/
def headMajor73 (w : Word32) : Except DecodeError Unit :=
  match (fld 25 7 w).toNat with
  | 0 => acceptHead (fld 12 1 w == 0#1 && fld 24 1 w == 0#1) (decide ((fld 7 5 w) ≠ 0#5) && decide ((fld 7 5 w) ≠ (fld 19 5 w)))
  | 1 => acceptHead (fld 24 1 w == 0#1) (decide ((fld 7 6 w).toNat ≤ 60))
  | _ => .error .unlistedFunction

/-- Step 2 of R31 for major 0x74: what word 0 alone decides (SRDEF, SRLD, SRST, SRROW, SRTRAV, SRDENSE, SRCNT). -/
def headMajor74 (w : Word32) : Except DecodeError Unit :=
  match (fld 25 7 w).toNat with
  | 0 => acceptHead (fld 7 6 w == 0#6 && fld 18 7 w == 0#7) true
  | 1 => acceptHead (fld 18 1 w == 0#1) true
  | 2 => acceptHead (fld 18 1 w == 0#1) true
  | 3 => acceptHead (fld 11 2 w == 0#2 && fld 18 1 w == 0#1 && fld 24 1 w == 0#1) true
  | 4 => acceptHead (fld 18 2 w == 0#2 && fld 24 1 w == 0#1) (decide ((fld 7 6 w).toNat ≤ 62))
  | 5 => acceptHead (fld 12 1 w == 0#1 && fld 18 1 w == 0#1 && fld 24 1 w == 0#1) true
  | 6 => acceptHead (fld 12 1 w == 0#1 && fld 18 7 w == 0#7) true
  | _ => .error .unlistedFunction

/-- Step 2 of R31 for major 0x75: what word 0 alone decides (EDEF, ERUN, EEND, ESTAT, EFRONT). -/
def headMajor75 (w : Word32) : Except DecodeError Unit :=
  match (fld 25 7 w).toNat with
  | 0 => acceptHead (fld 7 6 w == 0#6 && fld 18 1 w == 0#1 && fld 24 1 w == 0#1) true
  | 1 => acceptHead (fld 12 7 w == 0#7 && fld 24 1 w == 0#1) true
  | 2 => acceptHead (fld 7 18 w == 0#18) true
  | 3 => acceptHead (fld 12 7 w == 0#7 && fld 24 1 w == 0#1) true
  | 4 => acceptHead (fld 12 13 w == 0#13) true
  | _ => .error .unlistedFunction

/-- Step 4 of R31 for major 0x70: the instruction, its word 1 `v` checked. -/
noncomputable def tailMajor70 (w v : Word32) : Except DecodeError Instr :=
  accept true (.loopi (fld 7 1 w) (fld 16 16 v) (fld 0 16 v))

/-- Step 4 of R31 for major 0x71: the instruction, its word 1 `v` checked. -/
noncomputable def tailMajor71 (w v : Word32) : Except DecodeError Instr :=
  accept true (.li (fld 7 5 w) (fld 25 1 w) (fld 0 32 v))

/-- Step 4 of R31 for major 0x72: the instruction, its word 1 `v` checked. -/
noncomputable def tailMajor72 (w v : Word32) : Except DecodeError Instr :=
  match (fld 25 7 w).toNat with
  | 0 => accept (fld 10 22 v == 0#22) (.cpy (fld 7 5 w) (fld 13 5 w) (fld 19 5 w) (fld 0 4 v) (fld 4 1 v) (fld 5 5 v))
  | 1 => accept (fld 18 14 v == 0#14) (.cpys (fld 7 5 w) (fld 13 5 w) (fld 19 5 w) (fld 0 4 v) (fld 4 1 v) (fld 5 5 v) (fld 10 3 v) (fld 13 5 v))
  | 2 => accept (fld 19 13 v == 0#13) (.cpyx (fld 7 5 w) (fld 13 5 w) (fld 19 5 w) (fld 0 4 v) (fld 4 1 v) (fld 5 5 v) (fld 10 3 v) (fld 13 6 v))
  | 3 => accept (fld 0 32 v == 0#32) (.cpyt (fld 7 5 w) (fld 13 5 w))
  | _ => .error .unlistedFunction

/-- Step 4 of R31 for major 0x73: the instruction, its word 1 `v` checked. -/
noncomputable def tailMajor73 (w v : Word32) : Except DecodeError Instr :=
  match (fld 25 7 w).toNat with
  | 0 => accept (fld 0 32 v == 0#32) (.hclean (fld 7 5 w) (fld 13 6 w) (fld 19 5 w))
  | 1 => accept (fld 0 32 v == 0#32) (.hfact (fld 7 6 w) (fld 13 6 w) (fld 19 5 w))
  | _ => .error .unlistedFunction

/-- Step 4 of R31 for major 0x74: the instruction, its word 1 `v` checked. -/
noncomputable def tailMajor74 (w v : Word32) : Except DecodeError Instr :=
  match (fld 25 7 w).toNat with
  | 0 => accept (fld 0 32 v == 0#32) (.srdef (fld 13 5 w))
  | 1 => accept (fld 0 32 v == 0#32) (.srld (fld 7 6 w) (fld 13 5 w) (fld 19 6 w))
  | 2 => accept (fld 0 32 v == 0#32) (.srst (fld 7 6 w) (fld 13 5 w) (fld 19 6 w))
  | 3 => accept (fld 0 32 v == 0#32) (.srrow (fld 7 4 w) (fld 13 5 w) (fld 19 5 w))
  | 4 => accept (fld 0 32 v == 0#32) (.srtrav (fld 7 6 w) (fld 13 5 w) (fld 20 4 w))
  | 5 => accept (fld 0 4 v == 0#4 && fld 10 22 v == 0#22) (.srdense (fld 7 5 w) (fld 13 5 w) (fld 19 5 w) (fld 4 1 v) (fld 5 5 v))
  | 6 => accept (fld 0 32 v == 0#32) (.srcnt (fld 7 5 w) (fld 13 5 w))
  | _ => .error .unlistedFunction

/-- Step 4 of R31 for major 0x75: the instruction, its word 1 `v` checked. -/
noncomputable def tailMajor75 (w v : Word32) : Except DecodeError Instr :=
  match (fld 25 7 w).toNat with
  | 0 => accept true (.edef (fld 13 5 w) (fld 19 5 w) (fld 0 32 v))
  | 1 => accept (fld 0 32 v == 0#32) (.erun (fld 7 5 w) (fld 19 5 w))
  | 2 => accept (fld 0 32 v == 0#32) (.eend)
  | 3 => accept (fld 0 32 v == 0#32) (.estat (fld 7 5 w) (fld 19 5 w))
  | 4 => accept (fld 0 32 v == 0#32) (.efront (fld 7 5 w))
  | _ => .error .unlistedFunction

/-- Step 2 of R31 for a long form: is word 0 the first word of some instruction? -/
def decodeHead (w : Word32) : Except DecodeError Unit :=
  match (fld 0 7 w).toNat with
  | 112 => headMajor70 w
  | 113 => headMajor71 w
  | 114 => headMajor72 w
  | 115 => headMajor73 w
  | 116 => headMajor74 w
  | 117 => headMajor75 w
  | _ => .error .reservedMajor

/-- Step 4 of R31: the instruction of the two words of a long form whose word 0 `decodeHead` accepts. -/
noncomputable def decodeTail (w v : Word32) : Except DecodeError Instr :=
  match (fld 0 7 w).toNat with
  | 112 => tailMajor70 w v
  | 113 => tailMajor71 w v
  | 114 => tailMajor72 w v
  | 115 => tailMajor73 w v
  | 116 => tailMajor74 w v
  | 117 => tailMajor75 w v
  | _ => .error .reservedMajor

/-- Four bytes, lowest address first, as a word (R3). -/
def wordOfBytes (b0 b1 b2 b3 : Byte) : Word32 :=
  BitVec.ofNat 32 (b0.toNat + 256 * (b1.toNat + 256 * (b2.toNat + 256 * b3.toNat)))

/-- The bytes of a word, lowest address first (R3). -/
def bytesOfWord (w : Word32) : List Byte := [fld 0 8 w, fld 8 8 w, fld 16 8 w, fld 24 8 w]

/-- The instruction at the head of some bytes and the bytes after it (R29, R31). -/
noncomputable def decode : List Byte → Except DecodeError (Instr × List Byte)
  | b0 :: b1 :: b2 :: b3 :: rest =>
    let w := wordOfBytes b0 b1 b2 b3
    if isLong w then
      match decodeHead w with
      | .error e => .error e
      | .ok _ =>
        match rest with
        | c0 :: c1 :: c2 :: c3 :: rest' => (decodeTail w (wordOfBytes c0 c1 c2 c3)).map fun i => (i, rest')
        | _ => .error .truncated
    else (decodeWord w).map fun i => (i, rest)
  | _ => .error .truncated

/-- The words of an instruction, word 0 first, written from the layouts of R32 and the sub-field tables; an event has
none. -/
def encode : Instr → List Word32
  | .add d a b => [pack (0x00000001 + slot 7 d + slot 12 a + slot 17 b)]
  | .sub d a b => [pack (0x00400001 + slot 7 d + slot 12 a + slot 17 b)]
  | .and d a b => [pack (0x00800001 + slot 7 d + slot 12 a + slot 17 b)]
  | .or d a b => [pack (0x00C00001 + slot 7 d + slot 12 a + slot 17 b)]
  | .xor d a b => [pack (0x01000001 + slot 7 d + slot 12 a + slot 17 b)]
  | .sll d a b => [pack (0x01400001 + slot 7 d + slot 12 a + slot 17 b)]
  | .srl d a b => [pack (0x01800001 + slot 7 d + slot 12 a + slot 17 b)]
  | .sra d a b => [pack (0x01C00001 + slot 7 d + slot 12 a + slot 17 b)]
  | .slt d a b => [pack (0x02000001 + slot 7 d + slot 12 a + slot 17 b)]
  | .sltu d a b => [pack (0x02400001 + slot 7 d + slot 12 a + slot 17 b)]
  | .min d a b => [pack (0x02800001 + slot 7 d + slot 12 a + slot 17 b)]
  | .max d a b => [pack (0x02C00001 + slot 7 d + slot 12 a + slot 17 b)]
  | .minu d a b => [pack (0x03000001 + slot 7 d + slot 12 a + slot 17 b)]
  | .maxu d a b => [pack (0x03400001 + slot 7 d + slot 12 a + slot 17 b)]
  | .andn d a b => [pack (0x03800001 + slot 7 d + slot 12 a + slot 17 b)]
  | .orn d a b => [pack (0x03C00001 + slot 7 d + slot 12 a + slot 17 b)]
  | .clz d a => [pack (0x04000001 + slot 7 d + slot 12 a)]
  | .ctz d a => [pack (0x04400001 + slot 7 d + slot 12 a)]
  | .popc d a => [pack (0x04800001 + slot 7 d + slot 12 a)]
  | .sextw d a => [pack (0x04C00001 + slot 7 d + slot 12 a)]
  | .addw d a b => [pack (0x05000001 + slot 7 d + slot 12 a + slot 17 b)]
  | .subw d a b => [pack (0x05400001 + slot 7 d + slot 12 a + slot 17 b)]
  | .addi d a imm => [pack (0x00000002 + slot 7 d + slot 12 a + slot 17 imm)]
  | .andi d a imm => [pack (0x00000003 + slot 7 d + slot 12 a + slot 17 imm)]
  | .ori d a imm => [pack (0x00000004 + slot 7 d + slot 12 a + slot 17 imm)]
  | .xori d a imm => [pack (0x00000005 + slot 7 d + slot 12 a + slot 17 imm)]
  | .slti d a imm => [pack (0x00000006 + slot 7 d + slot 12 a + slot 17 imm)]
  | .sltiu d a imm => [pack (0x00000007 + slot 7 d + slot 12 a + slot 17 imm)]
  | .slli d a n => [pack (0x00000008 + slot 7 d + slot 12 a + slot 17 n)]
  | .srli d a n => [pack (0x20000008 + slot 7 d + slot 12 a + slot 17 n)]
  | .srai d a n => [pack (0x40000008 + slot 7 d + slot 12 a + slot 17 n)]
  | .lui d imm => [pack (0x00000009 + slot 7 d + slot 12 imm)]
  | .auipc d imm => [pack (0x0000000A + slot 7 d + slot 12 imm)]
  | .mul d a b => [pack (0x0000000B + slot 7 d + slot 12 a + slot 17 b)]
  | .mulh d a b => [pack (0x0040000B + slot 7 d + slot 12 a + slot 17 b)]
  | .mulhu d a b => [pack (0x0080000B + slot 7 d + slot 12 a + slot 17 b)]
  | .mulhsu d a b => [pack (0x00C0000B + slot 7 d + slot 12 a + slot 17 b)]
  | .div d a b => [pack (0x0100000B + slot 7 d + slot 12 a + slot 17 b)]
  | .divu d a b => [pack (0x0140000B + slot 7 d + slot 12 a + slot 17 b)]
  | .rem d a b => [pack (0x0180000B + slot 7 d + slot 12 a + slot 17 b)]
  | .remu d a b => [pack (0x01C0000B + slot 7 d + slot 12 a + slot 17 b)]
  | .mulw d a b => [pack (0x0200000B + slot 7 d + slot 12 a + slot 17 b)]
  | .beq a b o => [pack (0x0000000C + slot 7 a + slot 12 b + slot 20 o)]
  | .bne a b o => [pack (0x0002000C + slot 7 a + slot 12 b + slot 20 o)]
  | .blt a b o => [pack (0x0008000C + slot 7 a + slot 12 b + slot 20 o)]
  | .bge a b o => [pack (0x000A000C + slot 7 a + slot 12 b + slot 20 o)]
  | .bltu a b o => [pack (0x000C000C + slot 7 a + slot 12 b + slot 20 o)]
  | .bgeu a b o => [pack (0x000E000C + slot 7 a + slot 12 b + slot 20 o)]
  | .jal d o => [pack (0x0000000D + slot 7 d + slot 12 o)]
  | .jalr d a imm => [pack (0x0000000E + slot 7 d + slot 12 a + slot 17 imm)]
  | .loop k a imm => [pack (0x0000000F + slot 7 k + slot 12 a + slot 17 imm)]
  | .loopi k dist count => [pack (0x00000070 + slot 7 k), pack (0 + slot 16 dist + slot 0 count)]
  | .lb d a imm => [pack (0x00000010 + slot 7 d + slot 12 a + slot 17 imm)]
  | .lh d a imm => [pack (0x00000011 + slot 7 d + slot 12 a + slot 17 imm)]
  | .lw d a imm => [pack (0x00000012 + slot 7 d + slot 12 a + slot 17 imm)]
  | .ld d a imm => [pack (0x00000013 + slot 7 d + slot 12 a + slot 17 imm)]
  | .lbu d a imm => [pack (0x00000014 + slot 7 d + slot 12 a + slot 17 imm)]
  | .lhu d a imm => [pack (0x00000015 + slot 7 d + slot 12 a + slot 17 imm)]
  | .lwu d a imm => [pack (0x00000016 + slot 7 d + slot 12 a + slot 17 imm)]
  | .sb d a imm => [pack (0x00000018 + slot 7 d + slot 12 a + slot 17 imm)]
  | .sh d a imm => [pack (0x00000019 + slot 7 d + slot 12 a + slot 17 imm)]
  | .sw d a imm => [pack (0x0000001A + slot 7 d + slot 12 a + slot 17 imm)]
  | .sd d a imm => [pack (0x0000001B + slot 7 d + slot 12 a + slot 17 imm)]
  | .amoswap d a b z o sc => [pack (0x0000001C + slot 7 d + slot 12 a + slot 17 b + slot 26 z + slot 27 o + slot 29 sc)]
  | .amoadd d a b z o sc => [pack (0x0040001C + slot 7 d + slot 12 a + slot 17 b + slot 26 z + slot 27 o + slot 29 sc)]
  | .amoand d a b z o sc => [pack (0x0080001C + slot 7 d + slot 12 a + slot 17 b + slot 26 z + slot 27 o + slot 29 sc)]
  | .amoor d a b z o sc => [pack (0x00C0001C + slot 7 d + slot 12 a + slot 17 b + slot 26 z + slot 27 o + slot 29 sc)]
  | .amoxor d a b z o sc => [pack (0x0100001C + slot 7 d + slot 12 a + slot 17 b + slot 26 z + slot 27 o + slot 29 sc)]
  | .amomin d a b z o sc => [pack (0x0140001C + slot 7 d + slot 12 a + slot 17 b + slot 26 z + slot 27 o + slot 29 sc)]
  | .amomax d a b z o sc => [pack (0x0180001C + slot 7 d + slot 12 a + slot 17 b + slot 26 z + slot 27 o + slot 29 sc)]
  | .amominu d a b z o sc => [pack (0x01C0001C + slot 7 d + slot 12 a + slot 17 b + slot 26 z + slot 27 o + slot 29 sc)]
  | .amomaxu d a b z o sc => [pack (0x0200001C + slot 7 d + slot 12 a + slot 17 b + slot 26 z + slot 27 o + slot 29 sc)]
  | .amocas d a b z o sc => [pack (0x0240001C + slot 7 d + slot 12 a + slot 17 b + slot 26 z + slot 27 o + slot 29 sc)]
  | .fence sc x y => [pack (0x0000001D + slot 23 sc + slot 26 x + slot 29 y)]
  | .tfence sc => [pack (0x0040001D + slot 23 sc)]
  | .ecall => [pack (0x0000001E)]
  | .ebreak => [pack (0x0040001E)]
  | .tret => [pack (0x0080001E)]
  | .wfi => [pack (0x00C0001E)]
  | .cvb => [pack (0x0100001E)]
  | .tmark a => [pack (0x0140001E + slot 12 a)]
  | .csrrw d a c => [pack (0x0000001F + slot 7 d + slot 12 a + slot 17 c)]
  | .csrrs d a c => [pack (0x2000001F + slot 7 d + slot 12 a + slot 17 c)]
  | .csrrc d a c => [pack (0x4000001F + slot 7 d + slot 12 a + slot 17 c)]
  | .csrrwi d u c => [pack (0x8000001F + slot 7 d + slot 12 u + slot 17 c)]
  | .csrrsi d u c => [pack (0xA000001F + slot 7 d + slot 12 u + slot 17 c)]
  | .csrrci d u c => [pack (0xC000001F + slot 7 d + slot 12 u + slot 17 c)]
  | .faddS d a b => [pack (0x00000020 + slot 7 d + slot 12 a + slot 17 b)]
  | .faddD d a b => [pack (0x00400020 + slot 7 d + slot 12 a + slot 17 b)]
  | .fsubS d a b => [pack (0x00800020 + slot 7 d + slot 12 a + slot 17 b)]
  | .fsubD d a b => [pack (0x00C00020 + slot 7 d + slot 12 a + slot 17 b)]
  | .fmulS d a b => [pack (0x01000020 + slot 7 d + slot 12 a + slot 17 b)]
  | .fmulD d a b => [pack (0x01400020 + slot 7 d + slot 12 a + slot 17 b)]
  | .fdivS d a b => [pack (0x01800020 + slot 7 d + slot 12 a + slot 17 b)]
  | .fdivD d a b => [pack (0x01C00020 + slot 7 d + slot 12 a + slot 17 b)]
  | .fsqrtS d a => [pack (0x02000020 + slot 7 d + slot 12 a)]
  | .fsqrtD d a => [pack (0x02400020 + slot 7 d + slot 12 a)]
  | .fminS d a b => [pack (0x02800020 + slot 7 d + slot 12 a + slot 17 b)]
  | .fminD d a b => [pack (0x02C00020 + slot 7 d + slot 12 a + slot 17 b)]
  | .fmaxS d a b => [pack (0x03000020 + slot 7 d + slot 12 a + slot 17 b)]
  | .fmaxD d a b => [pack (0x03400020 + slot 7 d + slot 12 a + slot 17 b)]
  | .fsgnjS d a b => [pack (0x03800020 + slot 7 d + slot 12 a + slot 17 b)]
  | .fsgnjD d a b => [pack (0x03C00020 + slot 7 d + slot 12 a + slot 17 b)]
  | .fsgnjnS d a b => [pack (0x04000020 + slot 7 d + slot 12 a + slot 17 b)]
  | .fsgnjnD d a b => [pack (0x04400020 + slot 7 d + slot 12 a + slot 17 b)]
  | .fsgnjxS d a b => [pack (0x04800020 + slot 7 d + slot 12 a + slot 17 b)]
  | .fsgnjxD d a b => [pack (0x04C00020 + slot 7 d + slot 12 a + slot 17 b)]
  | .feqS d a b => [pack (0x05000020 + slot 7 d + slot 12 a + slot 17 b)]
  | .feqD d a b => [pack (0x05400020 + slot 7 d + slot 12 a + slot 17 b)]
  | .fltS d a b => [pack (0x05800020 + slot 7 d + slot 12 a + slot 17 b)]
  | .fltD d a b => [pack (0x05C00020 + slot 7 d + slot 12 a + slot 17 b)]
  | .fleS d a b => [pack (0x06000020 + slot 7 d + slot 12 a + slot 17 b)]
  | .fleD d a b => [pack (0x06400020 + slot 7 d + slot 12 a + slot 17 b)]
  | .fclassS d a => [pack (0x06800020 + slot 7 d + slot 12 a)]
  | .fclassD d a => [pack (0x06C00020 + slot 7 d + slot 12 a)]
  | .fmaddS d a b c => [pack (0x00000021 + slot 7 d + slot 12 a + slot 17 b + slot 22 c)]
  | .fmaddD d a b c => [pack (0x20000021 + slot 7 d + slot 12 a + slot 17 b + slot 22 c)]
  | .fmsubS d a b c => [pack (0x08000021 + slot 7 d + slot 12 a + slot 17 b + slot 22 c)]
  | .fmsubD d a b c => [pack (0x28000021 + slot 7 d + slot 12 a + slot 17 b + slot 22 c)]
  | .fnmaddS d a b c => [pack (0x10000021 + slot 7 d + slot 12 a + slot 17 b + slot 22 c)]
  | .fnmaddD d a b c => [pack (0x30000021 + slot 7 d + slot 12 a + slot 17 b + slot 22 c)]
  | .fnmsubS d a b c => [pack (0x18000021 + slot 7 d + slot 12 a + slot 17 b + slot 22 c)]
  | .fnmsubD d a b c => [pack (0x38000021 + slot 7 d + slot 12 a + slot 17 b + slot 22 c)]
  | .fcvtws d a => [pack (0x00000022 + slot 7 d + slot 12 a)]
  | .fcvtwus d a => [pack (0x00400022 + slot 7 d + slot 12 a)]
  | .fcvtls d a => [pack (0x00800022 + slot 7 d + slot 12 a)]
  | .fcvtlus d a => [pack (0x00C00022 + slot 7 d + slot 12 a)]
  | .fcvtsw d a => [pack (0x01000022 + slot 7 d + slot 12 a)]
  | .fcvtswu d a => [pack (0x01400022 + slot 7 d + slot 12 a)]
  | .fcvtsl d a => [pack (0x01800022 + slot 7 d + slot 12 a)]
  | .fcvtslu d a => [pack (0x01C00022 + slot 7 d + slot 12 a)]
  | .fcvtwd d a => [pack (0x02000022 + slot 7 d + slot 12 a)]
  | .fcvtwud d a => [pack (0x02400022 + slot 7 d + slot 12 a)]
  | .fcvtld d a => [pack (0x02800022 + slot 7 d + slot 12 a)]
  | .fcvtlud d a => [pack (0x02C00022 + slot 7 d + slot 12 a)]
  | .fcvtdw d a => [pack (0x03000022 + slot 7 d + slot 12 a)]
  | .fcvtdwu d a => [pack (0x03400022 + slot 7 d + slot 12 a)]
  | .fcvtdl d a => [pack (0x03800022 + slot 7 d + slot 12 a)]
  | .fcvtdlu d a => [pack (0x03C00022 + slot 7 d + slot 12 a)]
  | .fcvtsd d a => [pack (0x04000022 + slot 7 d + slot 12 a)]
  | .fcvtds d a => [pack (0x04400022 + slot 7 d + slot 12 a)]
  | .syld d a o sc => [pack (0x00000023 + slot 7 d + slot 12 a + slot 25 o + slot 27 sc)]
  | .syst a b o sc => [pack (0x00400023 + slot 12 a + slot 17 b + slot 25 o + slot 27 sc)]
  | .sytas d a o sc => [pack (0x00800023 + slot 7 d + slot 12 a + slot 25 o + slot 27 sc)]
  | .syfaa d a b o sc => [pack (0x00C00023 + slot 7 d + slot 12 a + slot 17 b + slot 25 o + slot 27 sc)]
  | .sycas d a b o sc => [pack (0x01000023 + slot 7 d + slot 12 a + slot 17 b + slot 25 o + slot 27 sc)]
  | .sywait d a b o sc c => [pack (0x01400023 + slot 7 d + slot 12 a + slot 17 b + slot 25 o + slot 27 sc + slot 29 c)]
  | .sybar d a b o sc => [pack (0x01800023 + slot 7 d + slot 12 a + slot 17 b + slot 25 o + slot 27 sc)]
  | .ipost a b => [pack (0x00000024 + slot 12 a + slot 17 b)]
  | .iwait d a b => [pack (0x00400024 + slot 7 d + slot 12 a + slot 17 b)]
  | .tspawn d a => [pack (0x00800024 + slot 7 d + slot 12 a)]
  | .ttake d => [pack (0x00C00024 + slot 7 d)]
  | .tjoin d a => [pack (0x01000024 + slot 7 d + slot 12 a)]
  | .tdone a => [pack (0x01400024 + slot 12 a)]
  | .li d ext imm => [pack (0x00000071 + slot 7 d + slot 25 ext), pack (0 + slot 0 imm)]
  | .setvl d b => [pack (0x00000030 + slot 7 d + slot 19 b)]
  | .vcfg e sc r f t => [pack (0x20000030 + slot 7 e + slot 12 sc + slot 13 r + slot 16 f + slot 18 t)]
  | .vtag e => [pack (0x40000030 + slot 7 e)]
  | .vretag d t => [pack (0x60000030 + slot 7 d + slot 13 t)]
  | .mmode d b => [pack (0x80000030 + slot 7 d + slot 19 b)]
  | .settile d b => [pack (0xA0000030 + slot 7 d + slot 19 b)]
  | .vaddV d a b g => [pack (0x00000031 + slot 7 d + slot 13 a + slot 19 b + slot 25 g)]
  | .vsubV d a b g => [pack (0x20000031 + slot 7 d + slot 13 a + slot 19 b + slot 25 g)]
  | .vmulV d a b g => [pack (0x40000031 + slot 7 d + slot 13 a + slot 19 b + slot 25 g)]
  | .vmulhV d a b g => [pack (0x60000031 + slot 7 d + slot 13 a + slot 19 b + slot 25 g)]
  | .vminV d a b g => [pack (0x80000031 + slot 7 d + slot 13 a + slot 19 b + slot 25 g)]
  | .vmaxV d a b g => [pack (0xA0000031 + slot 7 d + slot 13 a + slot 19 b + slot 25 g)]
  | .vdivV d a b g => [pack (0xC0000031 + slot 7 d + slot 13 a + slot 19 b + slot 25 g)]
  | .vremV d a b g => [pack (0xE0000031 + slot 7 d + slot 13 a + slot 19 b + slot 25 g)]
  | .vaddW d a x g => [pack (0x00000032 + slot 7 d + slot 13 a + slot 19 x + slot 25 g)]
  | .vsubW d a x g => [pack (0x20000032 + slot 7 d + slot 13 a + slot 19 x + slot 25 g)]
  | .vmulW d a x g => [pack (0x40000032 + slot 7 d + slot 13 a + slot 19 x + slot 25 g)]
  | .vmulhW d a x g => [pack (0x60000032 + slot 7 d + slot 13 a + slot 19 x + slot 25 g)]
  | .vminW d a x g => [pack (0x80000032 + slot 7 d + slot 13 a + slot 19 x + slot 25 g)]
  | .vmaxW d a x g => [pack (0xA0000032 + slot 7 d + slot 13 a + slot 19 x + slot 25 g)]
  | .vdivW d a x g => [pack (0xC0000032 + slot 7 d + slot 13 a + slot 19 x + slot 25 g)]
  | .vremW d a x g => [pack (0xE0000032 + slot 7 d + slot 13 a + slot 19 x + slot 25 g)]
  | .vandV d a b g => [pack (0x00000033 + slot 7 d + slot 13 a + slot 19 b + slot 25 g)]
  | .vorV d a b g => [pack (0x20000033 + slot 7 d + slot 13 a + slot 19 b + slot 25 g)]
  | .vxorV d a b g => [pack (0x40000033 + slot 7 d + slot 13 a + slot 19 b + slot 25 g)]
  | .vandnV d a b g => [pack (0x60000033 + slot 7 d + slot 13 a + slot 19 b + slot 25 g)]
  | .vsllV d a b g => [pack (0x80000033 + slot 7 d + slot 13 a + slot 19 b + slot 25 g)]
  | .vsrlV d a b g => [pack (0xA0000033 + slot 7 d + slot 13 a + slot 19 b + slot 25 g)]
  | .vsraV d a b g => [pack (0xC0000033 + slot 7 d + slot 13 a + slot 19 b + slot 25 g)]
  | .vmulhuV d a b g => [pack (0xE0000033 + slot 7 d + slot 13 a + slot 19 b + slot 25 g)]
  | .vandW d a x g => [pack (0x00000034 + slot 7 d + slot 13 a + slot 19 x + slot 25 g)]
  | .vorW d a x g => [pack (0x20000034 + slot 7 d + slot 13 a + slot 19 x + slot 25 g)]
  | .vxorW d a x g => [pack (0x40000034 + slot 7 d + slot 13 a + slot 19 x + slot 25 g)]
  | .vandnW d a x g => [pack (0x60000034 + slot 7 d + slot 13 a + slot 19 x + slot 25 g)]
  | .vsllW d a x g => [pack (0x80000034 + slot 7 d + slot 13 a + slot 19 x + slot 25 g)]
  | .vsrlW d a x g => [pack (0xA0000034 + slot 7 d + slot 13 a + slot 19 x + slot 25 g)]
  | .vsraW d a x g => [pack (0xC0000034 + slot 7 d + slot 13 a + slot 19 x + slot 25 g)]
  | .vmulhuW d a x g => [pack (0xE0000034 + slot 7 d + slot 13 a + slot 19 x + slot 25 g)]
  | .vfmaV d a b g => [pack (0x00000035 + slot 7 d + slot 13 a + slot 19 b + slot 25 g)]
  | .vfmsV d a b g => [pack (0x20000035 + slot 7 d + slot 13 a + slot 19 b + slot 25 g)]
  | .vfnmaV d a b g => [pack (0x40000035 + slot 7 d + slot 13 a + slot 19 b + slot 25 g)]
  | .vfnmsV d a b g => [pack (0x60000035 + slot 7 d + slot 13 a + slot 19 b + slot 25 g)]
  | .vfmaW d a x g => [pack (0x00000036 + slot 7 d + slot 13 a + slot 19 x + slot 25 g)]
  | .vfmsW d a x g => [pack (0x20000036 + slot 7 d + slot 13 a + slot 19 x + slot 25 g)]
  | .vfnmaW d a x g => [pack (0x40000036 + slot 7 d + slot 13 a + slot 19 x + slot 25 g)]
  | .vfnmsW d a x g => [pack (0x60000036 + slot 7 d + slot 13 a + slot 19 x + slot 25 g)]
  | .vneg d a g => [pack (0x00000037 + slot 7 d + slot 13 a + slot 25 g)]
  | .vabs d a g => [pack (0x20000037 + slot 7 d + slot 13 a + slot 25 g)]
  | .vsqrt d a g => [pack (0x40000037 + slot 7 d + slot 13 a + slot 25 g)]
  | .vexp2 d a g => [pack (0x60000037 + slot 7 d + slot 13 a + slot 25 g)]
  | .vlog2 d a g => [pack (0x80000037 + slot 7 d + slot 13 a + slot 25 g)]
  | .vrcp d a g => [pack (0xA0000037 + slot 7 d + slot 13 a + slot 25 g)]
  | .vnot d a g => [pack (0xC0000037 + slot 7 d + slot 13 a + slot 25 g)]
  | .viota d a g => [pack (0xE0000037 + slot 7 d + slot 13 a + slot 25 g)]
  | .vcmpeqV d a b g => [pack (0x00000038 + slot 7 d + slot 13 a + slot 19 b + slot 25 g)]
  | .vcmpneV d a b g => [pack (0x20000038 + slot 7 d + slot 13 a + slot 19 b + slot 25 g)]
  | .vcmpltV d a b g => [pack (0x40000038 + slot 7 d + slot 13 a + slot 19 b + slot 25 g)]
  | .vcmpleV d a b g => [pack (0x60000038 + slot 7 d + slot 13 a + slot 19 b + slot 25 g)]
  | .vcmpgtV d a b g => [pack (0x80000038 + slot 7 d + slot 13 a + slot 19 b + slot 25 g)]
  | .vcmpgeV d a b g => [pack (0xA0000038 + slot 7 d + slot 13 a + slot 19 b + slot 25 g)]
  | .vcmpunV d a b g => [pack (0xC0000038 + slot 7 d + slot 13 a + slot 19 b + slot 25 g)]
  | .vcmpeqW d a x g => [pack (0x00000039 + slot 7 d + slot 13 a + slot 19 x + slot 25 g)]
  | .vcmpneW d a x g => [pack (0x20000039 + slot 7 d + slot 13 a + slot 19 x + slot 25 g)]
  | .vcmpltW d a x g => [pack (0x40000039 + slot 7 d + slot 13 a + slot 19 x + slot 25 g)]
  | .vcmpleW d a x g => [pack (0x60000039 + slot 7 d + slot 13 a + slot 19 x + slot 25 g)]
  | .vcmpgtW d a x g => [pack (0x80000039 + slot 7 d + slot 13 a + slot 19 x + slot 25 g)]
  | .vcmpgeW d a x g => [pack (0xA0000039 + slot 7 d + slot 13 a + slot 19 x + slot 25 g)]
  | .vcmpunW d a x g => [pack (0xC0000039 + slot 7 d + slot 13 a + slot 19 x + slot 25 g)]
  | .vmv d a g => [pack (0x0000003A + slot 7 d + slot 13 a + slot 25 g)]
  | .vsplat d x g => [pack (0x2000003A + slot 7 d + slot 19 x + slot 25 g)]
  | .vsel d a b g => [pack (0x4000003A + slot 7 d + slot 13 a + slot 19 b + slot 25 g)]
  | .vmvx d a x => [pack (0x6000003A + slot 7 d + slot 13 a + slot 19 x)]
  | .vins d a x => [pack (0x8000003A + slot 7 d + slot 13 a + slot 19 x)]
  | .vcvt d a t g => [pack (0xA000003A + slot 7 d + slot 13 a + slot 19 t + slot 25 g)]
  | .pand d a b g => [pack (0x0000003B + slot 7 d + slot 13 a + slot 19 b + slot 25 g)]
  | .por d a b g => [pack (0x2000003B + slot 7 d + slot 13 a + slot 19 b + slot 25 g)]
  | .pxor d a b g => [pack (0x4000003B + slot 7 d + slot 13 a + slot 19 b + slot 25 g)]
  | .pandn d a b g => [pack (0x6000003B + slot 7 d + slot 13 a + slot 19 b + slot 25 g)]
  | .pnot d a g => [pack (0x8000003B + slot 7 d + slot 13 a + slot 25 g)]
  | .pfirst d a g => [pack (0xA000003B + slot 7 d + slot 13 a + slot 25 g)]
  | .pcnt d a g => [pack (0xC000003B + slot 7 d + slot 13 a + slot 25 g)]
  | .psetvl d a g => [pack (0xE000003B + slot 7 d + slot 13 a + slot 25 g)]
  | .vslideup d a x g => [pack (0x0000003C + slot 7 d + slot 13 a + slot 19 x + slot 25 g)]
  | .vslidedn d a x g => [pack (0x2000003C + slot 7 d + slot 13 a + slot 19 x + slot 25 g)]
  | .vperm d a vi g => [pack (0x4000003C + slot 7 d + slot 13 a + slot 19 vi + slot 25 g)]
  | .vbfly d a k g => [pack (0x6000003C + slot 7 d + slot 13 a + slot 19 k + slot 25 g)]
  | .vcompress d a g => [pack (0x8000003C + slot 7 d + slot 13 a + slot 25 g)]
  | .vexpand d a g => [pack (0xA000003C + slot 7 d + slot 13 a + slot 25 g)]
  | .vscan d a g => [pack (0xC000003C + slot 7 d + slot 13 a + slot 25 g)]
  | .vrev d a g => [pack (0xE000003C + slot 7 d + slot 13 a + slot 25 g)]
  | .vredsum d a g => [pack (0x0000003D + slot 7 d + slot 13 a + slot 25 g)]
  | .vredmin d a g => [pack (0x2000003D + slot 7 d + slot 13 a + slot 25 g)]
  | .vredmax d a g => [pack (0x4000003D + slot 7 d + slot 13 a + slot 25 g)]
  | .vredand d a g => [pack (0x6000003D + slot 7 d + slot 13 a + slot 25 g)]
  | .vredor d a g => [pack (0x8000003D + slot 7 d + slot 13 a + slot 25 g)]
  | .vredxor d a g => [pack (0xA000003D + slot 7 d + slot 13 a + slot 25 g)]
  | .vredmini d a g => [pack (0xC000003D + slot 7 d + slot 13 a + slot 25 g)]
  | .vredmaxi d a g => [pack (0xE000003D + slot 7 d + slot 13 a + slot 25 g)]
  | .vsample d a x g => [pack (0x0000003E + slot 7 d + slot 13 a + slot 20 x + slot 25 g)]
  | .vtopk d a x g => [pack (0x2000003E + slot 7 d + slot 13 a + slot 19 x + slot 25 g)]
  | .vld d x o g => [pack (0x00000040 + slot 7 d + slot 13 x + slot 24 o + slot 25 g)]
  | .vlds d x xs o g => [pack (0x20000040 + slot 7 d + slot 13 x + slot 18 xs + slot 24 o + slot 25 g)]
  | .vldx d x vi o g => [pack (0x40000040 + slot 7 d + slot 13 x + slot 18 vi + slot 24 o + slot 25 g)]
  | .loadDataReturn _ => []
  | .vst d x o g => [pack (0x00000041 + slot 7 d + slot 13 x + slot 24 o + slot 25 g)]
  | .vsts d x xs o g => [pack (0x20000041 + slot 7 d + slot 13 x + slot 18 xs + slot 24 o + slot 25 g)]
  | .vstx d x vi o g => [pack (0x40000041 + slot 7 d + slot 13 x + slot 18 vi + slot 24 o + slot 25 g)]
  | .vcadd d x vi o g => [pack (0x60000041 + slot 7 d + slot 13 x + slot 18 vi + slot 24 o + slot 25 g)]
  | .vcmin d x vi o g => [pack (0x80000041 + slot 7 d + slot 13 x + slot 18 vi + slot 24 o + slot 25 g)]
  | .vcmax d x vi o g => [pack (0xA0000041 + slot 7 d + slot 13 x + slot 18 vi + slot 24 o + slot 25 g)]
  | .vcor d x vi o g => [pack (0xC0000041 + slot 7 d + slot 13 x + slot 18 vi + slot 24 o + slot 25 g)]
  | .vaadd d x vi o g => [pack (0x00000042 + slot 7 d + slot 13 x + slot 18 vi + slot 24 o + slot 25 g)]
  | .vamin d x vi o g => [pack (0x20000042 + slot 7 d + slot 13 x + slot 18 vi + slot 24 o + slot 25 g)]
  | .vamax d x vi o g => [pack (0x40000042 + slot 7 d + slot 13 x + slot 18 vi + slot 24 o + slot 25 g)]
  | .vaand d x vi o g => [pack (0x60000042 + slot 7 d + slot 13 x + slot 18 vi + slot 24 o + slot 25 g)]
  | .vaor d x vi o g => [pack (0x80000042 + slot 7 d + slot 13 x + slot 18 vi + slot 24 o + slot 25 g)]
  | .vaxor d x vi o g => [pack (0xA0000042 + slot 7 d + slot 13 x + slot 18 vi + slot 24 o + slot 25 g)]
  | .vaswap d x vi o g => [pack (0xC0000042 + slot 7 d + slot 13 x + slot 18 vi + slot 24 o + slot 25 g)]
  | .vfence sc => [pack (0x00000043 + slot 29 sc)]
  | .vbind d k x => [pack (0x00000044 + slot 7 d + slot 13 k + slot 19 x)]
  | .vunbind k => [pack (0x20000044 + slot 13 k)]
  | .vbstat d k => [pack (0x40000044 + slot 7 d + slot 13 k)]
  | .streamFetch _ => []
  | .mzero t => [pack (0x00000048 + slot 7 t)]
  | .mmac t a b g => [pack (0x20000048 + slot 7 t + slot 13 a + slot 19 b + slot 25 g)]
  | .mmacw t a g => [pack (0x40000048 + slot 7 t + slot 13 a + slot 25 g)]
  | .mcvt t c => [pack (0x60000048 + slot 7 t + slot 19 c)]
  | .mrdrow d t x => [pack (0x80000048 + slot 7 d + slot 13 t + slot 19 x)]
  | .mwrrow t a x => [pack (0xA0000048 + slot 7 t + slot 13 a + slot 19 x)]
  | .mwld e f a b => [pack (0xC0000048 + slot 7 e + slot 9 f + slot 13 a + slot 19 b)]
  | .mscl t a b => [pack (0xE0000048 + slot 7 t + slot 13 a + slot 19 b)]
  | .hgen d a b g => [pack (0x0000004C + slot 7 d + slot 13 a + slot 19 b + slot 25 g)]
  | .hrot d a x g => [pack (0x2000004C + slot 7 d + slot 13 a + slot 19 x + slot 25 g)]
  | .hacc d a g => [pack (0x4000004C + slot 7 d + slot 13 a + slot 25 g)]
  | .hsign d a b g => [pack (0x6000004C + slot 7 d + slot 13 a + slot 19 b + slot 25 g)]
  | .hdist d a b g => [pack (0x8000004C + slot 7 d + slot 13 a + slot 19 b + slot 25 g)]
  | .hsimm d a x => [pack (0xA000004C + slot 7 d + slot 13 a + slot 19 x)]
  | .hfstep d a x => [pack (0xC000004C + slot 7 d + slot 13 a + slot 19 x)]
  | .hclean d a b => [pack (0x00000073 + slot 7 d + slot 13 a + slot 19 b), pack (0)]
  | .hfact d a b => [pack (0x02000073 + slot 7 d + slot 13 a + slot 19 b), pack (0)]
  | .svld y a b => [pack (0x00000050 + slot 7 y + slot 13 a + slot 19 b)]
  | .svst y a => [pack (0x20000050 + slot 7 y + slot 13 a)]
  | .svadd d a b => [pack (0x40000050 + slot 7 d + slot 13 a + slot 19 b)]
  | .svmul d a b => [pack (0x60000050 + slot 7 d + slot 13 a + slot 19 b)]
  | .svdot d a b => [pack (0x80000050 + slot 7 d + slot 13 a + slot 19 b)]
  | .svtov d y x => [pack (0xA0000050 + slot 7 d + slot 13 y + slot 19 x)]
  | .svlen d y => [pack (0xC0000050 + slot 7 d + slot 13 y)]
  | .rpost a x => [pack (0x00000054 + slot 13 a + slot 19 x)]
  | .rwait d v x => [pack (0x20000054 + slot 7 d + slot 13 v + slot 19 x)]
  | .routerNode _ _ _ => []
  | .roundClose _ _ => []
  | .cpy d a b slack tk treg => [pack (0x00000072 + slot 7 d + slot 13 a + slot 19 b), pack (0 + slot 0 slack + slot 4 tk + slot 5 treg)]
  | .cpys d a b slack tk treg sz xs => [pack (0x02000072 + slot 7 d + slot 13 a + slot 19 b), pack (0 + slot 0 slack + slot 4 tk + slot 5 treg + slot 10 sz + slot 13 xs)]
  | .cpyx d a b slack tk treg sz vi => [pack (0x04000072 + slot 7 d + slot 13 a + slot 19 b), pack (0 + slot 0 slack + slot 4 tk + slot 5 treg + slot 10 sz + slot 13 vi)]
  | .cpyt d a => [pack (0x06000072 + slot 7 d + slot 13 a), pack (0)]
  | .copyComplete => []
  | .srdef a => [pack (0x00000074 + slot 13 a), pack (0)]
  | .srld d a k => [pack (0x02000074 + slot 7 d + slot 13 a + slot 19 k), pack (0)]
  | .srst d a k => [pack (0x04000074 + slot 7 d + slot 13 a + slot 19 k), pack (0)]
  | .srrow d a b => [pack (0x06000074 + slot 7 d + slot 13 a + slot 19 b), pack (0)]
  | .srtrav d a b => [pack (0x08000074 + slot 7 d + slot 13 a + slot 20 b), pack (0)]
  | .srdense d a b tk treg => [pack (0x0A000074 + slot 7 d + slot 13 a + slot 19 b), pack (0 + slot 4 tk + slot 5 treg)]
  | .srcnt d a => [pack (0x0C000074 + slot 7 d + slot 13 a), pack (0)]
  | .edef a b off => [pack (0x00000075 + slot 13 a + slot 19 b), pack (0 + slot 0 off)]
  | .erun d b => [pack (0x02000075 + slot 7 d + slot 19 b), pack (0)]
  | .eend => [pack (0x04000075), pack (0)]
  | .estat d b => [pack (0x06000075 + slot 7 d + slot 19 b), pack (0)]
  | .efront d => [pack (0x08000075 + slot 7 d), pack (0)]
  | .timerExpiry => []
  | .interrupt => []
  | .preempt _ _ => []
  | .hostmsg _ => []
  | .breakpointHalt => []
  | .wcbDrain _ => []
  | .srfMirrorUpdate _ => []
  | .ringPostDelivery _ => []
  | .tail _ _ => []
  | .gangStart _ _ _ => []
  | .gangComplete _ => []
  | .gangPreempt _ _ _ => []
  | .gangResume _ _ _ => []
  | .probeTokenSend _ _ _ => []
  | .probeTokenReceive _ _ => []
  | .l2Window _ _ _ _ => []
  | .throttleStart _ _ _ => []
  | .throttleEnd _ _ => []
  | .leaseExpiry => []
  | .counterRotation _ => []
  | .replayInputApply _ => []
  | .hostApertureWrite _ _ _ => []
  | .hostSrfRead _ => []
  | .hostSrfWrite _ _ => []
  | .registerWrite _ _ _ _ => []
  | .ralbaFrameReceive _ _ _ _ _ _ _ _ _ _ _ _ _ => []
  | .frameRetry _ _ _ => []
  | .linkLoss _ _ => []
  | .deviceReset _ => []
  | .powerLoss => []
  | .recoveryDoorbell _ => []
  | .summary _ => []
  | .setLaunchQueue _ _ _ _ => []
  | .rackLease _ _ _ _ => []
  | .setWindow _ _ _ _ _ _ _ _ => []
  | .resetHart _ _ => []
  | .attestationReport _ => []
  | .retireResource _ _ _ => []
  | .setBreakpoints _ => []
  | .setCounters _ => []
  | .readCounters _ => []
  | .setTrace _ => []
  | .readTraceStatus _ => []
  | .registerContext _ => []
  | .placeAperture _ => []
  | .setThot _ => []
  | .setEthertype _ => []
  | .assignRootPort _ => []
  | .illegal _ => []
  | .fetchTrap => []
  | .combineApplied _ => []
  | .haltedHartResume _ => []
  | .remoteLinkRestored _ _ => []
  | .rootPortDeviceAccess _ _ _ _ _ => []
  | .boostEnd => []
  | .endedBySupervisorSide _ => []
  | .imageVerificationDone => []

/-- The bytes an instruction has in memory (R3, R29). -/
def encodeBytes (i : Instr) : List Byte := (encode i).flatMap bytesOfWord

/-- The size of an instruction in bytes: 8 for a long form, 4 for every other word (R29). -/
def Instr.size (i : Instr) : Nat := 4 * (encode i).length

/-- The instruction's words as one number, word 0 in bits [31:0]: the TVAL of an ILLEGAL or DETERM trap (R31, R80). -/
def Instr.wordValue (i : Instr) : Nat :=
  match encode i with
  | [] => 0
  | [w] => w.toNat
  | w :: v :: _ => w.toNat + 2 ^ 32 * v.toNat

/-- The eight bytes of a number, lowest address first: room for the longest instruction. -/
def layBytes (w : Nat) : List Byte := bytesOfWord (pack w) ++ bytesOfWord (pack (w / 2 ^ 32))

/-- The instruction the decoder reads from the `nbits` bits of `w`, every higher bit zero, laid out as memory holds it. -/
noncomputable def decodeTableWord (nbits w : Nat) : Option Instr :=
  match decode (layBytes (w % 2 ^ nbits)) with
  | .ok (i, _) => some i
  | .error _ => none

end Sys2Proof
end

