-- ==== Sys2Proof/Machine/State.lean ====
section
/-!
DEFINITION. The state of the machine: the hart whose turn it is with its core, the other harts and cores, the device
around them, and the agenda of what happens next. Every field's default is its value at reset.
-/

namespace Sys2Proof.Machine

/-- Privilege levels (R77). -/
inductive Priv where
  | u | s
  deriving DecidableEq, Repr

/-- Element tags (R120). -/
inductive Tag where
  | none | i8 | i16 | i32 | i64 | w8 | w16 | w32 | w64 | f8e4 | f8e5 | bf16 | f16 | f32 | f64 | rn12 | rn24 | hb | hc
  deriving DecidableEq, Repr

/-- Rounding modes (R70). -/
inductive Rm where
  | rne | rtz | rup | rdn | rna
  deriving DecidableEq, Repr

/-- The FZ field of VTYPE (R126, R128). -/
inductive Fz where
  | keep | flushResults | flushAll
  deriving DecidableEq, Repr

/-- Trap causes (R80). -/
inductive Cause where
  | illegal | tagMismatch | misaligned | pageFaultLd | pageFaultSt | pageFaultFetch | access | remoteLink | determ
  | spxhaust | stream | matrix | ecall | ebreak | poison | watch | preempt | timer | hostmsg
  deriving DecidableEq, Repr

/-- FCSR (R70): the flags are NV, DZ, OF, UF, NX from bit 4 down. -/
structure Fcsr where
  rm : Rm := .rne
  flags : BitVec 5 := 0
  deriving DecidableEq, Repr

/-- VTYPE (R126). -/
structure VType where
  satf : Bool := false
  rninv : Bool := false
  flags : BitVec 5 := 0
  tail : Bool := false
  sat : Bool := false
  fz : Fz := .keep
  rm : Rm := .rne
  etag : Tag := .none
  deriving DecidableEq, Repr

/-- TSTATUS (R78). -/
structure TStatus where
  tcount : BitVec 32 := 0
  hpend : Bool := false
  ppend : Bool := false
  tpend : Bool := false
  ctxv : Bool := false
  eip : Bool := false
  pie : Bool := false
  ie : Bool := false
  pprv : Priv := .u
  slact : BitVec 2 := 0
  deriving DecidableEq, Repr

/-- The trap registers (R78, R87). -/
structure TrapRegs where
  cause : BitVec 8 := 0
  tpc : Word := 0
  tval : Word := 0
  tstart : Nat := 0
  tinfo0 : Word := 0
  tinfo1 : Word := 0
  tinfo2 : Word := 0
  tinfo3 : Word := 0
  tvec : Word := 0
  tvtype : Word := 0
  status : TStatus := {}
  deriving DecidableEq, Repr

/-- The loop registers (R53). -/
structure Loops where
  lb0 : Word := 0
  le0 : Word := 0
  lc0 : Word := 0
  lb1 : Word := 0
  le1 : Word := 0
  lc1 : Word := 0
  lact : BitVec 2 := 0
  deriving DecidableEq, Repr

/-- One vector register (R96, R121): its bits, its element tag, the slot it is bound to, and for each element group
(bit j for group j) whether it is absent and whether it is tainted. -/
structure VReg where
  data : Nat := 0
  tag : Tag := .none
  bound : Option Nat := none
  absent : Nat := 0
  taint : Nat := 0
  deriving DecidableEq, Repr

/-- The vector control registers: VL, VSTART, VTYPE, LSLIP, HDIM (R126, R147, R112, R224). -/
structure VecCtl where
  vl : Nat := 0
  vstart : Nat := 0
  vtype : VType := {}
  lslip : Nat := 15
  hdim : Nat := 64
  deriving DecidableEq, Repr

/-- DETM (R334). -/
structure Detm where
  pull : Bool := false
  convoy : Bool := false
  atom : Bool := false
  drain : Bool := false
  arb : Bool := false
  deriving DecidableEq, Repr

/-- TAINT (R340). -/
structure TaintBits where
  read : Bool := false
  escape : Bool := false
  race : Bool := false
  combine : Bool := false
  atom : Bool := false
  seen : Bool := false
  deriving DecidableEq, Repr

/-- Who a hart is (R103, R104): its gang, and the identity registers' fields. -/
structure Ident where
  gang : Nat := 0
  slot : Nat := 0
  lhart : Nat := 0
  lcore : Nat := 0
  core : Nat := 0
  ldie : Nat := 0
  die : Nat := 0
  deriving DecidableEq, Repr

/-- The number of a device hart (R375): 8 · COREID.CORE + HARTID.SLOT. -/
def Ident.uid (i : Ident) : Nat := 8 * i.core + i.slot

/-- The class of the address space a leaf names (R88). -/
inductive PageClass where
  | device | host | remote
  deriving DecidableEq, Repr

/-- One cached translation of a 4 KiB page (R88, R92): the page, the physical page it lies on, its attributes. -/
structure TlbEntry where
  vpn : Nat
  frame : Nat
  cls : PageClass
  r : Bool
  w : Bool
  x : Bool
  u : Bool
  g : Bool
  dirty : Bool
  /-- The 4 KiB pages of the leaf (R88, R90). -/
  pages : Nat := 1
  deriving DecidableEq, Repr

/-- The fetch block a hart runs in, with the translation it pins (R94), and whether a TFENCE has dropped it (R93). -/
structure FetchPin where
  block : Nat
  entry : TlbEntry
  stale : Bool
  deriving DecidableEq, Repr

/-- What a hart slot is doing. -/
inductive HartStatus where
  /-- No kernel runs on the slot. -/
  | idle
  /-- Instructions issue. -/
  | running
  /-- Service 0 ended the hart's part of the kernel (R97, R359). -/
  | ended
  /-- A double trap stopped the hart (R82). -/
  | stopped
  /-- A breakpoint or watchpoint halts the hart (R346). -/
  | halted
  deriving DecidableEq, Repr

/-- One tile (R206): MVL × MVL cells of 32 bits, row 0 first, and the accumulator tag. -/
structure Tile where
  data : Nat := 0
  tag : Tag := .none
  deriving DecidableEq, Repr

/-- The loaded weight buffer (R214 to R216, R96): its form and the decoded rows. -/
structure WeightBuffer where
  enc : Nat
  fmt : Tag
  n : Nat
  rows : List (List Nat)
  deriving DecidableEq, Repr

/-- The matrix side of a hart (R203 to R206). -/
structure Matrix where
  granted : Bool := false
  mvl : Nat := 0
  lpart : Nat := 0
  m : Nat := 0
  n : Nat := 0
  k : Nat := 0
  tiles : Vector Tile 4 := Vector.replicate 4 {}
  wbuf : Option WeightBuffer := none
  /-- ADDR and LEN of the weight buffer (R214): X[A] and X[B] of the last MWLD, whether its rows are still loaded or not. -/
  waddr : Word := 0
  wlen : Word := 0
  deriving DecidableEq, Repr

/-- Why a stream fetch failed (R192): the step of R62 with its address, POISON's or REMOTE_LINK's extra word, and the entry
whose read failed when the failure is a walk's (R91). -/
structure FetchFailure where
  cause : Cause
  val : Word
  info3 : Word
  walkEntry : Option Nat := none
  deriving DecidableEq, Repr

/-- One stream element in the strip buffer (R191): its number in the stream, and the bits it read with the bits of its
scale, or the failure recorded against it (`onScale` tells which of the two fetches failed). -/
structure StreamElem where
  e : Nat
  raw : Nat
  scale : Nat
  taint : Bool
  failure : Option FetchFailure
  onScale : Bool
  deriving DecidableEq, Repr

/-- A stream slot in use (R186, R188): the record, its position, STREAMEND, the bound register, what the stream
thread has fetched ahead, whether a store has spoiled the strip buffer's bytes, and the number of its thread (R330). -/
structure Binding where
  reg : Nat
  base : Word
  stride : Word
  length : Nat
  smode : Nat
  ttag : Tag
  mtag : Tag
  sbase : Word
  group : Nat
  strips : Nat
  sbuf : Nat
  consumed : Nat
  depth : Nat
  streamEnd : Bool
  buffer : List StreamElem
  spoiled : Bool
  fork : Nat := 0
  /-- RB and the privilege of the hart at the VBIND: the buffer's extent (R186), and how the thread reads (R188). -/
  rb : Nat := 0
  priv : Priv := .u
  deriving DecidableEq, Repr

/-- One sparse vector register (R266): its value tag, and the pairs of coordinate and value below YLEN. -/
structure YReg where
  tag : Tag := .none
  pairs : List (Nat × Nat) := []
  deriving DecidableEq, Repr

/-- The status registers of the engines (R41): HMARGIN, HFIDX0 to HFIDX3, HFSTAT, VSSTAT, ESTAT. -/
structure EngineCsrs where
  hmargin : Word := 0
  hfidx : Vector Word 4 := Vector.replicate 4 0
  hfstat : Word := 0
  vsstat : Word := 0
  estat : Word := 0
  deriving DecidableEq, Repr

/-- The counts a hart keeps (R10, R41, R96): CYCLE, INSTRET, the U count of R342, the convoy number of R336, the SYBAR
epoch of R338. -/
structure Counts where
  cycle : Word := 0
  instret : Word := 0
  ucount : Word := 0
  convoy : Word := 0
  epoch : Word := 0
  deriving DecidableEq, Repr

/-- A scope (R37, R321). -/
inductive Scope where
  | hart | core | die | device | system
  deriving DecidableEq, Repr

/-- The kind of a WCB entry (R320). -/
inductive AccessKind where
  | scalar | vector
  deriving DecidableEq, Repr

/-- A provisional entry as it stood before a younger store merged into it (R85, R324). -/
structure WcbLayer where
  prov : Option Word
  key : Nat
  bytes : List Byte
  gap : List Nat
  tainted : Bool
  deriving DecidableEq, Repr

/-- One entry of a core's write-combining buffer (R320): the bytes from a memory key on, but for the offsets in `gap`,
which a merge has left between them (R324); the writing hart, kind and release scope; `prov`, for the entry of a
provisional store, INSTRET of the youngest older instruction that it waits for (R85); whether it is closed to merging
(R324); and, for the writing hart, whether a fence has ordered it before its later scalar loads and vector loads, and
which engine threads a fence has ordered it before, by the number of the first (R323). `readS` and `readV` are the harts
whose scalar and vector loads have taken its value (R321). `seq` is the next thread's number when it entered. `group`
names the vector instruction of an order=elem store, whose entries drain in order, and `resumed` says that the
instruction had been stopped before (R322); `tainted` and `writer` are what the write records in its block's metadata
(R337, R338), `window` the context and window a remote entry goes through (R377). -/
structure WcbEntry where
  key : Nat
  bytes : List Byte
  gap : List Nat := []
  hart : Nat
  kind : AccessKind
  release : Option Scope := none
  prov : Option Word := none
  closed : Bool := false
  seenS : Bool := false
  seenV : Bool := false
  seenE : Option Nat := none
  readS : List Nat := []
  readV : List Nat := []
  seq : Nat := 0
  group : Option Nat := none
  resumed : Bool := false
  tainted : Bool := false
  writer : Option (Nat × Nat × Word) := none
  /-- The store instruction that the entry is part of (R339). -/
  whole : Option Nat := none
  window : Option (Nat × Nat) := none
  /-- The epochs of each logical hart that SYBARs have ordered before the vector store (R338). -/
  after : List (Nat × Nat) := []
  /-- What the entry holds without the younger provisional stores that have merged into it, newest first (R85). -/
  under : List WcbLayer := []
  deriving DecidableEq, Repr

/-- One element of an outstanding load that has not returned (R170): its number, address and memory key, the window of a
remote one, and what TINFO3 holds of its index if it fails (R87). -/
structure LoadItem where
  i : Nat
  va : Word
  key : Nat
  window : Option Nat
  index : Word := 0
  deriving DecidableEq, Repr

/-- Why an access fails (R62, R168), with what TINFO3 holds beyond the frame, and the entry whose read failed when the
failure is a walk's (R91). -/
structure Failure where
  cause : Cause
  info3 : Word := 0
  walkEntry : Option Nat := none
  deriving DecidableEq, Repr

/-- The fault frame (R87). -/
structure Frame where
  kind : Nat
  acc : Nat
  size : Nat
  base : Word
  stride : Word := 0
  remain : Nat := 1
  ixreg : Nat := 0
  info3 : Word := 0
  deriving DecidableEq, Repr

/-- A vector load that has left the VIQ and has not completed (R170), with its operands as it read them: its register, tag
and width, its element range and its frame (R87), its order, the strip its index register delivered, and whether an
index group is tainted (bit j for group j). Then the elements still to return, the elements it performs (bit i), those
that have returned and those that read a tainted block, the elements that have failed at their return, and whether a
TFENCE has dropped its translations. -/
structure OutstandingLoad where
  reg : Nat
  tag : Tag
  width : Nat
  n : Nat
  frame : Frame
  ordered : Bool
  strip : Option (Nat × Nat) := none
  indexTaint : Nat := 0
  items : List LoadItem
  act : Nat
  done : Nat := 0
  tainted : Nat := 0
  fails : List (LoadItem × Failure) := []
  stale : Bool := false
  deriving DecidableEq, Repr

/-- The pages that a store, combine, atomic or load has pinned and keeps while it stands stopped inside (R92): where its elements
lie, the element that failed at pinning, and whether a TFENCE has dropped the translations. -/
structure Pinned where
  items : List LoadItem
  fail : Option (Nat × Failure)
  stale : Bool := false
  deriving DecidableEq, Repr

/-- An access that has issued and retired and is still to be performed (R322): a scalar load with its register and how it fills
it, or the entry of a scalar or vector store. -/
inductive Late where
  | load (reg : BitVec 5) (key size : Nat) (signed : Bool) (seq : Nat)
  | store (entry : WcbEntry)
  deriving DecidableEq, Repr

/-- An access of a load that was performed ahead of older accesses (R64, R180, R322): the element, where it read, the value
and whether its blocks were tainted. -/
structure Early where
  elem : Nat
  key : Nat
  size : Nat
  vector : Bool
  value : Nat
  tainted : Bool
  deriving DecidableEq, Repr

/-- What the scalar stream of a hart holds at one point of the program (R85, R59): pc, x registers, FCSR, loop registers,
the counts of retired instructions and of clocks, the fetch block with its pin, and whether a provisional load has read a tainted
block. -/
structure Side where
  pc : Word
  x : Vector Word 32
  fcsr : Fcsr
  loops : Loops
  instret : Word
  ucount : Word
  fetchPin : Option FetchPin
  cycle : Word := 0
  tainted : Bool := false
  deriving DecidableEq, Repr

/-- An instruction that has issued and waits behind an older one (R105, R320): a vector instruction or a fence in the VIQ,
or a scalar load without its value; the scalar stream as it stood at its issue, and the accesses performed early. -/
structure Queued where
  instr : Instr
  side : Side
  early : List Early := []
  deriving DecidableEq, Repr

/-- What a hart has issued beyond the oldest instruction that has not completed (R85, R105): the instructions that wait
behind it, oldest first, the scalar stream at the issue point, and the instruction that has been decoded there and waits
(R94). -/
structure Ahead where
  queue : List Queued := []
  now : Side
  waiting : Option Instr := none
  deriving DecidableEq, Repr

/-- A codebook (R236, R240): item 0's address, the items, their rotation. -/
structure Book where
  base : Nat
  count : Nat
  rot : Nat
  deriving DecidableEq, Repr

/-- What HSIMM, HCLEAN and HFACT read once, when they leave the VIQ, and hold while they stand stopped inside (R228, R240):
the codebooks, THRESH or LIMIT, the query or product, and the taint of what was read. -/
structure Kept where
  books : List Book
  bound : Nat
  vector : Nat
  tainted : Bool
  deriving DecidableEq, Repr

/-- The operator of a graph (R288). -/
inductive EdgeOp where
  | min | max | add | or | first
  deriving DecidableEq, Repr

/-- A pinned page of a graph (R92, R287): its first 4 KiB page, its size and its physical address. -/
structure EdgePage where
  vpn : Nat
  /-- The 4 KiB pages of the leaf that maps it (R88, R90). -/
  span : Nat
  frame : Nat
  deriving DecidableEq, Repr

/-- A graph bound by EDEF (R281, R283, R287): the fields of its descriptor with its address, the share, the decoded body and
its address, the pinned pages with the physical page of each, and the edges that the last ERUN evaluated (R295). -/
structure EdgeBinding where
  desc : Word
  lo : Nat
  hi : Nat
  nv : Nat
  ne : Nat
  outptr : Nat
  outidx : Nat
  inptr : Nat
  inidx : Nat
  outw : Nat
  inw : Nat
  val0 : Nat
  val1 : Nat
  fr0 : Nat
  fr1 : Nat
  fin : Nat
  wtag : Tag
  vtag : Tag
  op : EdgeOp
  beta : Nat
  alpha : Nat
  shareWord : Word
  bodyAt : Word
  body : List Instr
  pages : List EdgePage
  /-- The edges that the hart's last ERUN evaluated (R295). -/
  edges : Nat := 0
  /-- The supersteps run under the binding: STEP without its limit of 255 (R275, R298). -/
  runs : Nat := 0
  /-- The direction of the last of them, and the number of the traversal that the EDEF began or joined (R283, R298). -/
  dir : Nat := 0
  traversal : Nat := 0
  /-- A TFENCE has dropped the translations of its pins (R93). -/
  stale : Bool := false
  deriving DecidableEq, Repr

/-- What an ERUN has counted, and what its body has raised. -/
structure Tally where
  count : Nat := 0
  dsum : Nat := 0
  edges : Nat := 0
  marks : VType
  escape : Bool := false
  deriving DecidableEq, Repr

/-- One piece of the work of an ERUN or EFRONT that is done in one go (R277, R289, R290, R294): the prologue of FIRST for a vertex;
a byte of the next frontier cleared, with the share's bits of it; a source of a push; one of its out-edges; a candidate's
combine, and whether a tainted value decided that there is one; a destination of a pull; the rest of its in-edges; EFRONT's count of a vertex, and its preparation. -/
inductive EdgeTask where
  | carry (v : Nat)
  | clear (byte mask : Nat)
  | source (u : Nat)
  | outEdge (e : Nat) (src : Nat × Bool)
  | combine (d : Nat) (c : Nat × Bool) (decided : Bool)
  | target (d : Nat)
  | inEdges (d : Nat) (dst : Nat × Bool) (edges : List Nat)
  | measure (v : Nat)
  | prepare (v : Nat)
  deriving DecidableEq, Repr

/-- An ERUN or EFRONT that has been forked and has not completed (R296): the number of its thread, X[B] · 2^16, the phase and
direction, the x registers as they stood when it left the VIQ (R276), the counts, and the stages of work still to do in
order, each a list of pieces. -/
structure EdgeRun where
  thread : Nat
  g : Nat := 0
  phase : Bool
  dir : Nat := 0
  x : Vector Word 32
  tally : Tally
  stages : List (List EdgeTask)
  deriving DecidableEq, Repr

/-- One hart: its registers and the model's own notes about the instruction it is in. -/
structure Hart where
  ident : Ident := {}
  status : HartStatus := .idle
  /-- The context of the launch and its root table's physical address (R88, R384). -/
  ctx : Nat := 0
  root : Nat := 0
  x : Vector Word 32 := Vector.replicate 32 0
  pc : Word := 0
  priv : Priv := .u
  fcsr : Fcsr := {}
  loops : Loops := {}
  trap : TrapRegs := {}
  vec : VecCtl := {}
  v : Vector VReg 64 := Vector.replicate 64 {}
  /-- Predicates p0 to p15, element i in bit i; p0 is read as all ones (R33, R96). -/
  p : Vector Nat 16 := Vector.replicate 16 0
  /-- RB outside matrix mode (R108), the pavilions the hart holds (R106, R107; 0 for a short hart), and which they are
  (bit q for pavilion q; the shared one of a short hart). -/
  rb0 : Nat := 0
  pavilions : Nat := 0
  pavSet : Nat := 0
  detm : Detm := {}
  taint : TaintBits := {}
  mat : Matrix := {}
  streams : Vector (Option Binding) 8 := Vector.replicate 8 none
  y : Vector YReg 8 := Vector.replicate 8 {}
  engine : EngineCsrs := {}
  counts : Counts := {}
  tlb : List TlbEntry := []
  fetchPin : Option FetchPin := none
  /-- A TFENCE has dropped the translations and waits for pins (R93). -/
  tfencing : Bool := false
  /-- A WFI waits (R98). -/
  inWfi : Bool := false
  /-- The hart has been resumed at a breakpoint that the instruction at pc has (R346). -/
  passed : Bool := false
  /-- The save area of a PREEMPT request that is pending (R95). -/
  preempt : Option Word := none
  /-- The version of each synchronisation register that the hart has observed or written (R308). -/
  srfSeen : List (Nat × Nat) := []
  /-- For each logical hart, how many of its epochs SYBARs have ordered before the hart's next vector store; for the hart itself, how
  many its vector fences have (R338). -/
  ordered : List (Nat × Nat) := []
  /-- The instruction at pc has stopped inside, at VSTART (R83, R86). -/
  stopped : Bool := false
  load : Option OutstandingLoad := none
  /-- The graph bound to the hart (R287). -/
  edge : Option EdgeBinding := none
  /-- The instruction at pc that has been fetched and has not retired: it completes as decoded (R94). -/
  held : Option Instr := none
  /-- What has issued beyond the instruction at pc, which is then the oldest that has not completed (R85, R105). -/
  ahead : Option Ahead := none
  /-- The accesses of the instruction at pc that were performed early (R322). -/
  early : List Early := []
  /-- What the instruction at pc has read once and holds while it stands stopped inside (R228, R240). -/
  kept : Option Kept := none
  /-- The instruction that is being executed is provisional (R85): INSTRET of the youngest older instruction that has not
  completed. -/
  prov : Option Word := none
  /-- What the vector memory instruction at pc, stopped inside, has pinned (R92). -/
  pinned : Option Pinned := none
  /-- The loads that have stopped and left groups of their registers absent, by address and privilege (R172, R173). -/
  reload : List (Word × Priv) := []
  /-- The scalar accesses that have retired and are still to be performed, oldest first (R322). -/
  late : List Late := []
  /-- The ERUN or EFRONT at pc that runs (R296). -/
  edgeRun : Option EdgeRun := none
  deriving DecidableEq, Repr

/-- Where a copy or SRDENSE notifies its end (R195, R197). -/
inductive CopyTarget where
  | scalar (r : BitVec 5)
  | srf (index : Nat)
  deriving DecidableEq, Repr

/-- What a copy moves (R196): `cpy`, `cpys` by a stride, `cpyx` by byte offsets of its index elements; or the box of a
region that SRDENSE writes out (R261), by the region's address and the bounds of each coordinate. -/
inductive CopyShape where
  | whole (len : Nat)
  | strided (cnt z : Nat) (stride : Int)
  | indexed (z : Nat) (offsets : List Int)
  | dense (region : Word) (lo hi : List Nat)
  deriving DecidableEq, Repr

/-- One copy in flight (R198 to R201): its number, which orders it among the engine threads (R330), its owner with the
context it translates in, addresses at issue, target, slack, and the units it has moved (R331). -/
structure Copy where
  id : Nat
  owner : Nat
  gang : Nat
  ctx : Nat
  root : Nat
  priv : Priv
  dst : Word
  src : Word
  shape : CopyShape
  target : CopyTarget
  slack : Nat
  moved : List Nat := []
  /-- Its instruction's address, slot and convoy number, for its trace records (R348). -/
  pc : Word := 0
  slot : Nat := 0
  convoy : Nat := 0
  deriving DecidableEq, Repr

/-- What the black box records (R82, R351). -/
inductive BlackBoxEvent where
  /-- A double trap: the hart, its TCAUSE and TPC, and the new cause. -/
  | doubleTrap (hart : Nat) (tcause : BitVec 8) (tpc : Word) (cause : Nat)
  /-- A hart was reset (R365). -/
  | hartReset (hart : Nat)
  /-- A launch packet failed (R356): its queue, its number and the completion code. -/
  | launchError (queue packet code : Nat)
  /-- A thermal or power transition (R370, R371, R373): which, on which die. -/
  | transition (kind die : Nat)
  /-- A management command (R383): its code. -/
  | command (code : Nat)
  /-- An uncorrected memory error that an access of a hart or its engines met. -/
  | memoryError (hart : Nat)
  deriving DecidableEq, Repr

/-- The trace unit of a core as command 0x08, OP 3 has set it up (R350): bytes written since then, and whether the
buffer filled. -/
structure Trace where
  base : Nat
  size : Nat
  wrap : Bool
  mask : Nat
  offset : Nat := 0
  full : Bool := false
  wrapped : Bool := false
  deriving DecidableEq, Repr

/-- The performance counters of a core (R349, R350): the rotation period in µs, the event sets, the current one, and for
each counter the count, the time its set was enabled and the time it was counting, in ns. -/
structure Counters where
  period : Nat
  sets : List Nat
  current : Nat := 0
  count : Vector Nat 8 := Vector.replicate 8 0
  enabled : Nat := 0
  running : Vector Nat 8 := Vector.replicate 8 0
  /-- The bytes that the copy engine has moved since set-up. -/
  copied : Nat := 0
  deriving DecidableEq, Repr

/-- One core: the larder split of its running kernel (R63, R89), its write-combining buffer, copies and task queue. -/
structure Core where
  id : Nat := 0
  pb0 : Nat := 40
  pb1 : Nat := 72
  pb2 : Nat := 112
  wcb : List WcbEntry := []
  /-- Stores are applied at their coherence point as they are performed, instead of waiting in the buffer for a drain
  step: which of the orders R322 allows takes place. -/
  eager : Bool := true
  /-- A store merges into the entry before it whenever R324 allows it: which of the two takes place. -/
  merging : Bool := true
  /-- Vector loads stay outstanding and their elements return one at a time (R170), instead of in the step that issues
  them: which of the two takes place. -/
  flying : Bool := false
  copies : List Copy := []
  /-- The task queue, oldest first: record address and gang (R116). -/
  tasks : List (Word × Nat) := []
  trace : Option Trace := none
  counters : Option Counters := none
  deriving DecidableEq, Repr

/-- What the memory metadata records of a 64-byte block (R338, R339): its bit and the last vector store's gang, logical hart
and epoch; and, while the bit stands, the last write's instruction with the bytes of the block that its clean writes have
covered since any other write. -/
structure BlockMeta where
  tainted : Bool := false
  writer : Option (Nat × Nat × Word) := none
  piece : Option (Nat × Nat) := none
  deriving DecidableEq, Repr

/-- A posted store on its way through a remote window (R63, R378), with the offsets that a merge has left free, its writing hart
and what it records in its blocks' metadata (R324, R338, R339). -/
structure Posted where
  key : Nat
  bytes : List Byte
  gap : List Nat := []
  hart : Nat := 0
  tainted : Bool
  writer : Option (Nat × Nat × Word) := none
  scalar : Bool := false
  whole : Option Nat := none
  after : List (Nat × Nat) := []
  deriving DecidableEq, Repr

/-- The state of a window's link (R377). -/
inductive LinkState where
  | up | retrying | down | refused | notSet
  deriving DecidableEq, Repr

/-- One window entry of a context (R377), with the posted accesses on their way in the order they left (R378). -/
structure Window where
  ctx : Nat
  num : Nat
  peer : Nat
  peerCtx : Nat
  base : Nat
  length : Nat
  status : Nat
  state : LinkState
  failed : Nat
  lost : Bool
  posted : List Posted
  /-- How often the oldest frame has been sent again, and since when no port reaches the peer (R378). -/
  tries : Nat := 0
  cut : Option Nat := none
  /-- The Ethernet port the window is bound to, of six (R378). -/
  port : Nat := 0
  deriving DecidableEq, Repr

/-- A combine element on its way to its slice (R175, R176): the hart and core it comes from, what it does there, and the
instruction's number when its elements are ordered, with whether it had been stopped before. -/
structure PendingCombine where
  hart : Nat
  core : Nat
  key : Nat
  op : Nat
  tag : Tag
  value : Nat
  tainted : Bool
  group : Option Nat
  resumed : Bool := false
  window : Option (Nat × Nat)
  deriving DecidableEq, Repr

/-- One synchronisation register as its home or a mirror holds it (R306, R312): the value, the arrival set (bit LHART),
and how many changes the home has made. `arrived` and `passed` hold, for each logical hart, how many of its epochs the SYBAR
arrivals of the running generation, and of those before it, have ordered before what follows a return (R338). -/
structure SrfReg where
  value : Word := 0
  set : Nat := 0
  version : Nat := 0
  arrived : List (Nat × Nat) := []
  passed : List (Nat × Nat) := []
  deriving DecidableEq, Repr

/-- One hart of a gang's logical shape (R103, R355). -/
structure HartShape where
  lhart : Nat
  lcore : Nat
  long : Bool
  pav : Nat
  mmode : Bool
  deriving DecidableEq, Repr

/-- One reduction tree (R300): the time-out in µs, the root, and the children of each member. -/
structure Tree where
  tout : Nat
  root : Nat
  children : List (Option Nat × Option Nat)
  deriving DecidableEq, Repr

/-- One packet accepted into a round (R301, R318). -/
structure Packet where
  lhart : Nat
  lcore : Nat
  data : List Nat
  tainted : Bool
  deriving DecidableEq, Repr

/-- How a round stands (R302, R303). -/
inductive RoundStatus where
  | running
  | result (data : List Nat) (tainted : Bool)
  | closed
  deriving DecidableEq, Repr

/-- One reduction round of a tree (R301 to R303): its number, when its clock started, the tag and the packets accepted,
and the nodes that routers have formed. -/
structure Round where
  tree : Nat
  num : Nat
  start : Option Nat
  tag : Option Tag
  packets : List Packet
  nodes : List (Nat × List Nat)
  status : RoundStatus
  deriving DecidableEq, Repr

/-- What a gang is doing (R353, R359, R363). -/
inductive GangStatus where
  | running
  | preempted
  deriving DecidableEq, Repr

/-- What a pre-empted gang keeps of one hart beside its save area (R363, R364). -/
structure SavedHart where
  ident : Ident
  area : Word
  status : HartStatus
  pavilions : Nat
  rb0 : Nat
  granted : Bool
  edge : Option EdgeBinding
  cycle : Word
  seen : List (Nat × Nat)
  ordered : List (Nat × Nat) := []
  deriving DecidableEq, Repr

/-- One outside input that a recording gang has logged (R342, R343): the number of its record, its kind, its target (an SRF index or
device addresses), the register's version it made, the U count of each logical hart when it became visible, and the lowest
logical hart whose acquire has observed it. -/
structure LoggedInput where
  num : Nat
  kind : Nat
  srf : Bool
  addr : Nat
  len : Nat
  version : Nat
  counts : List (Nat × Word)
  stamped : Option Nat := none
  deriving DecidableEq, Repr

/-- One gang from its start to its completion (R354 to R364). -/
structure Gang where
  id : Nat := 0
  ctx : Nat := 0
  prio : Nat := 0
  entry : Word := 0
  detm : Detm := {}
  pb0 : Nat := 40
  pb1 : Nat := 72
  pb2 : Nat := 112
  lcpd : Nat := 1
  /-- The logical shape; a gang that has started holds in `pav` what widening left (R107). -/
  shape : List HartShape := []
  srfBase : Nat := 0
  srfLen : Nat := 0
  /-- POSTED of the ring channels (R316), and the posts that have not reached the gang's cores. -/
  ring : Vector Word 16 := Vector.replicate 16 0
  posts : List (Nat × Word) := []
  trees : List Tree := []
  rounds : List Round := []
  /-- RPOSTs and RWAITs done, by 8 · logical hart + tree (R301). -/
  rposts : List (Nat × Nat) := []
  rwaits : List (Nat × Nat) := []
  /-- The completion signal, and the key of the pinned status word with its address (R356, R359). -/
  signal : Option Nat := none
  cstat : Option Nat := none
  cstatVa : Nat := 0
  /-- A TFENCE has dropped the translation of the status word's pin (R93). -/
  cstatStale : Bool := false
  /-- REPLAY and LOG (R342), the records written, the inputs they log, and the records that a replay has applied. -/
  replay : Nat := 0
  log : Word := 0
  logPos : Nat := 0
  inputs : List LoggedInput := []
  replayed : List Nat := []
  /-- Bytes written to the log's data area. -/
  logData : Nat := 0
  boost : Bool := false
  fmin : Nat := 0
  pmax : Nat := 0
  flow : Bool := false
  clip : Bool := false
  /-- When it started among the gangs (R362). -/
  order : Nat := 0
  status : GangStatus := .running
  /-- Off its cores (R363): the harts, and each logical core's task entries, oldest first. -/
  saved : List SavedHart := []
  savedTasks : List (Nat × List Word) := []
  /-- The metadata of each logical core's scratchpad blocks, by block (R338, R339). -/
  savedBlocks : List (Nat × List (Nat × BlockMeta)) := []
  /-- The address of its gang record (R363). -/
  record : Nat := 0
  deriving DecidableEq, Repr

/-- A registered context (R384). -/
structure Context where
  num : Nat
  root : Nat
  tvec : Word
  srfBase : Nat
  srfLen : Nat
  boost : Bool
  pmax : Nat
  fmin : Nat
  tcount : BitVec 32
  save : Nat
  saveSize : Nat
  deriving DecidableEq, Repr

/-- One declared region (R247, R249): its address, gang, home die, rank, value tag and limits; the physical pages of its
pool in order, with the address of the pool; its size in bytes; and whether the tree it started from obeys R251. -/
structure Region where
  addr : Word
  gang : Nat
  ctx : Nat
  home : Nat
  rank : Nat
  vtag : Tag
  lims : List Nat
  pool : Nat
  size : Nat
  pages : List Nat
  sound : Bool
  /-- A TFENCE has dropped the translations of its pins (R93). -/
  stale : Bool := false
  deriving DecidableEq, Repr

/-- One launch queue (R352): its ring of 2^k packets, HEAD, TAIL and the error bit. -/
structure LaunchQueue where
  base : Nat := 0
  k : Nat := 0
  head : Nat := 0
  tail : Nat := 0
  error : Bool := false
  deriving DecidableEq, Repr

/-- One watchpoint (R346). -/
structure Watch where
  base : Word
  len : Nat
  load : Bool
  store : Bool
  fetch : Bool
  deriving DecidableEq, Repr

/-- The breakpoints and watchpoints of one device hart (R346). -/
structure Debug where
  breaks : List Word := []
  watches : List Watch := []
  deriving DecidableEq, Repr

/-- What one-time fuses hold (R380, R382): the digests of the two public keys, the counter, the secret. -/
structure Fuses where
  rsaDigest : Nat := 0
  slhDigest : Nat := 0
  counter : Nat := 0
  secret : Nat := 0
  deriving DecidableEq, Repr

/-- The boot ROM's status (R381). -/
structure Boot where
  stage : Nat := 1
  reason : Nat := 0
  len : Nat := 0
  deriving DecidableEq, Repr

/-- One compute die's thermal state (R370): Thot in °C, since when it throttles, the times of its starts and ends,
newest first, and the arithmetic clock in MHz. -/
structure Die where
  thot : Nat := 95
  throttling : Option Nat := none
  changes : List Nat := []
  clock : Nat := 2250
  deriving DecidableEq, Repr

/-- The power lease (R373): the highest sequence number seen, the cap in W, and when the lease ends. -/
structure Lease where
  seq : Option Nat := none
  cap : Nat := 1800
  ends : Option Nat := none
  deriving DecidableEq, Repr

/-- One probe token (R366): its origin, the queue it names there, the unit it is at, its hops. -/
structure Token where
  origin : Nat
  queue : Nat
  unit : Nat
  hops : Nat
  deriving DecidableEq, Repr

/-- One L2 slice's ways (R369): for each gated way, newest first, the misses and accesses of the window that gated it. -/
structure Slice where
  gated : List (Nat × Nat) := []
  deriving DecidableEq, Repr

/-- What the last access of the host or of a device behind a root port returned (R374, R376). -/
inductive Reply where
  | none
  | data (n : Nat)
  | unsupported
  deriving DecidableEq, Repr

/-- The mailbox (R383): the command and status doublewords, and the command that runs: its doubleword and its buffer. -/
structure Mailbox where
  command : Word := 0
  status : Word := 0
  busy : Option (Word × Word) := none
  deriving DecidableEq, Repr

/-- The device around the harts. -/
structure Dev where
  /-- All memory, by key: sorted, no listed byte zero. -/
  mem : List Host.Cell := []
  /-- The combines that have left their harts and that no slice has applied yet, oldest first (R176). -/
  combines : List PendingCombine := []
  /-- The metadata of 64-byte blocks, by key / 64. -/
  blocks : List (Nat × BlockMeta) := []
  /-- The keys of bytes with an uncorrectable error (R62, R80). -/
  poison : List Nat := []
  /-- The synchronisation registers at their homes, by index; at the mirrors, by 16384 · die + index; and the home's
  broadcasts that have not reached their mirror, oldest first (R306). -/
  srf : List (Nat × SrfReg) := []
  mirrors : List (Nat × SrfReg) := []
  broadcasts : List (Nat × SrfReg) := []
  /-- Broadcasts, ring posts and reduction packets arrive at once: which of the orders R308, R316 and R302 allow takes
  place. -/
  prompt : Bool := true
  /-- The window entries that the mailbox has set (R377). -/
  windows : List Window := []
  /-- The declared regions (R249). -/
  regions : List Region := []
  /-- Whether the host has enabled AtomicOp completion (R67). -/
  hostAtomics : Bool := false
  gangs : List Gang := []
  contexts : List Context := []
  queues : Vector LaunchQueue 64 := Vector.replicate 64 {}
  /-- The gangs a double trap or the supervisor side ends: gang, code, and for a double trap logical hart and cause. -/
  failing : List (Nat × Nat × Nat × Nat) := []
  debug : List (Nat × Debug) := []
  /-- The black-box record, newest first, with the CYCLE of the I/O die (R82, R351). -/
  blackBox : List (Nat × BlackBoxEvent) := []
  boot : Boot := {}
  fuses : Fuses := {}
  /-- The bytes of the boot flash (R380), and of the image that runs (R380, R382). -/
  flash : List Byte := []
  image : List Byte := []
  /-- What the debug agent read out last of a halted hart (R346): offset, size and contents of each part of R96. -/
  readOut : List (Nat × Nat × Nat) := []
  /-- The boot and recovery buffer, BAR 4 (R380). -/
  bar4 : List Host.Cell := []
  mailbox : Mailbox := {}
  /-- GEN of the summary (R385). -/
  commands : Nat := 0
  aperture : Option Nat := none
  etherType : Nat := 0x88B5
  rootPorts : Vector (Option Nat) 4 := Vector.replicate 4 none
  dies : Vector Die 4 := Vector.replicate 4 {}
  lease : Lease := {}
  /-- When the running boost excursion began (R371). -/
  boost : Option Nat := none
  slices : List (Nat × Slice) := []
  tokens : List Token := []
  /-- The translations that the I/O die and the root ports hold, by context (R93, R376). -/
  ioTlb : List (Nat × TlbEntry) := []
  /-- The attic slots in use: queue and the unit whose entry it holds (R366). -/
  attic : List (Nat × Nat) := []
  /-- The Ralba frames received: for each peer and its window, the next sequence number (R378). -/
  received : List (Nat × Nat) := []
  /-- Resources retired, by kind and number: now, and at the next reset (R379). -/
  retired : List (Nat × Nat) := []
  retiring : List (Nat × Nat) := []
  hostReply : Reply := .none
  rootReply : Reply := .none
  /-- Nanoseconds since reset. -/
  now : Nat := 0
  /-- The model's counter of free values drawn. -/
  freeCount : Nat := 0
  /-- The next number for a copy, a gang or another thread. -/
  nextId : Nat := 0
  deriving DecidableEq, Repr

/-- One entry of the agenda: what the machine does at one step. -/
inductive Turn where
  /-- The hart whose turn it is takes its next step. -/
  | hart
  /-- The scalar issue point issues the next instruction behind one that has not completed (R85, R105). -/
  | issue
  /-- An element of the instruction at this place behind the oldest is read ahead of older accesses (R64, R180, R322). -/
  | early (place elem : Nat)
  /-- The hart takes its next step; a scalar access or vector store that it completes retires with its accesses still to be
  performed (R322). -/
  | defer
  /-- The access at this place among those of the hart still to be performed is performed (R322). -/
  | perform (place : Nat)
  /-- The entry at this place of the write-combining buffer merges into an earlier one (R324). -/
  | merge (place : Nat)
  /-- The ERUN or EFRONT that the hart runs performs the piece at this place of its stage (R289, R290, R294). -/
  | edge (place : Nat)
  /-- The copy engine of the core moves one unit of the copy it serves (R331). -/
  | copyUnit (unit : Nat)
  /-- The hart takes a step in which an interruptible instruction stops at unit `n` (R83, R145). -/
  | pauseAt (n : Nat)
  /-- The hart with this number, and its core, come to the front. -/
  | select (uid : Nat)
  /-- A device event takes place. -/
  | event (i : Instr)
  /-- Time passes, in nanoseconds. -/
  | tick (ns : Nat)
  /-- The peer of a window of a context refuses it (R377, STATE 3). -/
  | refuseWindow (ctx num : Nat)
  /-- The entry in a queue's attic slot leaves the queue (R366). -/
  | leaveAttic (queue : Nat)
  /-- A translation that the I/O die holds for a context is dropped (R92, R93). -/
  | evictIo (ctx vpn : Nat)
  /-- The host reads `n` bytes at an offset of a BAR (R374, R375, R380, R381, R383). -/
  | hostRead (bar off n : Nat)
  /-- The host's write to BAR 0 + 0x2008 starts the command that the command doubleword names, and it runs on (R383). -/
  | startCommand (buf : Word)
  /-- The debug agent reads out a halted hart (R346). -/
  | readOut (uid : Nat)
  /-- A throttling die's clock falls by a step (R370). -/
  | throttleStep (die : Nat)
  /-- The hart's cached translation of a page is dropped (R92: caching promises nothing). -/
  | evict (vpn : Nat)
  deriving DecidableEq, Repr

/-- The machine. -/
structure State where
  hart : Hart := {}
  core : Core := {}
  parked : List Hart := []
  cores : List Core := []
  dev : Dev := {}
  agenda : List Turn := []
  /-- Where the next interruptible instruction stops, when the agenda says so. -/
  pause : Option Nat := none
  /-- The accesses of the step are left to be performed later, when the agenda says so (R322). -/
  deferring : Bool := false
  deriving DecidableEq, Repr

/-- Why the machine stops for good. -/
inductive Fault where
  /-- No instruction and no event raises it: the spec describes no fault beyond the traps, which are next states (safe). -/
  | none
  deriving DecidableEq, Repr

/-- Why the model gives no next state. -/
inductive Refusal where
  /-- The instruction has no meaning yet (raised by the dispatch; safe). -/
  | notModelled (mnemonic : String)
  deriving DecidableEq, Repr

/-- The machine right after reset. -/
def State.reset : State := {}

end Sys2Proof.Machine
end

