-- ==== Sys2Proof/Machine/Bits.lean ====
section
/-!
DEFINITION. Bit fields, packed numbers, and the register layouts that software reads and writes as words.
-/

namespace Sys2Proof.Machine

/-- Bits `lo + n - 1` to `lo` of a number. -/
def bits (lo n k : Nat) : Nat := k / 2 ^ lo % 2 ^ n

/-- Bit `i` of a number. -/
def bit (i k : Nat) : Bool := k / 2 ^ i % 2 == 1

/-- The low `n` bits of a number as two's complement. -/
def signed (n k : Nat) : Int :=
  let m := k % 2 ^ n
  if 2 * m < 2 ^ n then (m : Int) else (m : Int) - (2 ^ n : Nat)

/-- An integer modulo 2^n (R5). -/
def wrap (n : Nat) (z : Int) : Nat := (z % ((2 ^ n : Nat) : Int)).toNat

/-- Item `k` of a number made of items of `n` bits. -/
def item (n d k : Nat) : Nat := (d >>> (n * k)) % 2 ^ n

/-- The number with item `k` replaced. -/
def setItem (n d k v : Nat) : Nat := d ^^^ ((item n d k ^^^ v % 2 ^ n) <<< (n * k))

/-- Bit `i` of a mask made the given truth value. -/
def setBit (d i : Nat) (b : Bool) : Nat := setItem 1 d i b.toNat

/-- A mask with bits 0 to n - 1 set. -/
def ones (n : Nat) : Nat := 2 ^ n - 1

/-- Number of one bits among the lowest `n`. -/
def popCount (n k : Nat) : Nat := ((List.range n).filter fun i => k.testBit i).length

/-- The word of a number. -/
abbrev word (k : Nat) : Word := BitVec.ofNat 64 k

/-- The word of an integer. -/
abbrev wordI (z : Int) : Word := BitVec.ofInt 64 z

/-- The truth value as a word. -/
def wordB (b : Bool) : Word := if b then 1 else 0

/-- sext32 of R44. -/
def sext32 (v : Word) : Word := (v.setWidth 32).signExtend 64

/-- A little-endian number of `n` bytes as a list of bytes, lowest address first (R3). -/
def bytesOf : Nat → Nat → List Byte
  | 0, _ => []
  | n + 1, k => BitVec.ofNat 8 k :: bytesOf n (k / 256)

/-- The number of a list of bytes, lowest address first (R3). -/
def ofBytes : List Byte → Nat
  | [] => 0
  | b :: bs => b.toNat + 256 * ofBytes bs

/-- The code of a tag (R120). -/
def tagCode : Tag → Nat
  | .none => 0 | .i8 => 1 | .i16 => 2 | .i32 => 3 | .i64 => 4 | .w8 => 5 | .w16 => 6 | .w32 => 7 | .w64 => 8
  | .f8e4 => 9 | .f8e5 => 10 | .bf16 => 11 | .f16 => 12 | .f32 => 13 | .f64 => 14 | .rn12 => 15 | .rn24 => 16
  | .hb => 17 | .hc => 18

/-- The tag of a code; codes 19 to 31 are reserved (R120). -/
def tagOfCode : Nat → Option Tag
  | 0 => some .none | 1 => some .i8 | 2 => some .i16 | 3 => some .i32 | 4 => some .i64 | 5 => some .w8
  | 6 => some .w16 | 7 => some .w32 | 8 => some .w64 | 9 => some .f8e4 | 10 => some .f8e5 | 11 => some .bf16
  | 12 => some .f16 | 13 => some .f32 | 14 => some .f64 | 15 => some .rn12 | 16 => some .rn24 | 17 => some .hb
  | 18 => some .hc | _ => none

/-- The tag a well-formed instruction's tag field names. -/
def tagField {n : Nat} (t : BitVec n) : Tag := (tagOfCode t.toNat).getD .none

/-- The width of an element in bytes (R120); NONE counts as 8, as SETVL takes it (R149). -/
def tagWidth : Tag → Nat
  | .none => 8 | .i8 => 1 | .i16 => 2 | .i32 => 4 | .i64 => 8 | .w8 => 1 | .w16 => 2 | .w32 => 4 | .w64 => 8
  | .f8e4 => 1 | .f8e5 => 1 | .bf16 => 2 | .f16 => 2 | .f32 => 4 | .f64 => 8 | .rn12 => 2 | .rn24 => 4 | .hb => 4
  | .hc => 1

/-- The classes of tags (R120). -/
inductive TagClass where
  | none | i | w | f | rn | hb | hc
  deriving DecidableEq, Repr

/-- The class of a tag (R120). -/
def tagClass : Tag → TagClass
  | .none => .none
  | .i8 | .i16 | .i32 | .i64 => .i
  | .w8 | .w16 | .w32 | .w64 => .w
  | .f8e4 | .f8e5 | .bf16 | .f16 | .f32 | .f64 => .f
  | .rn12 | .rn24 => .rn
  | .hb => .hb
  | .hc => .hc

/-- The number of a rounding mode (R70). -/
def rmCode : Rm → Nat
  | .rne => 0 | .rtz => 1 | .rup => 2 | .rdn => 3 | .rna => 4

/-- The rounding mode of a number; 5 to 7 name none (R70). -/
def rmOfCode : Nat → Option Rm
  | 0 => some .rne | 1 => some .rtz | 2 => some .rup | 3 => some .rdn | 4 => some .rna | _ => none

/-- The number of an FZ setting (R126). -/
def fzCode : Fz → Nat
  | .keep => 0 | .flushResults => 1 | .flushAll => 2

/-- The FZ setting of a number; 3 names none (R126). -/
def fzOfCode : Nat → Option Fz
  | 0 => some .keep | 1 => some .flushResults | 2 => some .flushAll | _ => none

/-- VTYPE as the word software reads (R126). -/
def VType.pack (t : VType) : Nat :=
  tagCode t.etag + rmCode t.rm * 2 ^ 5 + fzCode t.fz * 2 ^ 9 + t.sat.toNat * 2 ^ 11 + t.tail.toNat * 2 ^ 12
    + t.flags.toNat * 2 ^ 16 + t.rninv.toNat * 2 ^ 21 + t.satf.toNat * 2 ^ 22

/-- The VTYPE of a word, reserved bits ignored; none when a field holds a value R126 does not allow. -/
def VType.unpack (k : Nat) : Option VType :=
  match tagOfCode (bits 0 5 k), rmOfCode (bits 5 3 k), fzOfCode (bits 9 2 k) with
  | some t, some r, some f =>
    some { etag := t, rm := r, fz := f, sat := bit 11 k, tail := bit 12 k, flags := BitVec.ofNat 5 (k / 2 ^ 16),
           rninv := bit 21 k, satf := bit 22 k }
  | _, _, _ => none

/-- FCSR as a word (R70). -/
def Fcsr.pack (f : Fcsr) : Nat := f.flags.toNat + rmCode f.rm * 2 ^ 5

/-- The FCSR of a word; none for RM 5 to 7 (R70). -/
def Fcsr.unpack (k : Nat) : Option Fcsr :=
  (rmOfCode (bits 5 3 k)).map fun r => { rm := r, flags := BitVec.ofNat 5 k }

/-- The number of a privilege level (R78). -/
def privCode : Priv → Nat
  | .u => 0 | .s => 1

/-- The privilege level of a bit (R78). -/
def privOfBit (b : Bool) : Priv := if b then .s else .u

/-- TSTATUS as a word (R78). -/
def TStatus.pack (t : TStatus) : Nat :=
  t.slact.toNat + privCode t.pprv * 2 ^ 2 + t.ie.toNat * 2 ^ 3 + t.pie.toNat * 2 ^ 4 + t.eip.toNat * 2 ^ 5
    + t.ctxv.toNat * 2 ^ 6 + t.tpend.toNat * 2 ^ 8 + t.ppend.toNat * 2 ^ 9 + t.hpend.toNat * 2 ^ 10
    + t.tcount.toNat * 2 ^ 32

/-- A software write of TSTATUS: the pending bits are read only and keep their value (R78). -/
def TStatus.write (t : TStatus) (k : Nat) : TStatus :=
  { t with slact := BitVec.ofNat 2 k, pprv := privOfBit (bit 2 k), ie := bit 3 k, pie := bit 4 k, eip := bit 5 k,
           ctxv := bit 6 k, tcount := BitVec.ofNat 32 (k / 2 ^ 32) }

/-- DETM as a word (R334). -/
def Detm.pack (d : Detm) : Nat :=
  d.arb.toNat + d.drain.toNat * 2 + d.atom.toNat * 4 + d.convoy.toNat * 8 + d.pull.toNat * 16

/-- The DETM of a word (R334). -/
def Detm.unpack (k : Nat) : Detm :=
  { arb := bit 0 k, drain := bit 1 k, atom := bit 2 k, convoy := bit 3 k, pull := bit 4 k }

/-- TAINT as a word (R340). -/
def TaintBits.pack (t : TaintBits) : Nat :=
  t.seen.toNat + t.atom.toNat * 2 + t.combine.toNat * 4 + t.race.toNat * 8 + t.escape.toNat * 16 + t.read.toNat * 32

/-- The TAINT of a word (R340). -/
def TaintBits.unpack (k : Nat) : TaintBits :=
  { seen := bit 0 k, atom := bit 1 k, combine := bit 2 k, race := bit 3 k, escape := bit 4 k, read := bit 5 k }

/-- TSHAPE as a word (R203). -/
def Matrix.shape (m : Matrix) : Nat := m.m + m.n * 2 ^ 16 + m.k * 2 ^ 32

/-- HARTID (R104). -/
def Ident.hartid (i : Ident) : Nat := i.lhart % 256 + i.slot % 8 * 2 ^ 8

/-- COREID (R104). -/
def Ident.coreid (i : Ident) : Nat := i.core % 32 + i.lcore % 256 * 2 ^ 8

/-- DIEID (R104). -/
def Ident.dieid (i : Ident) : Nat := i.die % 4 + i.ldie % 4 * 2 ^ 8

/-- The code of a cause (R80). -/
def causeCode : Cause → Nat
  | .illegal => 0x01 | .tagMismatch => 0x02 | .misaligned => 0x03 | .pageFaultLd => 0x04 | .pageFaultSt => 0x05
  | .pageFaultFetch => 0x06 | .access => 0x07 | .remoteLink => 0x08 | .determ => 0x09 | .spxhaust => 0x0A
  | .stream => 0x0B | .matrix => 0x0C | .ecall => 0x0D | .ebreak => 0x0E | .poison => 0x10 | .watch => 0x11
  | .preempt => 0x20 | .timer => 0x21 | .hostmsg => 0x22

/-- The scope a well-formed field names (R37). -/
def scopeOf {n : Nat} (s : BitVec n) : Scope :=
  match s.toNat with
  | 0 => .hart | 1 => .core | 2 => .die | 3 => .device | _ => .system

/-- The scope of an SY form (R37). -/
def syScopeOf (s : BitVec 2) : Scope :=
  match s.toNat with
  | 0 => .die | 1 => .device | _ => .system

/-- An order of the atomics (R37): does it acquire? -/
def orderAcquires (o : BitVec 2) : Bool := o == 1 || o == 3

/-- An order of the atomics (R37): does it release? -/
def orderReleases (o : BitVec 2) : Bool := o == 2 || o == 3

end Sys2Proof.Machine
end

