-- ==== Sys2Proof/Machine/Mem.lean ====
section
/-!
DEFINITION. Memory in its canonical form, the numbering of every byte the device can reach, and the block metadata.
-/

namespace Sys2Proof.Machine

/-- What a sparse list holds at a key; an unlisted key holds the default. -/
def sparseGet {α : Type} (dflt : α) : List (Nat × α) → Nat → α
  | [], _ => dflt
  | (a, v) :: t, k => if k = a then v else sparseGet dflt t k

/-- A sparse list with one key changed; keys stay rising and no entry equals the default. -/
def sparseSet {α : Type} [DecidableEq α] (dflt : α) : List (Nat × α) → Nat → α → List (Nat × α)
  | [], k, v => if v = dflt then [] else [(k, v)]
  | (a, u) :: t, k, v =>
    if k < a then (if v = dflt then (a, u) :: t else (k, v) :: (a, u) :: t)
    else if k = a then (if v = dflt then t else (k, v) :: t)
    else (a, u) :: sparseSet dflt t k v

/-- Keys rise strictly from at least `lo` on and no entry equals the default. -/
def sparseWf {α : Type} [DecidableEq α] (dflt : α) : Nat → List (Nat × α) → Bool
  | _, [] => true
  | lo, (a, v) :: t => decide (lo ≤ a) && decide (v ≠ dflt) && sparseWf dflt (a + 1) t

/-- What a byte reads as that nothing has written: zero (a DESIGN CHOICE: the spec gives memory no value at power-on). -/
def Memory.unwritten : Byte := 0

/-- The byte of memory at a key. -/
def Memory.read (m : List Host.Cell) (k : Nat) : Byte := sparseGet Memory.unwritten m k

/-- Memory with the byte at a key replaced. -/
def Memory.write (m : List Host.Cell) (k : Nat) (b : Byte) : List Host.Cell := sparseSet Memory.unwritten m k b

/-- The canonical form of memory. -/
def Memory.wf (m : List Host.Cell) : Bool := sparseWf Memory.unwritten 0 m

/-- Bytes from a key upward. -/
def Memory.readN (m : List Host.Cell) : Nat → Nat → List Byte
  | _, 0 => []
  | k, n + 1 => Memory.read m k :: Memory.readN m (k + 1) n

/-- Memory with bytes from a key upward replaced. -/
def Memory.writeN (m : List Host.Cell) : Nat → List Byte → List Host.Cell
  | _, [] => m
  | k, b :: bs => Memory.writeN (Memory.write m k b) (k + 1) bs

/-! The key of a byte: device memory by its physical address, then host memory, the scratchpads and the peers' memories,
each in a range of its own. -/

/-- The key of a byte of device memory (56-bit physical address, R88). -/
def deviceKey (pa : Nat) : Nat := pa % 2 ^ 56

/-- The key of a byte of host memory. -/
def hostKey (pa : Nat) : Nat := 2 ^ 56 + pa % 2 ^ 56

/-- The key of a byte of a core's scratchpad. -/
def scratchKey (core off : Nat) : Nat := 2 ^ 58 + core % 2 ^ 16 * 2 ^ 32 + off % 2 ^ 32

/-- The key of a byte of a peer's memory, in the peer's context (R377). -/
def remoteKey (peer peerCtx addr : Nat) : Nat := addr % 2 ^ 64 + 2 ^ 64 * (1 + peer % 2 ^ 64 + 2 ^ 64 * peerCtx)

/-- The key lies in device memory. -/
def isDeviceKey (k : Nat) : Bool := k < 2 ^ 56

/-- The key lies in host memory. -/
def isHostKey (k : Nat) : Bool := 2 ^ 56 ≤ k && k < 2 ^ 57

/-- The key lies in a scratchpad. -/
def isScratchKey (k : Nat) : Bool := 2 ^ 58 ≤ k && k < 2 ^ 59

/-- The key lies in a peer's memory. -/
def isRemoteKey (k : Nat) : Bool := 2 ^ 64 ≤ k

/-- Does the range of `n` bytes from `a` overlap the range of `m` bytes from `b`? -/
def overlaps (a n b m : Nat) : Bool := a < b + m && b < a + n

/-- The metadata of the block that holds a key (R339). -/
def Dev.block (d : Dev) (key : Nat) : BlockMeta := sparseGet {} d.blocks (key / 64)

/-- Is the 64-byte block of the key tainted? Host memory carries no taint (R339). -/
def Dev.blockTainted (d : Dev) (key : Nat) : Bool := !isHostKey key && (d.block key).tainted

/-- Does some byte of a range lie in a tainted block? -/
def Dev.rangeTainted (d : Dev) (key n : Nat) : Bool := d.blockTainted key || d.blockTainted (key + (n - 1))

/-- What a write records beside its bytes (R337 to R339): whether its data are tainted or an inexact combine's, who wrote it
by a vector store or that a scalar store did, the store instruction or copy that it is part of, and the epochs ordered before it. -/
structure WriteMeta where
  tainted : Bool := false
  writer : Option (Nat × Nat × Word) := none
  scalar : Bool := false
  whole : Option Nat := none
  after : List (Nat × Nat) := []
  deriving DecidableEq, Repr

/-- Does a vector store race on the block (R338)? Not when a SYBAR has ordered it after the write that the block records. -/
def BlockMeta.races (b : BlockMeta) (m : WriteMeta) : Bool :=
  match b.writer, m.writer with
  | some (g, h, e), some (g', h', e') => g == g' && e == e' && h != h' && sparseGet 0 m.after h ≤ e.toNat
  | _, _ => false

/-- The bytes of the block that the write covers, with those that the same instruction's clean writes covered before, if
nothing else has written the block since (R339). -/
def BlockMeta.covered (b : BlockMeta) (whole : Option Nat) (mask : Nat) : Nat :=
  match whole, b.piece with
  | some w, some (v, k) => if w = v then mask ||| k else mask
  | _, _ => mask

/-- The block's metadata after a write of the bytes in `mask` (R338, R339): a vector store sets the record of the last one and
a scalar store removes it; an instruction whose clean writes cover the block clears its bit. -/
def BlockMeta.after (b : BlockMeta) (m : WriteMeta) (mask : Nat) : BlockMeta :=
  let dirty := m.tainted || b.races m
  let cover := b.covered m.whole mask
  let tainted := dirty || (b.tainted && cover != ones 64)
  { tainted := tainted
    writer := if m.scalar then none else m.writer.or b.writer
    piece := if tainted && !dirty then m.whole.map fun w => (w, cover) else none }

/-- A write of at most 64 bytes inside one block, applied at the coherence point: bytes, error marks and metadata. -/
def Dev.write (d : Dev) (key : Nat) (bs : List Byte) (m : WriteMeta) : Dev :=
  { d with
    mem := Memory.writeN d.mem key bs
    poison := d.poison.filter fun k => !(key ≤ k && k < key + bs.length)
    blocks := if isHostKey key then d.blocks
              else sparseSet {} d.blocks (key / 64) ((d.block key).after m (ones bs.length * 2 ^ (key % 64))) }

/-- The number read from `n` bytes at the coherence point. -/
def Dev.read (d : Dev) (key n : Nat) : Nat := ofBytes (Memory.readN d.mem key n)

/-- Does some byte of the range hold an uncorrectable error (R62)? Its key. -/
def Dev.poisoned (d : Dev) (key n : Nat) : Option Nat := d.poison.find? fun k => key ≤ k && k < key + n

/-- The breakpoints and watchpoints of a device hart (R346). -/
def Dev.debugOf (d : Dev) (uid : Nat) : Debug := sparseGet {} d.debug uid

end Sys2Proof.Machine
end

