-- ==== Sys2Proof/Machine/Ops.lean ====
section
/-!
DEFINITION. The shared operations: registers, retirement with the loop step, taking a trap and returning from one, and
the frame of a meaning that may trap or wait.
-/

namespace Sys2Proof.Machine

/-! ### Registers -/

/-- X[r] (R5, R33): x0 reads as zero. -/
def State.x (s : State) (r : BitVec 5) : Word :=
  if r = 0 then 0 else s.hart.x[r.toNat]'(by simpa using r.isLt)

/-- X[r] ← v (R5): a write of x0 is discarded. -/
def State.setX (s : State) (r : BitVec 5) (v : Word) : State :=
  if r = 0 then s else { s with hart := { s.hart with x := s.hart.x.set r.toNat v (by simpa using r.isLt) } }

/-- The vector register v[r]. -/
def State.v (s : State) (r : BitVec 6) : VReg := s.hart.v[r.toNat]'(by simpa using r.isLt)

/-- The vector register replaced. -/
def State.setV (s : State) (r : BitVec 6) (w : VReg) : State :=
  { s with hart := { s.hart with v := s.hart.v.set r.toNat w (by simpa using r.isLt) } }

/-- The bits of predicate p[r] below `n`; p0 is all ones (R33, R96). -/
def State.p (s : State) (r : BitVec 4) (n : Nat) : Nat :=
  if r = 0 then ones n else s.hart.p[r.toNat]'(by simpa using r.isLt) % 2 ^ n

/-- p[r] replaced; a write of p0 is discarded (R158, R160). -/
def State.setP (s : State) (r : BitVec 4) (m : Nat) : State :=
  if r = 0 then s else { s with hart := { s.hart with p := s.hart.p.set r.toNat m (by simpa using r.isLt) } }

/-- RB: bytes of one vector register of the hart (R96, R108). -/
def State.rb (s : State) : Nat := if s.hart.mat.mvl = 0 then s.hart.rb0 else 32 * s.hart.mat.mvl

/-- The running kernel's scratchpad size in bytes (R63). -/
def Core.scratchSize (c : Core) : Nat := (c.pb1 - c.pb0) * 65536

/-- The vector control registers replaced. -/
def State.setVec (s : State) (c : VecCtl) : State := { s with hart := { s.hart with vec := c } }

/-- VTYPE replaced. -/
def State.setVType (s : State) (t : VType) : State := s.setVec { s.hart.vec with vtype := t }

/-- VSTART replaced. -/
def State.setVstart (s : State) (n : Nat) : State := s.setVec { s.hart.vec with vstart := n }

/-- The trap registers replaced. -/
def State.setTrap (s : State) (t : TrapRegs) : State := { s with hart := { s.hart with trap := t } }

/-- The loop registers replaced. -/
def State.setLoops (s : State) (l : Loops) : State := { s with hart := { s.hart with loops := l } }

/-- The matrix side replaced. -/
def State.setMat (s : State) (m : Matrix) : State := { s with hart := { s.hart with mat := m } }

/-- TAINT replaced. -/
def State.setTaint (s : State) (t : TaintBits) : State := { s with hart := { s.hart with taint := t } }

/-- A fresh free value below `bound`, and the state with the counter advanced. -/
def State.free (s : State) (bound : Nat) : Nat × State :=
  (Config.free s.dev.freeCount % bound, { s with dev := { s.dev with freeCount := s.dev.freeCount + 1 } })

/-! ### Retirement -/

/-- The timer at the retirement of an instruction in U (R79). -/
def TStatus.tick (t : TStatus) : TStatus :=
  if t.tcount = 0 then t
  else if t.tcount = 1 then { t with tcount := 0, tpend := true }
  else { t with tcount := t.tcount - 1 }

/-- What the retirement of one instruction counts (R10, R41, R79, R342), by the privilege it issued at. -/
def Hart.count (h : Hart) (p : Priv) (clocks : Nat) : Hart :=
  let c := { h.counts with instret := h.counts.instret + 1, cycle := h.counts.cycle + word clocks }
  match p with
  | .s => { h with counts := c, stopped := false, passed := false, held := none, kept := none, early := [], pinned := none
                   edgeRun := none }
  | .u => { h with counts := { c with ucount := c.ucount + 1 }, stopped := false, passed := false, held := none
                   kept := none, early := [], pinned := none, edgeRun := none
                   trap := { h.trap with status := h.trap.status.tick } }

/-- The counting of one retirement; CYCLE advances by a number the model does not fix (R43). -/
def State.count (s : State) (p : Priv) : State :=
  { s with hart := s.hart.count p (Config.clocks s.dev.freeCount)
           dev := { s.dev with freeCount := s.dev.freeCount + 1 } }

/-- One loop's part of the loop step (R56): the registers after it, and whether the body repeats. -/
def Loops.stepOne (l : Loops) (k : Bool) (a : Word) : Loops × Bool :=
  if k then
    if l.lact.getLsbD 1 && a == l.le1 then
      if l.lc1.toNat ≤ 1 then ({ l with lc1 := 0, lact := l.lact &&& 1#2 }, false) else ({ l with lc1 := l.lc1 - 1 }, true)
    else (l, false)
  else
    if l.lact.getLsbD 0 && a == l.le0 then
      if l.lc0.toNat ≤ 1 then ({ l with lc0 := 0, lact := l.lact &&& 2#2 }, false) else ({ l with lc0 := l.lc0 - 1 }, true)
    else (l, false)

/-- The begin address of a loop. -/
def Loops.lb (l : Loops) (k : Bool) : Word := if k then l.lb1 else l.lb0

/-- The loop step of R56 after the instruction at `a`: the greater lb first, loop 1 first when they are equal; the
registers after it, and the body to go back to. -/
def Loops.step (l : Loops) (a : Word) : Loops × Option Word :=
  let k := decide (l.lb0.toNat ≤ l.lb1.toNat)
  match l.stepOne k a with
  | (l', true) => (l', some (l.lb k))
  | (l', false) =>
    match l'.stepOne (!k) a with
    | (l'', true) => (l'', some (l.lb !k))
    | (l'', false) => (l'', none)

/-- The instruction at pc retires and leaves pc at its sequential successor: the count and the loop step (R10, R56). -/
def State.advance (size : Nat) (s : State) : State :=
  let a := s.hart.pc
  let c := s.count s.hart.priv
  match s.hart.loops.step a with
  | (l, some b) => { c with hart := { c.hart with pc := b, loops := l, fetchPin := none } }
  | (l, none) => { c with hart := { c.hart with pc := a + word size, loops := l } }

/-- The instruction at pc retires with a transfer of control: no loop step (R56), and a new fetch block (R94). -/
def State.transfer (target : Word) (s : State) : State :=
  let c := s.count s.hart.priv
  { c with hart := { c.hart with pc := target, fetchPin := none } }

/-! ### Traps -/

/-- TINFO2 of a frame (R87). -/
def Frame.info2 (f : Frame) : Word :=
  word (f.acc * 2 ^ 16 + f.ixreg * 2 ^ 18 + f.size * 2 ^ 24 + f.kind * 2 ^ 28 + f.remain % 2 ^ 32 * 2 ^ 32)

/-- What TINFO0 to TINFO3 become at a trap (R80): zero, a frame, four given words, or unchanged. -/
inductive TrapInfo where
  | zero
  | frame (f : Frame)
  | words (a b c d : Word)
  | keep
  deriving DecidableEq, Repr

/-- A trap: cause, TVAL, element, TINFO (R80). -/
structure Trap where
  cause : Cause
  val : Word := 0
  elem : Nat := 0
  info : TrapInfo := .zero
  deriving DecidableEq, Repr

/-- TINFO0 to TINFO3 as the cause writes them (R80). -/
def TrapRegs.setInfo (t : TrapRegs) : TrapInfo → TrapRegs
  | .zero => { t with tinfo0 := 0, tinfo1 := 0, tinfo2 := 0, tinfo3 := 0 }
  | .frame f => { t with tinfo0 := f.base, tinfo1 := f.stride, tinfo2 := f.info2, tinfo3 := f.info3 }
  | .words a b c d => { t with tinfo0 := a, tinfo1 := b, tinfo2 := c, tinfo3 := d }
  | .keep => t

/-- TSTATUS at trap entry (R81): SLACT, PPRV, PIE and IE, EIP, and the pending bit of an interrupt that is taken. -/
def TStatus.enter (t : TStatus) (code : Nat) (lact : BitVec 2) (p : Priv) : TStatus :=
  { t with
    slact := lact, pprv := p, pie := t.ie, ie := false, eip := true
    ppend := t.ppend && code != 0x20
    tpend := t.tpend && code != 0x21
    hpend := t.hpend && code != 0x22 }

/-- Failed fetches are forgotten: the stream thread makes them again after TRET, also those it has made meanwhile (R192). -/
def Binding.refetch (b : Binding) : Binding := { b with buffer := b.buffer.filter fun x => x.failure.isNone }

/-- Trap entry (R81), in one step, at the position (pc, elem). -/
def Hart.trapEntry (h : Hart) (t : Trap) (pc : Word) : Hart :=
  { h with
    trap := { h.trap.setInfo t.info with
      cause := BitVec.ofNat 8 (causeCode t.cause)
      tpc := pc
      tval := t.val
      tstart := t.elem
      tvtype := word h.vec.vtype.pack
      status := h.trap.status.enter (causeCode t.cause) h.loops.lact h.priv }
    vec := { h.vec with vstart := 0 }
    loops := { h.loops with lact := 0 }
    priv := .s
    pc := h.trap.tvec
    fetchPin := none
    tfencing := false
    inWfi := false
    passed := false
    stopped := false
    held := none
    kept := none
    early := []
    pinned := none
    edgeRun := none
    streams := h.streams.map fun b => b.map Binding.refetch }

/-! ### Discarding what has issued ahead -/

/-- A change of the hart with a number, wherever it stands. -/
def State.mapHart (s : State) (uid : Nat) (f : Hart → Hart) : State :=
  if s.hart.ident.uid = uid then { s with hart := f s.hart }
  else { s with parked := s.parked.map fun h => if h.ident.uid = uid then f h else h }

/-- The hart that stands on the slot with a number. -/
def State.findSlot (s : State) (uid : Nat) : Option Hart :=
  if s.hart.ident.uid = uid then some s.hart else s.parked.find? fun h => h.ident.uid = uid

/-- A change of every hart. -/
def State.mapHarts (s : State) (f : Hart → Hart) : State := { s with hart := f s.hart, parked := s.parked.map f }

/-- What stays of an entry when the provisional stores of its hart are discarded (R85): all of a retired store's, or what stood
before they merged into it. -/
def WcbEntry.keepRetired (e : WcbEntry) : Option WcbEntry :=
  if e.prov.isNone then some e
  else (e.under.find? fun l => l.prov.isNone).map fun l =>
    { e with prov := none, key := l.key, bytes := l.bytes, gap := l.gap, tainted := l.tainted, under := [] }

/-- Everything that a hart of the core has issued beyond its oldest instruction is discarded, with its provisional stores
(R85, R322). -/
def State.squash (s : State) (uid : Nat) : State :=
  let s := s.mapHart uid fun h => { h with ahead := none }
  { s with core := { s.core with wcb := s.core.wcb.filterMap fun e => if e.hart = uid then e.keepRetired else some e } }

/-- The instructions that have issued and not completed, oldest first, when some wait (R85, R105). -/
def Hart.issued (h : Hart) : List Instr :=
  match h.ahead with
  | none => []
  | some a => h.held.toList ++ a.queue.map Queued.instr

/-- What the hart at the front has issued ahead is discarded (R85). -/
def State.discard (s : State) : State := if s.hart.ahead.isNone then s else s.squash s.hart.ident.uid

/-- The black box records an event with the I/O die's CYCLE (R351): it keeps the last 4,096. -/
def Dev.record (d : Dev) (e : BlackBoxEvent) : Dev :=
  { d with blackBox := ((Config.ioCycle d.now, e) :: d.blackBox).take 4096 }

/-- A double trap (R82): the hart stops with its registers as they stand, the black box records it, and the gang is to
complete with error 0x04 (R359). -/
def State.doubleTrap (s : State) (t : Trap) : State :=
  { s with
    hart := { s.hart with status := .stopped, fetchPin := none }
    dev := { s.dev.record (.doubleTrap s.hart.ident.uid s.hart.trap.cause s.hart.trap.tpc (causeCode t.cause)) with
      failing := s.dev.failing ++ [(s.hart.ident.gang, 0x04, s.hart.ident.lhart, causeCode t.cause)] } }

/-- The black box records the uncorrected memory error that a POISON trap reports (R351). -/
def State.noteError (s : State) (c : Cause) : State :=
  if c = .poison then { s with dev := s.dev.record (.memoryError s.hart.ident.uid) } else s

/-- Taking a synchronous trap at the instruction at pc (R81, R82, R85). -/
def State.takeTrap (s : State) (t : Trap) : State :=
  let s := (s.noteError t.cause).discard
  if s.hart.trap.status.eip then s.doubleTrap t else { s with hart := s.hart.trapEntry t s.hart.pc }

/-- The return of TRET from the trap registers (R84), without a context image: pc, VTYPE, VSTART, LACT, privilege and
TSTATUS. A TVTYPE that no VTYPE has packed leaves VTYPE to a free value. An instruction resumed inside is still at the
position TSTART if an interrupt comes before it issues (R86). A load that had stopped elsewhere is given up. -/
def Hart.trapReturn (h : Hart) (odd : VType) : Hart :=
  { h with
    pc := h.trap.tpc
    vec := { h.vec with vtype := (VType.unpack h.trap.tvtype.toNat).getD odd, vstart := h.trap.tstart }
    loops := { h.loops with lact := h.trap.status.slact }
    priv := h.trap.status.pprv
    trap := { h.trap with status := { h.trap.status with ie := h.trap.status.pie, eip := false } }
    stopped := h.trap.tstart != 0
    fetchPin := none
    reload := h.reload.filter fun r => r.1 == h.trap.tpc || r.2 != h.trap.status.pprv
    streams := h.streams.map fun b => b.map Binding.refetch }

/-! ### Meanings that may trap or wait -/

/-- Why an instruction ends before it completes. -/
inductive Why where
  /-- It traps. -/
  | trap (t : Trap)
  /-- It waits, or has stopped at a boundary inside: pc stays. -/
  | wait
  /-- The model gives no next state. -/
  | refuse (r : Refusal)
  deriving DecidableEq, Repr

/-- A computation over the state that may end early, with the state as it then stands. -/
abbrev M := StateT State (Except (State × Why))

/-- The computation ends here. -/
def endNow {α : Type} (w : Why) : M α := fun s => .error (s, w)

/-- The instruction traps. -/
def trapNow {α : Type} (t : Trap) : M α := endNow (.trap t)

/-- The instruction traps unless the condition holds. -/
def need (b : Bool) (t : Trap) : M Unit := if b then pure () else trapNow t

/-- The instruction waits: it releases its fetch pin (R94) and runs again at its own address. -/
def waitHere {α : Type} : M α := fun s => .error ({ s with hart := { s.hart with fetchPin := none } }, .wait)

/-- The outcome of an instruction that ended early. -/
def State.endEarly (s : State) : Why → Host.Outcome State Fault Refusal
  | .trap t => .next (s.takeTrap t)
  | .wait => .next s
  | .refuse r => .refused r

/-- Runs a computation, then what completes the instruction. -/
def complete (m : M Unit) (k : State → State) (s : State) : Host.Outcome State Fault Refusal :=
  match m s with
  | .ok ((), s') => .next (k s')
  | .error (s', w) => s'.endEarly w

/-- A meaning of a 32-bit instruction that retires sequentially. -/
def complete4 (m : M Unit) (s : State) : Host.Outcome State Fault Refusal := complete m (State.advance 4) s

/-- A meaning of a long form that retires sequentially. -/
def complete8 (m : M Unit) (s : State) : Host.Outcome State Fault Refusal := complete m (State.advance 8) s

end Sys2Proof.Machine
end

