-- ==== Sys2Proof/Machine/Alu.lean ====
section
/-!
DEFINITION. Integer arithmetic and logic (R45 to R48).
-/

namespace Sys2Proof.Machine

/-- The outcome of an instruction. -/
abbrev Res := Host.Outcome State Fault Refusal

/-- X[D] takes a value and the instruction retires (R44). -/
def result4 (d : BitVec 5) (v : Word) (s : State) : Res := .next ((s.setX d v).advance 4)

/-- Number of zero bits above the highest one bit of the low `n` bits (R45). -/
def clzN (v : Word) : Nat → Nat
  | 0 => 0
  | n + 1 => if v.getLsbD n then 0 else clzN v n + 1

/-- Number of zero bits below the lowest one bit, counting from bit `64 - n` (R45). -/
def ctzN (v : Word) : Nat → Nat
  | 0 => 0
  | n + 1 => if v.getLsbD (63 - n) then 0 else ctzN v n + 1

/-- An I-format immediate (R34). -/
def immI (i : BitVec 15) : Word := i.signExtend 64

/-- A U-format immediate: bits [31:12] of a 32-bit value, sign-extended (R34). -/
def immU (i : BitVec 20) : Word := (i ++ 0#12 : BitVec 32).signExtend 64

/-- The smaller of two words, signed. -/
def minS (a b : Word) : Word := if a.slt b then a else b

/-- The larger of two words, signed. -/
def maxS (a b : Word) : Word := if a.slt b then b else a

/-- The smaller of two words, unsigned. -/
def minU (a b : Word) : Word := if a.ult b then a else b

/-- The larger of two words, unsigned. -/
def maxU (a b : Word) : Word := if a.ult b then b else a

/-- ADD (R45). -/
def execAdd (d a b : BitVec 5) (s : State) : Res := result4 d (s.x a + s.x b) s

/-- SUB (R45). -/
def execSub (d a b : BitVec 5) (s : State) : Res := result4 d (s.x a - s.x b) s

/-- AND (R45). -/
def execAnd (d a b : BitVec 5) (s : State) : Res := result4 d (s.x a &&& s.x b) s

/-- OR (R45). -/
def execOr (d a b : BitVec 5) (s : State) : Res := result4 d (s.x a ||| s.x b) s

/-- XOR (R45). -/
def execXor (d a b : BitVec 5) (s : State) : Res := result4 d (s.x a ^^^ s.x b) s

/-- SLL (R45). -/
def execSll (d a b : BitVec 5) (s : State) : Res := result4 d (s.x a <<< ((s.x b).toNat % 64)) s

/-- SRL (R45). -/
def execSrl (d a b : BitVec 5) (s : State) : Res := result4 d (s.x a >>> ((s.x b).toNat % 64)) s

/-- SRA (R45). -/
def execSra (d a b : BitVec 5) (s : State) : Res := result4 d ((s.x a).sshiftRight ((s.x b).toNat % 64)) s

/-- SLT (R45). -/
def execSlt (d a b : BitVec 5) (s : State) : Res := result4 d (wordB ((s.x a).slt (s.x b))) s

/-- SLTU (R45). -/
def execSltu (d a b : BitVec 5) (s : State) : Res := result4 d (wordB ((s.x a).ult (s.x b))) s

/-- MIN (R45). -/
def execMin (d a b : BitVec 5) (s : State) : Res := result4 d (minS (s.x a) (s.x b)) s

/-- MAX (R45). -/
def execMax (d a b : BitVec 5) (s : State) : Res := result4 d (maxS (s.x a) (s.x b)) s

/-- MINU (R45). -/
def execMinu (d a b : BitVec 5) (s : State) : Res := result4 d (minU (s.x a) (s.x b)) s

/-- MAXU (R45). -/
def execMaxu (d a b : BitVec 5) (s : State) : Res := result4 d (maxU (s.x a) (s.x b)) s

/-- ANDN (R45). -/
def execAndn (d a b : BitVec 5) (s : State) : Res := result4 d (s.x a &&& ~~~(s.x b)) s

/-- ORN (R45). -/
def execOrn (d a b : BitVec 5) (s : State) : Res := result4 d (s.x a ||| ~~~(s.x b)) s

/-- ADDW (R45). -/
def execAddw (d a b : BitVec 5) (s : State) : Res := result4 d (sext32 (s.x a + s.x b)) s

/-- SUBW (R45). -/
def execSubw (d a b : BitVec 5) (s : State) : Res := result4 d (sext32 (s.x a - s.x b)) s

/-- CLZ (R45). -/
def execClz (d a : BitVec 5) (s : State) : Res := result4 d (word (clzN (s.x a) 64)) s

/-- CTZ (R45). -/
def execCtz (d a : BitVec 5) (s : State) : Res := result4 d (word (ctzN (s.x a) 64)) s

/-- POPC (R45). -/
def execPopc (d a : BitVec 5) (s : State) : Res := result4 d (word (popCount 64 (s.x a).toNat)) s

/-- SEXTW (R45). -/
def execSextw (d a : BitVec 5) (s : State) : Res := result4 d (sext32 (s.x a)) s

/-- ADDI (R46). -/
def execAddi (d a : BitVec 5) (i : BitVec 15) (s : State) : Res := result4 d (s.x a + immI i) s

/-- ANDI (R46). -/
def execAndi (d a : BitVec 5) (i : BitVec 15) (s : State) : Res := result4 d (s.x a &&& immI i) s

/-- ORI (R46). -/
def execOri (d a : BitVec 5) (i : BitVec 15) (s : State) : Res := result4 d (s.x a ||| immI i) s

/-- XORI (R46). -/
def execXori (d a : BitVec 5) (i : BitVec 15) (s : State) : Res := result4 d (s.x a ^^^ immI i) s

/-- SLTI (R46). -/
def execSlti (d a : BitVec 5) (i : BitVec 15) (s : State) : Res := result4 d (wordB ((s.x a).slt (immI i))) s

/-- SLTIU (R46). -/
def execSltiu (d a : BitVec 5) (i : BitVec 15) (s : State) : Res := result4 d (wordB ((s.x a).ult (immI i))) s

/-- SLLI (R47). -/
def execSlli (d a : BitVec 5) (n : BitVec 6) (s : State) : Res := result4 d (s.x a <<< n.toNat) s

/-- SRLI (R47). -/
def execSrli (d a : BitVec 5) (n : BitVec 6) (s : State) : Res := result4 d (s.x a >>> n.toNat) s

/-- SRAI (R47). -/
def execSrai (d a : BitVec 5) (n : BitVec 6) (s : State) : Res := result4 d ((s.x a).sshiftRight n.toNat) s

/-- LUI (R48). -/
def execLui (d : BitVec 5) (i : BitVec 20) (s : State) : Res := result4 d (immU i) s

/-- AUIPC (R48). -/
def execAuipc (d : BitVec 5) (i : BitVec 20) (s : State) : Res := result4 d (s.hart.pc + immU i) s

/-- LI (R37): the 32-bit value, sign-extended for extension 0 and zero-extended for 1. -/
def execLi (d : BitVec 5) (ext : BitVec 1) (imm : BitVec 32) (s : State) : Res :=
  .next ((s.setX d (if ext = 0 then imm.signExtend 64 else imm.setWidth 64)).advance 8)

end Sys2Proof.Machine
end

