-- ==== Sys2Proof/Machine/Fields.lean ====
section
/-!
DEFINITION. What an instruction's fields name: the x registers it reads or writes (R33, R65) and the functional pipes
that execute it (R348, R350). Which pipes execute an instruction the spec does not say in full: the model's choice, which
only trace records show.
-/

namespace Sys2Proof

/-- The even register of a field that names a pair (R260, R271). -/
def even (r : BitVec 4) : BitVec 5 := r ++ 0#1

/-- The odd register of a field that names a pair. -/
def odd (r : BitVec 4) : BitVec 5 := r ++ 1#1

/-- The x registers that an instruction's fields name as read or written (R33); CPYT only tests the register it names. -/
def Instr.xregs : Instr → List (BitVec 5)
  | .add d a b => [d, a, b]
  | .sub d a b => [d, a, b]
  | .and d a b => [d, a, b]
  | .or d a b => [d, a, b]
  | .xor d a b => [d, a, b]
  | .sll d a b => [d, a, b]
  | .srl d a b => [d, a, b]
  | .sra d a b => [d, a, b]
  | .slt d a b => [d, a, b]
  | .sltu d a b => [d, a, b]
  | .min d a b => [d, a, b]
  | .max d a b => [d, a, b]
  | .minu d a b => [d, a, b]
  | .maxu d a b => [d, a, b]
  | .andn d a b => [d, a, b]
  | .orn d a b => [d, a, b]
  | .clz d a => [d, a]
  | .ctz d a => [d, a]
  | .popc d a => [d, a]
  | .sextw d a => [d, a]
  | .addw d a b => [d, a, b]
  | .subw d a b => [d, a, b]
  | .addi d a _ => [d, a]
  | .andi d a _ => [d, a]
  | .ori d a _ => [d, a]
  | .xori d a _ => [d, a]
  | .slti d a _ => [d, a]
  | .sltiu d a _ => [d, a]
  | .slli d a _ => [d, a]
  | .srli d a _ => [d, a]
  | .srai d a _ => [d, a]
  | .lui d _ => [d]
  | .auipc d _ => [d]
  | .mul d a b => [d, a, b]
  | .mulh d a b => [d, a, b]
  | .mulhu d a b => [d, a, b]
  | .mulhsu d a b => [d, a, b]
  | .div d a b => [d, a, b]
  | .divu d a b => [d, a, b]
  | .rem d a b => [d, a, b]
  | .remu d a b => [d, a, b]
  | .mulw d a b => [d, a, b]
  | .beq a b _ => [a, b]
  | .bne a b _ => [a, b]
  | .blt a b _ => [a, b]
  | .bge a b _ => [a, b]
  | .bltu a b _ => [a, b]
  | .bgeu a b _ => [a, b]
  | .jal d _ => [d]
  | .jalr d a _ => [d, a]
  | .loop _ a _ => [a]
  | .loopi _ _ _ => []
  | .lb d a _ => [d, a]
  | .lh d a _ => [d, a]
  | .lw d a _ => [d, a]
  | .ld d a _ => [d, a]
  | .lbu d a _ => [d, a]
  | .lhu d a _ => [d, a]
  | .lwu d a _ => [d, a]
  | .sb d a _ => [d, a]
  | .sh d a _ => [d, a]
  | .sw d a _ => [d, a]
  | .sd d a _ => [d, a]
  | .amoswap d a b _ _ _ => [d, a, b]
  | .amoadd d a b _ _ _ => [d, a, b]
  | .amoand d a b _ _ _ => [d, a, b]
  | .amoor d a b _ _ _ => [d, a, b]
  | .amoxor d a b _ _ _ => [d, a, b]
  | .amomin d a b _ _ _ => [d, a, b]
  | .amomax d a b _ _ _ => [d, a, b]
  | .amominu d a b _ _ _ => [d, a, b]
  | .amomaxu d a b _ _ _ => [d, a, b]
  | .amocas d a b _ _ _ => [d, a, b]
  | .fence _ _ _ => []
  | .tfence _ => []
  | .ecall => []
  | .ebreak => []
  | .tret => []
  | .wfi => []
  | .cvb => []
  | .tmark a => [a]
  | .csrrw d a _ => [d, a]
  | .csrrs d a _ => [d, a]
  | .csrrc d a _ => [d, a]
  | .csrrwi d _ _ => [d]
  | .csrrsi d _ _ => [d]
  | .csrrci d _ _ => [d]
  | .faddS d a b => [d, a, b]
  | .faddD d a b => [d, a, b]
  | .fsubS d a b => [d, a, b]
  | .fsubD d a b => [d, a, b]
  | .fmulS d a b => [d, a, b]
  | .fmulD d a b => [d, a, b]
  | .fdivS d a b => [d, a, b]
  | .fdivD d a b => [d, a, b]
  | .fsqrtS d a => [d, a]
  | .fsqrtD d a => [d, a]
  | .fminS d a b => [d, a, b]
  | .fminD d a b => [d, a, b]
  | .fmaxS d a b => [d, a, b]
  | .fmaxD d a b => [d, a, b]
  | .fsgnjS d a b => [d, a, b]
  | .fsgnjD d a b => [d, a, b]
  | .fsgnjnS d a b => [d, a, b]
  | .fsgnjnD d a b => [d, a, b]
  | .fsgnjxS d a b => [d, a, b]
  | .fsgnjxD d a b => [d, a, b]
  | .feqS d a b => [d, a, b]
  | .feqD d a b => [d, a, b]
  | .fltS d a b => [d, a, b]
  | .fltD d a b => [d, a, b]
  | .fleS d a b => [d, a, b]
  | .fleD d a b => [d, a, b]
  | .fclassS d a => [d, a]
  | .fclassD d a => [d, a]
  | .fmaddS d a b c => [d, a, b, c]
  | .fmaddD d a b c => [d, a, b, c]
  | .fmsubS d a b c => [d, a, b, c]
  | .fmsubD d a b c => [d, a, b, c]
  | .fnmaddS d a b c => [d, a, b, c]
  | .fnmaddD d a b c => [d, a, b, c]
  | .fnmsubS d a b c => [d, a, b, c]
  | .fnmsubD d a b c => [d, a, b, c]
  | .fcvtws d a => [d, a]
  | .fcvtwus d a => [d, a]
  | .fcvtls d a => [d, a]
  | .fcvtlus d a => [d, a]
  | .fcvtsw d a => [d, a]
  | .fcvtswu d a => [d, a]
  | .fcvtsl d a => [d, a]
  | .fcvtslu d a => [d, a]
  | .fcvtwd d a => [d, a]
  | .fcvtwud d a => [d, a]
  | .fcvtld d a => [d, a]
  | .fcvtlud d a => [d, a]
  | .fcvtdw d a => [d, a]
  | .fcvtdwu d a => [d, a]
  | .fcvtdl d a => [d, a]
  | .fcvtdlu d a => [d, a]
  | .fcvtsd d a => [d, a]
  | .fcvtds d a => [d, a]
  | .syld d a _ _ => [d, a]
  | .syst a b _ _ => [a, b]
  | .sytas d a _ _ => [d, a]
  | .syfaa d a b _ _ => [d, a, b]
  | .sycas d a b _ _ => [d, a, b]
  | .sywait d a b _ _ _ => [d, a, b]
  | .sybar d a b _ _ => [d, a, b]
  | .ipost a b => [a, b]
  | .iwait d a b => [d, a, b]
  | .tspawn d a => [d, a]
  | .ttake d => [d]
  | .tjoin d a => [d, a]
  | .tdone a => [a]
  | .li d _ _ => [d]
  | .setvl d b => [d, b]
  | .vcfg _ _ _ _ _ => []
  | .vtag _ => []
  | .vretag _ _ => []
  | .mmode d b => [d, b]
  | .settile d b => [d, b]
  | .vaddV _ _ _ _ => []
  | .vsubV _ _ _ _ => []
  | .vmulV _ _ _ _ => []
  | .vmulhV _ _ _ _ => []
  | .vminV _ _ _ _ => []
  | .vmaxV _ _ _ _ => []
  | .vdivV _ _ _ _ => []
  | .vremV _ _ _ _ => []
  | .vaddW _ _ x _ => [x]
  | .vsubW _ _ x _ => [x]
  | .vmulW _ _ x _ => [x]
  | .vmulhW _ _ x _ => [x]
  | .vminW _ _ x _ => [x]
  | .vmaxW _ _ x _ => [x]
  | .vdivW _ _ x _ => [x]
  | .vremW _ _ x _ => [x]
  | .vandV _ _ _ _ => []
  | .vorV _ _ _ _ => []
  | .vxorV _ _ _ _ => []
  | .vandnV _ _ _ _ => []
  | .vsllV _ _ _ _ => []
  | .vsrlV _ _ _ _ => []
  | .vsraV _ _ _ _ => []
  | .vmulhuV _ _ _ _ => []
  | .vandW _ _ x _ => [x]
  | .vorW _ _ x _ => [x]
  | .vxorW _ _ x _ => [x]
  | .vandnW _ _ x _ => [x]
  | .vsllW _ _ x _ => [x]
  | .vsrlW _ _ x _ => [x]
  | .vsraW _ _ x _ => [x]
  | .vmulhuW _ _ x _ => [x]
  | .vfmaV _ _ _ _ => []
  | .vfmsV _ _ _ _ => []
  | .vfnmaV _ _ _ _ => []
  | .vfnmsV _ _ _ _ => []
  | .vfmaW _ _ x _ => [x]
  | .vfmsW _ _ x _ => [x]
  | .vfnmaW _ _ x _ => [x]
  | .vfnmsW _ _ x _ => [x]
  | .vneg _ _ _ => []
  | .vabs _ _ _ => []
  | .vsqrt _ _ _ => []
  | .vexp2 _ _ _ => []
  | .vlog2 _ _ _ => []
  | .vrcp _ _ _ => []
  | .vnot _ _ _ => []
  | .viota _ _ _ => []
  | .vcmpeqV _ _ _ _ => []
  | .vcmpneV _ _ _ _ => []
  | .vcmpltV _ _ _ _ => []
  | .vcmpleV _ _ _ _ => []
  | .vcmpgtV _ _ _ _ => []
  | .vcmpgeV _ _ _ _ => []
  | .vcmpunV _ _ _ _ => []
  | .vcmpeqW _ _ x _ => [x]
  | .vcmpneW _ _ x _ => [x]
  | .vcmpltW _ _ x _ => [x]
  | .vcmpleW _ _ x _ => [x]
  | .vcmpgtW _ _ x _ => [x]
  | .vcmpgeW _ _ x _ => [x]
  | .vcmpunW _ _ x _ => [x]
  | .vmv _ _ _ => []
  | .vsplat _ x _ => [x]
  | .vsel _ _ _ _ => []
  | .vmvx d _ x => [d, x]
  | .vins _ a x => [a, x]
  | .vcvt _ _ _ _ => []
  | .pand _ _ _ _ => []
  | .por _ _ _ _ => []
  | .pxor _ _ _ _ => []
  | .pandn _ _ _ _ => []
  | .pnot _ _ _ => []
  | .pfirst _ _ _ => []
  | .pcnt d _ _ => [d]
  | .psetvl d _ _ => [d]
  | .vslideup _ _ x _ => [x]
  | .vslidedn _ _ x _ => [x]
  | .vperm _ _ _ _ => []
  | .vbfly _ _ _ _ => []
  | .vcompress _ _ _ => []
  | .vexpand _ _ _ => []
  | .vscan _ _ _ => []
  | .vrev _ _ _ => []
  | .vredsum _ _ _ => []
  | .vredmin _ _ _ => []
  | .vredmax _ _ _ => []
  | .vredand _ _ _ => []
  | .vredor _ _ _ => []
  | .vredxor _ _ _ => []
  | .vredmini _ _ _ => []
  | .vredmaxi _ _ _ => []
  | .vsample d _ x _ => [d, even x, odd x]
  | .vtopk _ _ x _ => [x]
  | .vld _ x _ _ => [x]
  | .vlds _ x xs _ _ => [x, xs]
  | .vldx _ x _ _ _ => [x]
  | .loadDataReturn _ => []
  | .vst _ x _ _ => [x]
  | .vsts _ x xs _ _ => [x, xs]
  | .vstx _ x _ _ _ => [x]
  | .vcadd _ x _ _ _ => [x]
  | .vcmin _ x _ _ _ => [x]
  | .vcmax _ x _ _ _ => [x]
  | .vcor _ x _ _ _ => [x]
  | .vaadd _ x _ _ _ => [x]
  | .vamin _ x _ _ _ => [x]
  | .vamax _ x _ _ _ => [x]
  | .vaand _ x _ _ _ => [x]
  | .vaor _ x _ _ _ => [x]
  | .vaxor _ x _ _ _ => [x]
  | .vaswap _ x _ _ _ => [x]
  | .vfence _ => []
  | .vbind _ _ x => [x]
  | .vunbind _ => []
  | .vbstat d _ => [d]
  | .streamFetch _ => []
  | .mzero _ => []
  | .mmac _ _ _ _ => []
  | .mmacw _ _ _ => []
  | .mcvt _ _ => []
  | .mrdrow _ _ x => [x]
  | .mwrrow _ _ x => [x]
  | .mwld _ _ a b => [a, b]
  | .mscl _ _ _ => []
  | .hgen _ a b _ => [a, b]
  | .hrot _ _ x _ => [x]
  | .hacc _ _ _ => []
  | .hsign _ _ _ _ => []
  | .hdist d _ _ _ => [d]
  | .hsimm _ _ x => [x]
  | .hfstep _ _ x => [x]
  | .hclean d _ b => [d, b]
  | .hfact _ _ b => [b]
  | .svld _ a b => [a, b]
  | .svst _ a => [a]
  | .svadd _ _ _ => []
  | .svmul _ _ _ => []
  | .svdot d _ _ => [d]
  | .svtov _ _ x => [x]
  | .svlen d _ => [d]
  | .rpost _ x => [x]
  | .rwait d _ x => [d, x]
  | .routerNode _ _ _ => []
  | .roundClose _ _ => []
  | .cpy d a b _ _ treg => [d, a, b, treg]
  | .cpys d a b _ _ treg _ xs => [d, a, b, treg, xs]
  | .cpyx d a b _ _ treg _ _ => [d, a, b, treg]
  | .cpyt d _ => [d]
  | .copyComplete => []
  | .srdef a => [a]
  | .srld _ a _ => [a]
  | .srst _ a _ => [a]
  | .srrow _ a b => [a, b]
  | .srtrav _ a b => [a, even b, odd b]
  | .srdense d a b _ treg => [d, a, b, treg]
  | .srcnt d a => [d, a]
  | .edef a b _ => [a, b]
  | .erun d b => [d, b]
  | .eend => []
  | .estat d b => [d, b]
  | .efront d => [d]
  | .timerExpiry => []
  | .interrupt => []
  | .preempt _ _ => []
  | .hostmsg _ => []
  | .breakpointHalt => []
  | .wcbDrain _ => []
  | .srfMirrorUpdate _ => []
  | .ringPostDelivery _ => []
  | .tail _ _ => []
  | .gangStart _ _ _ => []
  | .gangComplete _ => []
  | .gangPreempt _ _ _ => []
  | .gangResume _ _ _ => []
  | .probeTokenSend _ _ _ => []
  | .probeTokenReceive _ _ => []
  | .l2Window _ _ _ _ => []
  | .throttleStart _ _ _ => []
  | .throttleEnd _ _ => []
  | .leaseExpiry => []
  | .counterRotation _ => []
  | .replayInputApply _ => []
  | .hostApertureWrite _ _ _ => []
  | .hostSrfRead _ => []
  | .hostSrfWrite _ _ => []
  | .registerWrite _ _ _ _ => []
  | .ralbaFrameReceive _ _ _ _ _ _ _ _ _ _ _ _ _ => []
  | .frameRetry _ _ _ => []
  | .linkLoss _ _ => []
  | .deviceReset _ => []
  | .powerLoss => []
  | .recoveryDoorbell _ => []
  | .summary _ => []
  | .setLaunchQueue _ _ _ _ => []
  | .rackLease _ _ _ _ => []
  | .setWindow _ _ _ _ _ _ _ _ => []
  | .resetHart _ _ => []
  | .attestationReport _ => []
  | .retireResource _ _ _ => []
  | .setBreakpoints _ => []
  | .setCounters _ => []
  | .readCounters _ => []
  | .setTrace _ => []
  | .readTraceStatus _ => []
  | .registerContext _ => []
  | .placeAperture _ => []
  | .setThot _ => []
  | .setEthertype _ => []
  | .assignRootPort _ => []
  | .illegal _ => []
  | .fetchTrap => []
  | .combineApplied _ => []
  | .haltedHartResume _ => []
  | .remoteLinkRestored _ _ => []
  | .rootPortDeviceAccess _ _ _ _ _ => []
  | .boostEnd => []
  | .endedBySupervisorSide _ => []
  | .imageVerificationDone => []

/-- The pipes that execute a vector instruction (R350); a scalar instruction has none. -/
def Instr.pipes : Instr → List Nat
  | .add _ _ _ => []
  | .sub _ _ _ => []
  | .and _ _ _ => []
  | .or _ _ _ => []
  | .xor _ _ _ => []
  | .sll _ _ _ => []
  | .srl _ _ _ => []
  | .sra _ _ _ => []
  | .slt _ _ _ => []
  | .sltu _ _ _ => []
  | .min _ _ _ => []
  | .max _ _ _ => []
  | .minu _ _ _ => []
  | .maxu _ _ _ => []
  | .andn _ _ _ => []
  | .orn _ _ _ => []
  | .clz _ _ => []
  | .ctz _ _ => []
  | .popc _ _ => []
  | .sextw _ _ => []
  | .addw _ _ _ => []
  | .subw _ _ _ => []
  | .addi _ _ _ => []
  | .andi _ _ _ => []
  | .ori _ _ _ => []
  | .xori _ _ _ => []
  | .slti _ _ _ => []
  | .sltiu _ _ _ => []
  | .slli _ _ _ => []
  | .srli _ _ _ => []
  | .srai _ _ _ => []
  | .lui _ _ => []
  | .auipc _ _ => []
  | .mul _ _ _ => []
  | .mulh _ _ _ => []
  | .mulhu _ _ _ => []
  | .mulhsu _ _ _ => []
  | .div _ _ _ => []
  | .divu _ _ _ => []
  | .rem _ _ _ => []
  | .remu _ _ _ => []
  | .mulw _ _ _ => []
  | .beq _ _ _ => []
  | .bne _ _ _ => []
  | .blt _ _ _ => []
  | .bge _ _ _ => []
  | .bltu _ _ _ => []
  | .bgeu _ _ _ => []
  | .jal _ _ => []
  | .jalr _ _ _ => []
  | .loop _ _ _ => []
  | .loopi _ _ _ => []
  | .lb _ _ _ => []
  | .lh _ _ _ => []
  | .lw _ _ _ => []
  | .ld _ _ _ => []
  | .lbu _ _ _ => []
  | .lhu _ _ _ => []
  | .lwu _ _ _ => []
  | .sb _ _ _ => []
  | .sh _ _ _ => []
  | .sw _ _ _ => []
  | .sd _ _ _ => []
  | .amoswap _ _ _ _ _ _ => []
  | .amoadd _ _ _ _ _ _ => []
  | .amoand _ _ _ _ _ _ => []
  | .amoor _ _ _ _ _ _ => []
  | .amoxor _ _ _ _ _ _ => []
  | .amomin _ _ _ _ _ _ => []
  | .amomax _ _ _ _ _ _ => []
  | .amominu _ _ _ _ _ _ => []
  | .amomaxu _ _ _ _ _ _ => []
  | .amocas _ _ _ _ _ _ => []
  | .fence _ _ _ => []
  | .tfence _ => []
  | .ecall => []
  | .ebreak => []
  | .tret => []
  | .wfi => []
  | .cvb => []
  | .tmark _ => []
  | .csrrw _ _ _ => []
  | .csrrs _ _ _ => []
  | .csrrc _ _ _ => []
  | .csrrwi _ _ _ => []
  | .csrrsi _ _ _ => []
  | .csrrci _ _ _ => []
  | .faddS _ _ _ => []
  | .faddD _ _ _ => []
  | .fsubS _ _ _ => []
  | .fsubD _ _ _ => []
  | .fmulS _ _ _ => []
  | .fmulD _ _ _ => []
  | .fdivS _ _ _ => []
  | .fdivD _ _ _ => []
  | .fsqrtS _ _ => []
  | .fsqrtD _ _ => []
  | .fminS _ _ _ => []
  | .fminD _ _ _ => []
  | .fmaxS _ _ _ => []
  | .fmaxD _ _ _ => []
  | .fsgnjS _ _ _ => []
  | .fsgnjD _ _ _ => []
  | .fsgnjnS _ _ _ => []
  | .fsgnjnD _ _ _ => []
  | .fsgnjxS _ _ _ => []
  | .fsgnjxD _ _ _ => []
  | .feqS _ _ _ => []
  | .feqD _ _ _ => []
  | .fltS _ _ _ => []
  | .fltD _ _ _ => []
  | .fleS _ _ _ => []
  | .fleD _ _ _ => []
  | .fclassS _ _ => []
  | .fclassD _ _ => []
  | .fmaddS _ _ _ _ => []
  | .fmaddD _ _ _ _ => []
  | .fmsubS _ _ _ _ => []
  | .fmsubD _ _ _ _ => []
  | .fnmaddS _ _ _ _ => []
  | .fnmaddD _ _ _ _ => []
  | .fnmsubS _ _ _ _ => []
  | .fnmsubD _ _ _ _ => []
  | .fcvtws _ _ => []
  | .fcvtwus _ _ => []
  | .fcvtls _ _ => []
  | .fcvtlus _ _ => []
  | .fcvtsw _ _ => []
  | .fcvtswu _ _ => []
  | .fcvtsl _ _ => []
  | .fcvtslu _ _ => []
  | .fcvtwd _ _ => []
  | .fcvtwud _ _ => []
  | .fcvtld _ _ => []
  | .fcvtlud _ _ => []
  | .fcvtdw _ _ => []
  | .fcvtdwu _ _ => []
  | .fcvtdl _ _ => []
  | .fcvtdlu _ _ => []
  | .fcvtsd _ _ => []
  | .fcvtds _ _ => []
  | .syld _ _ _ _ => []
  | .syst _ _ _ _ => []
  | .sytas _ _ _ _ => []
  | .syfaa _ _ _ _ _ => []
  | .sycas _ _ _ _ _ => []
  | .sywait _ _ _ _ _ _ => []
  | .sybar _ _ _ _ _ => []
  | .ipost _ _ => []
  | .iwait _ _ _ => []
  | .tspawn _ _ => []
  | .ttake _ => []
  | .tjoin _ _ => []
  | .tdone _ => []
  | .li _ _ _ => []
  | .setvl _ _ => [0]
  | .vcfg _ _ _ _ _ => [0]
  | .vtag _ => [0]
  | .vretag _ _ => [0]
  | .mmode _ _ => [0]
  | .settile _ _ => [0]
  | .vaddV _ _ _ _ => [0]
  | .vsubV _ _ _ _ => [0]
  | .vmulV _ _ _ _ => [0]
  | .vmulhV _ _ _ _ => [0]
  | .vminV _ _ _ _ => [0]
  | .vmaxV _ _ _ _ => [0]
  | .vdivV _ _ _ _ => [0]
  | .vremV _ _ _ _ => [0]
  | .vaddW _ _ _ _ => [0]
  | .vsubW _ _ _ _ => [0]
  | .vmulW _ _ _ _ => [0]
  | .vmulhW _ _ _ _ => [0]
  | .vminW _ _ _ _ => [0]
  | .vmaxW _ _ _ _ => [0]
  | .vdivW _ _ _ _ => [0]
  | .vremW _ _ _ _ => [0]
  | .vandV _ _ _ _ => [0]
  | .vorV _ _ _ _ => [0]
  | .vxorV _ _ _ _ => [0]
  | .vandnV _ _ _ _ => [0]
  | .vsllV _ _ _ _ => [0]
  | .vsrlV _ _ _ _ => [0]
  | .vsraV _ _ _ _ => [0]
  | .vmulhuV _ _ _ _ => [0]
  | .vandW _ _ _ _ => [0]
  | .vorW _ _ _ _ => [0]
  | .vxorW _ _ _ _ => [0]
  | .vandnW _ _ _ _ => [0]
  | .vsllW _ _ _ _ => [0]
  | .vsrlW _ _ _ _ => [0]
  | .vsraW _ _ _ _ => [0]
  | .vmulhuW _ _ _ _ => [0]
  | .vfmaV _ _ _ _ => [0]
  | .vfmsV _ _ _ _ => [0]
  | .vfnmaV _ _ _ _ => [0]
  | .vfnmsV _ _ _ _ => [0]
  | .vfmaW _ _ _ _ => [0]
  | .vfmsW _ _ _ _ => [0]
  | .vfnmaW _ _ _ _ => [0]
  | .vfnmsW _ _ _ _ => [0]
  | .vneg _ _ _ => [0]
  | .vabs _ _ _ => [0]
  | .vsqrt _ _ _ => [0]
  | .vexp2 _ _ _ => [0]
  | .vlog2 _ _ _ => [0]
  | .vrcp _ _ _ => [0]
  | .vnot _ _ _ => [0]
  | .viota _ _ _ => [0]
  | .vcmpeqV _ _ _ _ => [0]
  | .vcmpneV _ _ _ _ => [0]
  | .vcmpltV _ _ _ _ => [0]
  | .vcmpleV _ _ _ _ => [0]
  | .vcmpgtV _ _ _ _ => [0]
  | .vcmpgeV _ _ _ _ => [0]
  | .vcmpunV _ _ _ _ => [0]
  | .vcmpeqW _ _ _ _ => [0]
  | .vcmpneW _ _ _ _ => [0]
  | .vcmpltW _ _ _ _ => [0]
  | .vcmpleW _ _ _ _ => [0]
  | .vcmpgtW _ _ _ _ => [0]
  | .vcmpgeW _ _ _ _ => [0]
  | .vcmpunW _ _ _ _ => [0]
  | .vmv _ _ _ => [0]
  | .vsplat _ _ _ => [0]
  | .vsel _ _ _ _ => [0]
  | .vmvx _ _ _ => [0]
  | .vins _ _ _ => [0]
  | .vcvt _ _ _ _ => [0]
  | .pand _ _ _ _ => [0]
  | .por _ _ _ _ => [0]
  | .pxor _ _ _ _ => [0]
  | .pandn _ _ _ _ => [0]
  | .pnot _ _ _ => [0]
  | .pfirst _ _ _ => [0]
  | .pcnt _ _ _ => [0]
  | .psetvl _ _ _ => [0]
  | .vslideup _ _ _ _ => [0]
  | .vslidedn _ _ _ _ => [0]
  | .vperm _ _ _ _ => [0]
  | .vbfly _ _ _ _ => [0]
  | .vcompress _ _ _ => [0]
  | .vexpand _ _ _ => [0]
  | .vscan _ _ _ => [0]
  | .vrev _ _ _ => [0]
  | .vredsum _ _ _ => [0]
  | .vredmin _ _ _ => [0]
  | .vredmax _ _ _ => [0]
  | .vredand _ _ _ => [0]
  | .vredor _ _ _ => [0]
  | .vredxor _ _ _ => [0]
  | .vredmini _ _ _ => [0]
  | .vredmaxi _ _ _ => [0]
  | .vsample _ _ _ _ => [0]
  | .vtopk _ _ _ _ => [0]
  | .vld _ _ _ _ => [8]
  | .vlds _ _ _ _ _ => [8]
  | .vldx _ _ _ _ _ => [4, 8]
  | .loadDataReturn _ => []
  | .vst _ _ _ _ => [8]
  | .vsts _ _ _ _ _ => [8]
  | .vstx _ _ _ _ _ => [4, 8]
  | .vcadd _ _ _ _ _ => [4, 8]
  | .vcmin _ _ _ _ _ => [4, 8]
  | .vcmax _ _ _ _ _ => [4, 8]
  | .vcor _ _ _ _ _ => [4, 8]
  | .vaadd _ _ _ _ _ => [4, 8]
  | .vamin _ _ _ _ _ => [4, 8]
  | .vamax _ _ _ _ _ => [4, 8]
  | .vaand _ _ _ _ _ => [4, 8]
  | .vaor _ _ _ _ _ => [4, 8]
  | .vaxor _ _ _ _ _ => [4, 8]
  | .vaswap _ _ _ _ _ => [4, 8]
  | .vfence _ => [8]
  | .vbind _ _ _ => [3]
  | .vunbind _ => [3]
  | .vbstat _ _ => [3]
  | .streamFetch _ => []
  | .mzero _ => [1]
  | .mmac _ _ _ _ => [1]
  | .mmacw _ _ _ => [1]
  | .mcvt _ _ => [1]
  | .mrdrow _ _ _ => [1]
  | .mwrrow _ _ _ => [1]
  | .mwld _ _ _ _ => [1]
  | .mscl _ _ _ => [1]
  | .hgen _ _ _ _ => [0]
  | .hrot _ _ _ _ => [0]
  | .hacc _ _ _ => [0]
  | .hsign _ _ _ _ => [0]
  | .hdist _ _ _ _ => [0]
  | .hsimm _ _ _ => [0]
  | .hfstep _ _ _ => [7]
  | .hclean _ _ _ => [7]
  | .hfact _ _ _ => [7]
  | .svld _ _ _ => [0]
  | .svst _ _ => [0]
  | .svadd _ _ _ => [0]
  | .svmul _ _ _ => [0]
  | .svdot _ _ _ => [0]
  | .svtov _ _ _ => [0]
  | .svlen _ _ => [0]
  | .rpost _ _ => [0]
  | .rwait _ _ _ => [0]
  | .routerNode _ _ _ => []
  | .roundClose _ _ => []
  | .cpy _ _ _ _ _ _ => [2]
  | .cpys _ _ _ _ _ _ _ _ => [2]
  | .cpyx _ _ _ _ _ _ _ _ => [2]
  | .cpyt _ _ => []
  | .copyComplete => []
  | .srdef _ => [6]
  | .srld _ _ _ => [6]
  | .srst _ _ _ => [6]
  | .srrow _ _ _ => [6]
  | .srtrav _ _ _ => [6]
  | .srdense _ _ _ _ _ => [2]
  | .srcnt _ _ => [6]
  | .edef _ _ _ => [5]
  | .erun _ _ => [5]
  | .eend => []
  | .estat _ _ => [5]
  | .efront _ => [5]
  | .timerExpiry => []
  | .interrupt => []
  | .preempt _ _ => []
  | .hostmsg _ => []
  | .breakpointHalt => []
  | .wcbDrain _ => []
  | .srfMirrorUpdate _ => []
  | .ringPostDelivery _ => []
  | .tail _ _ => []
  | .gangStart _ _ _ => []
  | .gangComplete _ => []
  | .gangPreempt _ _ _ => []
  | .gangResume _ _ _ => []
  | .probeTokenSend _ _ _ => []
  | .probeTokenReceive _ _ => []
  | .l2Window _ _ _ _ => []
  | .throttleStart _ _ _ => []
  | .throttleEnd _ _ => []
  | .leaseExpiry => []
  | .counterRotation _ => []
  | .replayInputApply _ => []
  | .hostApertureWrite _ _ _ => []
  | .hostSrfRead _ => []
  | .hostSrfWrite _ _ => []
  | .registerWrite _ _ _ _ => []
  | .ralbaFrameReceive _ _ _ _ _ _ _ _ _ _ _ _ _ => []
  | .frameRetry _ _ _ => []
  | .linkLoss _ _ => []
  | .deviceReset _ => []
  | .powerLoss => []
  | .recoveryDoorbell _ => []
  | .summary _ => []
  | .setLaunchQueue _ _ _ _ => []
  | .rackLease _ _ _ _ => []
  | .setWindow _ _ _ _ _ _ _ _ => []
  | .resetHart _ _ => []
  | .attestationReport _ => []
  | .retireResource _ _ _ => []
  | .setBreakpoints _ => []
  | .setCounters _ => []
  | .readCounters _ => []
  | .setTrace _ => []
  | .readTraceStatus _ => []
  | .registerContext _ => []
  | .placeAperture _ => []
  | .setThot _ => []
  | .setEthertype _ => []
  | .assignRootPort _ => []
  | .illegal _ => []
  | .fetchTrap => []
  | .combineApplied _ => []
  | .haltedHartResume _ => []
  | .remoteLinkRestored _ _ => []
  | .rootPortDeviceAccess _ _ _ _ _ => []
  | .boostEnd => []
  | .endedBySupervisorSide _ => []
  | .imageVerificationDone => []

/-- The copies (R195) and SRDENSE (R261): the copy engine executes them after they have left the VIQ (R200, R330). -/
def Instr.isCopy : Instr → Bool
  | .cpy .. => true
  | .cpys .. => true
  | .cpyx .. => true
  | .srdense .. => true
  | _ => false

/-- The vector instructions (R105, R350): those that a pipe executes, and CVB. -/
def Instr.isVector : Instr → Bool
  | .cvb => true
  | i => !i.pipes.isEmpty

/-- The scalar atomics (R66). -/
def Instr.isAmo : Instr → Bool
  | .amoswap .. | .amoadd .. | .amoand .. | .amoor .. | .amoxor .. | .amomin .. | .amomax .. | .amominu .. | .amomaxu ..
  | .amocas .. => true
  | _ => false

/-- The operations on synchronisation registers (R310), which the counters count (R350). -/
def Instr.isSrf : Instr → Bool
  | .syld _ _ _ _ => true
  | .syst _ _ _ _ => true
  | .sytas _ _ _ _ => true
  | .syfaa _ _ _ _ _ => true
  | .sycas _ _ _ _ _ => true
  | .sywait _ _ _ _ _ _ => true
  | .sybar _ _ _ _ _ => true
  | _ => false

/-- The device events that the agenda may name. An expiring timer, an illegal word and a fetch that fails are part of the
step of their hart. -/
def Instr.isEvent : Instr → Bool
  | .loadDataReturn _ => true
  | .streamFetch _ => true
  | .routerNode _ _ _ => true
  | .roundClose _ _ => true
  | .copyComplete => true
  | .interrupt => true
  | .preempt _ _ => true
  | .hostmsg _ => true
  | .breakpointHalt => true
  | .wcbDrain _ => true
  | .srfMirrorUpdate _ => true
  | .ringPostDelivery _ => true
  | .tail _ _ => true
  | .gangStart _ _ _ => true
  | .gangComplete _ => true
  | .gangPreempt _ _ _ => true
  | .gangResume _ _ _ => true
  | .probeTokenSend _ _ _ => true
  | .probeTokenReceive _ _ => true
  | .l2Window _ _ _ _ => true
  | .throttleStart _ _ _ => true
  | .throttleEnd _ _ => true
  | .leaseExpiry => true
  | .counterRotation _ => true
  | .replayInputApply _ => true
  | .hostApertureWrite _ _ _ => true
  | .hostSrfRead _ => true
  | .hostSrfWrite _ _ => true
  | .registerWrite _ _ _ _ => true
  | .ralbaFrameReceive _ _ _ _ _ _ _ _ _ _ _ _ _ => true
  | .frameRetry _ _ _ => true
  | .linkLoss _ _ => true
  | .deviceReset _ => true
  | .powerLoss => true
  | .recoveryDoorbell _ => true
  | .summary _ => true
  | .setLaunchQueue _ _ _ _ => true
  | .rackLease _ _ _ _ => true
  | .setWindow _ _ _ _ _ _ _ _ => true
  | .resetHart _ _ => true
  | .attestationReport _ => true
  | .retireResource _ _ _ => true
  | .setBreakpoints _ => true
  | .setCounters _ => true
  | .readCounters _ => true
  | .setTrace _ => true
  | .readTraceStatus _ => true
  | .registerContext _ => true
  | .placeAperture _ => true
  | .setThot _ => true
  | .setEthertype _ => true
  | .assignRootPort _ => true
  | .combineApplied _ => true
  | .haltedHartResume _ => true
  | .remoteLinkRestored _ _ => true
  | .rootPortDeviceAccess _ _ _ _ _ => true
  | .boostEnd => true
  | .endedBySupervisorSide _ => true
  | .imageVerificationDone => true
  | _ => false

/-! ### How an instruction issues -/

/-- How the scalar issue point handles an instruction (R85, R105, R326, R347): it executes there; it is a store or a load; it is a
mark, whose record is made once every older instruction has completed; it goes into the VIQ; or it waits until every older
instruction has completed. -/
inductive Issue where
  | scalar | store | load | mark | vector | waits
  deriving DecidableEq, Repr

/-- An instruction at pc that issues so can complete after younger ones have issued (R85, R105). -/
def Issue.outlasts (c : Issue) : Bool := c == .vector || c == .load || c == .mark

/-- The CSRs whose instructions wait for the VIQ (R43). -/
def viqCsr (c : BitVec 12) : Bool :=
  let c := c.toNat
  (0x010 ≤ c && c ≤ 0x017) || c = 0x019 || (0x030 ≤ c && c ≤ 0x037)

/-- A CSR instruction waits where it writes (R85) or names a CSR of the VIQ (R43). -/
def csrIssue (writes : Bool) (c : BitVec 12) : Issue := if writes || viqCsr c then .waits else .scalar

/-- How an instruction issues. A fence whose successor set holds s waits at the issue point (R326), and so does an RWAIT, as
an acquire (R328). -/
def Instr.issue : Instr → Issue
  | .add .. | .sub .. | .and .. | .or .. | .xor .. | .sll .. | .srl .. | .sra .. | .slt .. | .sltu .. | .min ..
  | .max .. | .minu .. | .maxu .. | .andn .. | .orn .. | .clz .. | .ctz .. | .popc .. | .sextw .. | .addw ..
  | .subw .. | .addi .. | .andi .. | .ori .. | .xori .. | .slti .. | .sltiu .. | .slli .. | .srli .. | .srai ..
  | .lui .. | .auipc .. | .mul .. | .mulh .. | .mulhu .. | .mulhsu .. | .div .. | .divu .. | .rem .. | .remu ..
  | .mulw .. | .beq .. | .bne .. | .blt .. | .bge .. | .bltu .. | .bgeu .. | .jal .. | .jalr .. | .loop ..
  | .loopi .. | .faddS .. | .faddD .. | .fsubS .. | .fsubD .. | .fmulS .. | .fmulD .. | .fdivS .. | .fdivD ..
  | .fsqrtS .. | .fsqrtD .. | .fminS .. | .fminD .. | .fmaxS .. | .fmaxD .. | .fsgnjS .. | .fsgnjD ..
  | .fsgnjnS .. | .fsgnjnD .. | .fsgnjxS .. | .fsgnjxD .. | .feqS .. | .feqD .. | .fltS .. | .fltD ..
  | .fleS .. | .fleD .. | .fclassS .. | .fclassD .. | .fmaddS .. | .fmaddD .. | .fmsubS .. | .fmsubD ..
  | .fnmaddS .. | .fnmaddD .. | .fnmsubS .. | .fnmsubD .. | .fcvtws .. | .fcvtwus .. | .fcvtls .. | .fcvtlus ..
  | .fcvtsw .. | .fcvtswu .. | .fcvtsl .. | .fcvtslu .. | .fcvtwd .. | .fcvtwud .. | .fcvtld .. | .fcvtlud ..
  | .fcvtdw .. | .fcvtdwu .. | .fcvtdl .. | .fcvtdlu .. | .fcvtsd .. | .fcvtds .. | .li .. | .cpyt .. => .scalar
  | .sb .. | .sh .. | .sw .. | .sd .. => .store
  | .lb .. | .lh .. | .lw .. | .ld .. | .lbu .. | .lhu .. | .lwu .. => .load
  | .fence _ _ y => if y.getLsbD 0 then .waits else .vector
  | .csrrs _ a c => csrIssue (a != 0) c
  | .csrrc _ a c => csrIssue (a != 0) c
  | .csrrsi _ u c => csrIssue (u != 0) c
  | .csrrci _ u c => csrIssue (u != 0) c
  | .tmark _ => .mark
  | .cvb .. | .setvl .. | .vcfg .. | .vtag .. | .vretag .. | .mmode .. | .settile .. | .vaddV .. | .vsubV ..
  | .vmulV .. | .vmulhV .. | .vminV .. | .vmaxV .. | .vdivV .. | .vremV .. | .vaddW .. | .vsubW .. | .vmulW ..
  | .vmulhW .. | .vminW .. | .vmaxW .. | .vdivW .. | .vremW .. | .vandV .. | .vorV .. | .vxorV .. | .vandnV ..
  | .vsllV .. | .vsrlV .. | .vsraV .. | .vmulhuV .. | .vandW .. | .vorW .. | .vxorW .. | .vandnW .. | .vsllW ..
  | .vsrlW .. | .vsraW .. | .vmulhuW .. | .vfmaV .. | .vfmsV .. | .vfnmaV .. | .vfnmsV .. | .vfmaW ..
  | .vfmsW .. | .vfnmaW .. | .vfnmsW .. | .vneg .. | .vabs .. | .vsqrt .. | .vexp2 .. | .vlog2 .. | .vrcp ..
  | .vnot .. | .viota .. | .vcmpeqV .. | .vcmpneV .. | .vcmpltV .. | .vcmpleV .. | .vcmpgtV .. | .vcmpgeV ..
  | .vcmpunV .. | .vcmpeqW .. | .vcmpneW .. | .vcmpltW .. | .vcmpleW .. | .vcmpgtW .. | .vcmpgeW ..
  | .vcmpunW .. | .vmv .. | .vsplat .. | .vsel .. | .vmvx .. | .vins .. | .vcvt .. | .pand .. | .por ..
  | .pxor .. | .pandn .. | .pnot .. | .pfirst .. | .pcnt .. | .psetvl .. | .vslideup .. | .vslidedn ..
  | .vperm .. | .vbfly .. | .vcompress .. | .vexpand .. | .vscan .. | .vrev .. | .vredsum .. | .vredmin ..
  | .vredmax .. | .vredand .. | .vredor .. | .vredxor .. | .vredmini .. | .vredmaxi .. | .vsample ..
  | .vtopk .. | .vld .. | .vlds .. | .vldx .. | .vst .. | .vsts .. | .vstx .. | .vcadd .. | .vcmin ..
  | .vcmax .. | .vcor .. | .vaadd .. | .vamin .. | .vamax .. | .vaand .. | .vaor .. | .vaxor .. | .vaswap ..
  | .vfence .. | .vbind .. | .vunbind .. | .vbstat .. | .mzero .. | .mmac .. | .mmacw .. | .mcvt ..
  | .mrdrow .. | .mwrrow .. | .mwld .. | .mscl .. | .hgen .. | .hrot .. | .hacc .. | .hsign .. | .hdist ..
  | .hsimm .. | .hfstep .. | .hclean .. | .hfact .. | .svld .. | .svst .. | .svadd .. | .svmul .. | .svdot ..
  | .svtov .. | .svlen .. | .rpost .. | .cpy .. | .cpys .. | .cpyx .. | .srld .. | .srst .. | .srrow ..
  | .srtrav .. | .srdense .. | .srcnt .. | .edef .. | .erun .. | .estat .. | .efront .. => .vector
  | .amoswap .. | .amoadd .. | .amoand .. | .amoor .. | .amoxor .. | .amomin .. | .amomax .. | .amominu ..
  | .amomaxu .. | .amocas .. | .tfence .. | .ecall .. | .ebreak .. | .tret .. | .wfi .. | .csrrw ..
  | .csrrwi .. | .syld .. | .syst .. | .sytas .. | .syfaa ..
  | .sycas .. | .sywait .. | .sybar .. | .ipost .. | .iwait .. | .tspawn .. | .ttake .. | .tjoin .. | .tdone ..
  | .loadDataReturn .. | .streamFetch .. | .rwait .. | .routerNode .. | .roundClose .. | .copyComplete ..
  | .srdef .. | .eend .. | .timerExpiry .. | .interrupt .. | .preempt .. | .hostmsg .. | .breakpointHalt ..
  | .wcbDrain .. | .srfMirrorUpdate .. | .ringPostDelivery .. | .tail .. | .gangStart .. | .gangComplete ..
  | .gangPreempt .. | .gangResume .. | .probeTokenSend .. | .probeTokenReceive .. | .l2Window ..
  | .throttleStart .. | .throttleEnd .. | .leaseExpiry .. | .counterRotation .. | .replayInputApply ..
  | .hostApertureWrite .. | .hostSrfRead .. | .hostSrfWrite .. | .registerWrite .. | .ralbaFrameReceive ..
  | .frameRetry .. | .linkLoss .. | .deviceReset .. | .powerLoss .. | .recoveryDoorbell .. | .summary ..
  | .setLaunchQueue .. | .rackLease .. | .setWindow .. | .resetHart .. | .attestationReport ..
  | .retireResource .. | .setBreakpoints .. | .setCounters .. | .readCounters .. | .setTrace ..
  | .readTraceStatus .. | .registerContext .. | .placeAperture .. | .setThot .. | .setEthertype ..
  | .assignRootPort .. | .illegal .. | .fetchTrap .. | .combineApplied .. | .haltedHartResume ..
  | .remoteLinkRestored .. | .rootPortDeviceAccess .. | .boostEnd .. | .endedBySupervisorSide ..
  | .imageVerificationDone .. => .waits

/-- A vector load whose elements are performed in order (R165, R180). -/
def Instr.isOrdered : Instr → Bool
  | .vld _ _ o _ => o = 1
  | .vlds _ _ _ o _ => o = 1
  | .vldx _ _ _ o _ => o = 1
  | _ => false

/-- The instruction's accesses may be performed after it has retired (R322): scalar loads and stores, and vector stores. -/
def Instr.mayDefer (i : Instr) : Bool :=
  i.issue == .load || i.issue == .store || (match i with
    | .vst .. | .vsts .. | .vstx .. | .svst .. => true
    | _ => false)

/-- An instruction of the VIQ that does not leave it while an older load is outstanding (R171): a store, combine or atomic, one that
writes memory by itself, or a lane barrier (R114). -/
def Instr.staysBehind : Instr → Bool
  | .vst .. | .vsts .. | .vstx .. | .vcadd .. | .vcmin .. | .vcmax .. | .vcor .. | .vaadd .. | .vamin .. | .vamax ..
  | .vaand .. | .vaor .. | .vaxor .. | .vaswap .. | .srst .. | .erun .. | .efront .. | .rpost .. => true
  | .vslideup .. | .vslidedn .. | .vperm .. | .vbfly .. | .vcompress .. | .vexpand .. | .vscan .. | .vrev .. | .vredsum ..
  | .vredmin .. | .vredmax .. | .vredand .. | .vredor .. | .vredxor .. | .vredmini .. | .vredmaxi .. | .vsample ..
  | .vtopk .. | .viota .. | .pfirst .. | .pcnt .. | .psetvl .. | .vmvx .. | .vins .. | .setvl .. | .mmode .. | .settile ..
  | .mzero .. | .mmac .. | .mmacw .. | .mcvt .. | .mrdrow .. | .mwrrow .. | .mwld .. | .mscl .. | .hgen .. | .hrot ..
  | .hacc .. | .hsign .. | .hdist .. | .hsimm .. | .hfstep .. | .hclean .. | .hfact .. | .svld .. | .svst .. | .svadd ..
  | .svmul .. | .svdot .. | .svtov .. | .svlen .. | .vfence .. => true
  | .fence _ x y => x.getLsbD 1 || y.getLsbD 1
  | _ => false

/-- A fence, a release or a scalar load between two stores: the later does not merge into the earlier (R324). -/
def Instr.partsStores : Instr → Bool
  | .fence .. | .vfence .. | .rpost .. | .lb .. | .lh .. | .lw .. | .ld .. | .lbu .. | .lhu .. | .lwu .. => true
  | _ => false

/-- The x register that a copy names as its target (R195). -/
def Instr.copyReg : Instr → Option (BitVec 5)
  | .cpy _ _ _ _ tk treg => if tk = 0 then some treg else none
  | .cpys _ _ _ _ tk treg _ _ => if tk = 0 then some treg else none
  | .cpyx _ _ _ _ tk treg _ _ => if tk = 0 then some treg else none
  | .srdense _ _ _ tk treg => if tk = 0 then some treg else none
  | .add .. | .sub .. | .and .. | .or .. | .xor .. | .sll .. | .srl .. | .sra .. | .slt .. | .sltu .. | .min ..
  | .max .. | .minu .. | .maxu .. | .andn .. | .orn .. | .clz .. | .ctz .. | .popc .. | .sextw .. | .addw ..
  | .subw .. | .addi .. | .andi .. | .ori .. | .xori .. | .slti .. | .sltiu .. | .slli .. | .srli .. | .srai ..
  | .lui .. | .auipc .. | .mul .. | .mulh .. | .mulhu .. | .mulhsu .. | .div .. | .divu .. | .rem .. | .remu ..
  | .mulw .. | .beq .. | .bne .. | .blt .. | .bge .. | .bltu .. | .bgeu .. | .jal .. | .jalr .. | .loop ..
  | .loopi .. | .lb .. | .lh .. | .lw .. | .ld .. | .lbu .. | .lhu .. | .lwu .. | .sb .. | .sh .. | .sw ..
  | .sd .. | .amoswap .. | .amoadd .. | .amoand .. | .amoor .. | .amoxor .. | .amomin .. | .amomax ..
  | .amominu .. | .amomaxu .. | .amocas .. | .fence .. | .tfence .. | .ecall .. | .ebreak .. | .tret ..
  | .wfi .. | .cvb .. | .tmark .. | .csrrw .. | .csrrs .. | .csrrc .. | .csrrwi .. | .csrrsi .. | .csrrci ..
  | .faddS .. | .faddD .. | .fsubS .. | .fsubD .. | .fmulS .. | .fmulD .. | .fdivS .. | .fdivD .. | .fsqrtS ..
  | .fsqrtD .. | .fminS .. | .fminD .. | .fmaxS .. | .fmaxD .. | .fsgnjS .. | .fsgnjD .. | .fsgnjnS ..
  | .fsgnjnD .. | .fsgnjxS .. | .fsgnjxD .. | .feqS .. | .feqD .. | .fltS .. | .fltD .. | .fleS .. | .fleD ..
  | .fclassS .. | .fclassD .. | .fmaddS .. | .fmaddD .. | .fmsubS .. | .fmsubD .. | .fnmaddS .. | .fnmaddD ..
  | .fnmsubS .. | .fnmsubD .. | .fcvtws .. | .fcvtwus .. | .fcvtls .. | .fcvtlus .. | .fcvtsw .. | .fcvtswu ..
  | .fcvtsl .. | .fcvtslu .. | .fcvtwd .. | .fcvtwud .. | .fcvtld .. | .fcvtlud .. | .fcvtdw .. | .fcvtdwu ..
  | .fcvtdl .. | .fcvtdlu .. | .fcvtsd .. | .fcvtds .. | .syld .. | .syst .. | .sytas .. | .syfaa ..
  | .sycas .. | .sywait .. | .sybar .. | .ipost .. | .iwait .. | .tspawn .. | .ttake .. | .tjoin .. | .tdone ..
  | .li .. | .setvl .. | .vcfg .. | .vtag .. | .vretag .. | .mmode .. | .settile .. | .vaddV .. | .vsubV ..
  | .vmulV .. | .vmulhV .. | .vminV .. | .vmaxV .. | .vdivV .. | .vremV .. | .vaddW .. | .vsubW .. | .vmulW ..
  | .vmulhW .. | .vminW .. | .vmaxW .. | .vdivW .. | .vremW .. | .vandV .. | .vorV .. | .vxorV .. | .vandnV ..
  | .vsllV .. | .vsrlV .. | .vsraV .. | .vmulhuV .. | .vandW .. | .vorW .. | .vxorW .. | .vandnW .. | .vsllW ..
  | .vsrlW .. | .vsraW .. | .vmulhuW .. | .vfmaV .. | .vfmsV .. | .vfnmaV .. | .vfnmsV .. | .vfmaW ..
  | .vfmsW .. | .vfnmaW .. | .vfnmsW .. | .vneg .. | .vabs .. | .vsqrt .. | .vexp2 .. | .vlog2 .. | .vrcp ..
  | .vnot .. | .viota .. | .vcmpeqV .. | .vcmpneV .. | .vcmpltV .. | .vcmpleV .. | .vcmpgtV .. | .vcmpgeV ..
  | .vcmpunV .. | .vcmpeqW .. | .vcmpneW .. | .vcmpltW .. | .vcmpleW .. | .vcmpgtW .. | .vcmpgeW ..
  | .vcmpunW .. | .vmv .. | .vsplat .. | .vsel .. | .vmvx .. | .vins .. | .vcvt .. | .pand .. | .por ..
  | .pxor .. | .pandn .. | .pnot .. | .pfirst .. | .pcnt .. | .psetvl .. | .vslideup .. | .vslidedn ..
  | .vperm .. | .vbfly .. | .vcompress .. | .vexpand .. | .vscan .. | .vrev .. | .vredsum .. | .vredmin ..
  | .vredmax .. | .vredand .. | .vredor .. | .vredxor .. | .vredmini .. | .vredmaxi .. | .vsample ..
  | .vtopk .. | .vld .. | .vlds .. | .vldx .. | .loadDataReturn .. | .vst .. | .vsts .. | .vstx .. | .vcadd ..
  | .vcmin .. | .vcmax .. | .vcor .. | .vaadd .. | .vamin .. | .vamax .. | .vaand .. | .vaor .. | .vaxor ..
  | .vaswap .. | .vfence .. | .vbind .. | .vunbind .. | .vbstat .. | .streamFetch .. | .mzero .. | .mmac ..
  | .mmacw .. | .mcvt .. | .mrdrow .. | .mwrrow .. | .mwld .. | .mscl .. | .hgen .. | .hrot .. | .hacc ..
  | .hsign .. | .hdist .. | .hsimm .. | .hfstep .. | .hclean .. | .hfact .. | .svld .. | .svst .. | .svadd ..
  | .svmul .. | .svdot .. | .svtov .. | .svlen .. | .rpost .. | .rwait .. | .routerNode .. | .roundClose ..
  | .cpyt .. | .copyComplete .. | .srdef .. | .srld .. | .srst .. | .srrow .. | .srtrav .. | .srcnt ..
  | .edef .. | .erun .. | .eend .. | .estat .. | .efront .. | .timerExpiry .. | .interrupt .. | .preempt ..
  | .hostmsg .. | .breakpointHalt .. | .wcbDrain .. | .srfMirrorUpdate .. | .ringPostDelivery .. | .tail ..
  | .gangStart .. | .gangComplete .. | .gangPreempt .. | .gangResume .. | .probeTokenSend ..
  | .probeTokenReceive .. | .l2Window .. | .throttleStart .. | .throttleEnd .. | .leaseExpiry ..
  | .counterRotation .. | .replayInputApply .. | .hostApertureWrite .. | .hostSrfRead .. | .hostSrfWrite ..
  | .registerWrite .. | .ralbaFrameReceive .. | .frameRetry .. | .linkLoss .. | .deviceReset .. | .powerLoss ..
  | .recoveryDoorbell .. | .summary .. | .setLaunchQueue .. | .rackLease .. | .setWindow .. | .resetHart ..
  | .attestationReport .. | .retireResource .. | .setBreakpoints .. | .setCounters .. | .readCounters ..
  | .setTrace .. | .readTraceStatus .. | .registerContext .. | .placeAperture .. | .setThot ..
  | .setEthertype .. | .assignRootPort .. | .illegal .. | .fetchTrap .. | .combineApplied ..
  | .haltedHartResume .. | .remoteLinkRestored .. | .rootPortDeviceAccess .. | .boostEnd ..
  | .endedBySupervisorSide .. | .imageVerificationDone .. => none

/-- The x register that an instruction which does not execute at the issue point writes when it completes (R105). -/
def Instr.lateReg : Instr → Option (BitVec 5)
  | .lb d _ _ => some d
  | .lh d _ _ => some d
  | .lw d _ _ => some d
  | .ld d _ _ => some d
  | .lbu d _ _ => some d
  | .lhu d _ _ => some d
  | .lwu d _ _ => some d
  | .setvl d _ => some d
  | .mmode d _ => some d
  | .settile d _ => some d
  | .vmvx d _ _ => some d
  | .pcnt d _ _ => some d
  | .psetvl d _ _ => some d
  | .vbstat d _ => some d
  | .hdist d _ _ _ => some d
  | .hclean d _ _ => some d
  | .svdot d _ _ => some d
  | .svlen d _ => some d
  | .srcnt d _ => some d
  | .erun d _ => some d
  | .estat d _ => some d
  | .efront d => some d
  | .vsample d _ _ _ => some d
  | .srtrav _ _ b => some (even b)
  | .add .. | .sub .. | .and .. | .or .. | .xor .. | .sll .. | .srl .. | .sra .. | .slt .. | .sltu .. | .min ..
  | .max .. | .minu .. | .maxu .. | .andn .. | .orn .. | .clz .. | .ctz .. | .popc .. | .sextw .. | .addw ..
  | .subw .. | .addi .. | .andi .. | .ori .. | .xori .. | .slti .. | .sltiu .. | .slli .. | .srli .. | .srai ..
  | .lui .. | .auipc .. | .mul .. | .mulh .. | .mulhu .. | .mulhsu .. | .div .. | .divu .. | .rem .. | .remu ..
  | .mulw .. | .beq .. | .bne .. | .blt .. | .bge .. | .bltu .. | .bgeu .. | .jal .. | .jalr .. | .loop ..
  | .loopi .. | .sb .. | .sh .. | .sw .. | .sd .. | .amoswap .. | .amoadd .. | .amoand .. | .amoor ..
  | .amoxor .. | .amomin .. | .amomax .. | .amominu .. | .amomaxu .. | .amocas .. | .fence .. | .tfence ..
  | .ecall .. | .ebreak .. | .tret .. | .wfi .. | .cvb .. | .tmark .. | .csrrw .. | .csrrs .. | .csrrc ..
  | .csrrwi .. | .csrrsi .. | .csrrci .. | .faddS .. | .faddD .. | .fsubS .. | .fsubD .. | .fmulS ..
  | .fmulD .. | .fdivS .. | .fdivD .. | .fsqrtS .. | .fsqrtD .. | .fminS .. | .fminD .. | .fmaxS .. | .fmaxD ..
  | .fsgnjS .. | .fsgnjD .. | .fsgnjnS .. | .fsgnjnD .. | .fsgnjxS .. | .fsgnjxD .. | .feqS .. | .feqD ..
  | .fltS .. | .fltD .. | .fleS .. | .fleD .. | .fclassS .. | .fclassD .. | .fmaddS .. | .fmaddD ..
  | .fmsubS .. | .fmsubD .. | .fnmaddS .. | .fnmaddD .. | .fnmsubS .. | .fnmsubD .. | .fcvtws .. | .fcvtwus ..
  | .fcvtls .. | .fcvtlus .. | .fcvtsw .. | .fcvtswu .. | .fcvtsl .. | .fcvtslu .. | .fcvtwd .. | .fcvtwud ..
  | .fcvtld .. | .fcvtlud .. | .fcvtdw .. | .fcvtdwu .. | .fcvtdl .. | .fcvtdlu .. | .fcvtsd .. | .fcvtds ..
  | .syld .. | .syst .. | .sytas .. | .syfaa .. | .sycas .. | .sywait .. | .sybar .. | .ipost .. | .iwait ..
  | .tspawn .. | .ttake .. | .tjoin .. | .tdone .. | .li .. | .vcfg .. | .vtag .. | .vretag .. | .vaddV ..
  | .vsubV .. | .vmulV .. | .vmulhV .. | .vminV .. | .vmaxV .. | .vdivV .. | .vremV .. | .vaddW .. | .vsubW ..
  | .vmulW .. | .vmulhW .. | .vminW .. | .vmaxW .. | .vdivW .. | .vremW .. | .vandV .. | .vorV .. | .vxorV ..
  | .vandnV .. | .vsllV .. | .vsrlV .. | .vsraV .. | .vmulhuV .. | .vandW .. | .vorW .. | .vxorW ..
  | .vandnW .. | .vsllW .. | .vsrlW .. | .vsraW .. | .vmulhuW .. | .vfmaV .. | .vfmsV .. | .vfnmaV ..
  | .vfnmsV .. | .vfmaW .. | .vfmsW .. | .vfnmaW .. | .vfnmsW .. | .vneg .. | .vabs .. | .vsqrt .. | .vexp2 ..
  | .vlog2 .. | .vrcp .. | .vnot .. | .viota .. | .vcmpeqV .. | .vcmpneV .. | .vcmpltV .. | .vcmpleV ..
  | .vcmpgtV .. | .vcmpgeV .. | .vcmpunV .. | .vcmpeqW .. | .vcmpneW .. | .vcmpltW .. | .vcmpleW ..
  | .vcmpgtW .. | .vcmpgeW .. | .vcmpunW .. | .vmv .. | .vsplat .. | .vsel .. | .vins .. | .vcvt .. | .pand ..
  | .por .. | .pxor .. | .pandn .. | .pnot .. | .pfirst .. | .vslideup .. | .vslidedn .. | .vperm ..
  | .vbfly .. | .vcompress .. | .vexpand .. | .vscan .. | .vrev .. | .vredsum .. | .vredmin .. | .vredmax ..
  | .vredand .. | .vredor .. | .vredxor .. | .vredmini .. | .vredmaxi .. | .vtopk .. | .vld ..
  | .vlds .. | .vldx .. | .loadDataReturn .. | .vst .. | .vsts .. | .vstx .. | .vcadd .. | .vcmin ..
  | .vcmax .. | .vcor .. | .vaadd .. | .vamin .. | .vamax .. | .vaand .. | .vaor .. | .vaxor .. | .vaswap ..
  | .vfence .. | .vbind .. | .vunbind .. | .streamFetch .. | .mzero .. | .mmac .. | .mmacw .. | .mcvt ..
  | .mrdrow .. | .mwrrow .. | .mwld .. | .mscl .. | .hgen .. | .hrot .. | .hacc .. | .hsign .. | .hsimm ..
  | .hfstep .. | .hfact .. | .svld .. | .svst .. | .svadd .. | .svmul .. | .svtov .. | .rpost .. | .rwait ..
  | .routerNode .. | .roundClose .. | .cpy .. | .cpys .. | .cpyx .. | .cpyt .. | .copyComplete .. | .srdef ..
  | .srld .. | .srst .. | .srrow .. | .srdense .. | .edef .. | .eend .. | .timerExpiry ..
  | .interrupt .. | .preempt .. | .hostmsg .. | .breakpointHalt .. | .wcbDrain .. | .srfMirrorUpdate ..
  | .ringPostDelivery .. | .tail .. | .gangStart .. | .gangComplete .. | .gangPreempt .. | .gangResume ..
  | .probeTokenSend .. | .probeTokenReceive .. | .l2Window .. | .throttleStart .. | .throttleEnd ..
  | .leaseExpiry .. | .counterRotation .. | .replayInputApply .. | .hostApertureWrite .. | .hostSrfRead ..
  | .hostSrfWrite .. | .registerWrite .. | .ralbaFrameReceive .. | .frameRetry .. | .linkLoss ..
  | .deviceReset .. | .powerLoss .. | .recoveryDoorbell .. | .summary .. | .setLaunchQueue .. | .rackLease ..
  | .setWindow .. | .resetHart .. | .attestationReport .. | .retireResource .. | .setBreakpoints ..
  | .setCounters .. | .readCounters .. | .setTrace .. | .readTraceStatus .. | .registerContext ..
  | .placeAperture .. | .setThot .. | .setEthertype .. | .assignRootPort .. | .illegal .. | .fetchTrap ..
  | .combineApplied .. | .haltedHartResume .. | .remoteLinkRestored .. | .rootPortDeviceAccess ..
  | .boostEnd .. | .endedBySupervisorSide .. | .imageVerificationDone .. => none

/-- The vector register that an element-wise instruction or a load writes, when it writes no other register, predicate or
control register (R141, R165): such an instruction may leave the VIQ behind an outstanding load (R171). -/
def Instr.lane : Instr → Option (BitVec 6)
  | .vaddV d _ _ _ => some d
  | .vsubV d _ _ _ => some d
  | .vmulV d _ _ _ => some d
  | .vmulhV d _ _ _ => some d
  | .vminV d _ _ _ => some d
  | .vmaxV d _ _ _ => some d
  | .vdivV d _ _ _ => some d
  | .vremV d _ _ _ => some d
  | .vaddW d _ _ _ => some d
  | .vsubW d _ _ _ => some d
  | .vmulW d _ _ _ => some d
  | .vmulhW d _ _ _ => some d
  | .vminW d _ _ _ => some d
  | .vmaxW d _ _ _ => some d
  | .vdivW d _ _ _ => some d
  | .vremW d _ _ _ => some d
  | .vandV d _ _ _ => some d
  | .vorV d _ _ _ => some d
  | .vxorV d _ _ _ => some d
  | .vandnV d _ _ _ => some d
  | .vsllV d _ _ _ => some d
  | .vsrlV d _ _ _ => some d
  | .vsraV d _ _ _ => some d
  | .vmulhuV d _ _ _ => some d
  | .vandW d _ _ _ => some d
  | .vorW d _ _ _ => some d
  | .vxorW d _ _ _ => some d
  | .vandnW d _ _ _ => some d
  | .vsllW d _ _ _ => some d
  | .vsrlW d _ _ _ => some d
  | .vsraW d _ _ _ => some d
  | .vmulhuW d _ _ _ => some d
  | .vfmaV d _ _ _ => some d
  | .vfmsV d _ _ _ => some d
  | .vfnmaV d _ _ _ => some d
  | .vfnmsV d _ _ _ => some d
  | .vfmaW d _ _ _ => some d
  | .vfmsW d _ _ _ => some d
  | .vfnmaW d _ _ _ => some d
  | .vfnmsW d _ _ _ => some d
  | .vneg d _ _ => some d
  | .vabs d _ _ => some d
  | .vsqrt d _ _ => some d
  | .vexp2 d _ _ => some d
  | .vlog2 d _ _ => some d
  | .vrcp d _ _ => some d
  | .vnot d _ _ => some d
  | .vmv d _ _ => some d
  | .vsplat d _ _ => some d
  | .vsel d _ _ _ => some d
  | .vcvt d _ _ _ => some d
  | .vld d _ _ _ => some d
  | .vlds d _ _ _ _ => some d
  | .vldx d _ _ _ _ => some d
  | .add .. | .sub .. | .and .. | .or .. | .xor .. | .sll .. | .srl .. | .sra .. | .slt .. | .sltu .. | .min ..
  | .max .. | .minu .. | .maxu .. | .andn .. | .orn .. | .clz .. | .ctz .. | .popc .. | .sextw .. | .addw ..
  | .subw .. | .addi .. | .andi .. | .ori .. | .xori .. | .slti .. | .sltiu .. | .slli .. | .srli .. | .srai ..
  | .lui .. | .auipc .. | .mul .. | .mulh .. | .mulhu .. | .mulhsu .. | .div .. | .divu .. | .rem .. | .remu ..
  | .mulw .. | .beq .. | .bne .. | .blt .. | .bge .. | .bltu .. | .bgeu .. | .jal .. | .jalr .. | .loop ..
  | .loopi .. | .lb .. | .lh .. | .lw .. | .ld .. | .lbu .. | .lhu .. | .lwu .. | .sb .. | .sh .. | .sw ..
  | .sd .. | .amoswap .. | .amoadd .. | .amoand .. | .amoor .. | .amoxor .. | .amomin .. | .amomax ..
  | .amominu .. | .amomaxu .. | .amocas .. | .fence .. | .tfence .. | .ecall .. | .ebreak .. | .tret ..
  | .wfi .. | .cvb .. | .tmark .. | .csrrw .. | .csrrs .. | .csrrc .. | .csrrwi .. | .csrrsi .. | .csrrci ..
  | .faddS .. | .faddD .. | .fsubS .. | .fsubD .. | .fmulS .. | .fmulD .. | .fdivS .. | .fdivD .. | .fsqrtS ..
  | .fsqrtD .. | .fminS .. | .fminD .. | .fmaxS .. | .fmaxD .. | .fsgnjS .. | .fsgnjD .. | .fsgnjnS ..
  | .fsgnjnD .. | .fsgnjxS .. | .fsgnjxD .. | .feqS .. | .feqD .. | .fltS .. | .fltD .. | .fleS .. | .fleD ..
  | .fclassS .. | .fclassD .. | .fmaddS .. | .fmaddD .. | .fmsubS .. | .fmsubD .. | .fnmaddS .. | .fnmaddD ..
  | .fnmsubS .. | .fnmsubD .. | .fcvtws .. | .fcvtwus .. | .fcvtls .. | .fcvtlus .. | .fcvtsw .. | .fcvtswu ..
  | .fcvtsl .. | .fcvtslu .. | .fcvtwd .. | .fcvtwud .. | .fcvtld .. | .fcvtlud .. | .fcvtdw .. | .fcvtdwu ..
  | .fcvtdl .. | .fcvtdlu .. | .fcvtsd .. | .fcvtds .. | .syld .. | .syst .. | .sytas .. | .syfaa ..
  | .sycas .. | .sywait .. | .sybar .. | .ipost .. | .iwait .. | .tspawn .. | .ttake .. | .tjoin .. | .tdone ..
  | .li .. | .setvl .. | .vcfg .. | .vtag .. | .vretag .. | .mmode .. | .settile .. | .viota .. | .vcmpeqV ..
  | .vcmpneV .. | .vcmpltV .. | .vcmpleV .. | .vcmpgtV .. | .vcmpgeV .. | .vcmpunV .. | .vcmpeqW ..
  | .vcmpneW .. | .vcmpltW .. | .vcmpleW .. | .vcmpgtW .. | .vcmpgeW .. | .vcmpunW .. | .vmvx .. | .vins ..
  | .pand .. | .por .. | .pxor .. | .pandn .. | .pnot .. | .pfirst .. | .pcnt .. | .psetvl .. | .vslideup ..
  | .vslidedn .. | .vperm .. | .vbfly .. | .vcompress .. | .vexpand .. | .vscan .. | .vrev .. | .vredsum ..
  | .vredmin .. | .vredmax .. | .vredand .. | .vredor .. | .vredxor .. | .vredmini .. | .vredmaxi ..
  | .vsample .. | .vtopk .. | .loadDataReturn .. | .vst .. | .vsts .. | .vstx .. | .vcadd .. | .vcmin ..
  | .vcmax .. | .vcor .. | .vaadd .. | .vamin .. | .vamax .. | .vaand .. | .vaor .. | .vaxor .. | .vaswap ..
  | .vfence .. | .vbind .. | .vunbind .. | .vbstat .. | .streamFetch .. | .mzero .. | .mmac .. | .mmacw ..
  | .mcvt .. | .mrdrow .. | .mwrrow .. | .mwld .. | .mscl .. | .hgen .. | .hrot .. | .hacc .. | .hsign ..
  | .hdist .. | .hsimm .. | .hfstep .. | .hclean .. | .hfact .. | .svld .. | .svst .. | .svadd .. | .svmul ..
  | .svdot .. | .svtov .. | .svlen .. | .rpost .. | .rwait .. | .routerNode .. | .roundClose .. | .cpy ..
  | .cpys .. | .cpyx .. | .cpyt .. | .copyComplete .. | .srdef .. | .srld .. | .srst .. | .srrow ..
  | .srtrav .. | .srdense .. | .srcnt .. | .edef .. | .erun .. | .eend .. | .estat .. | .efront ..
  | .timerExpiry .. | .interrupt .. | .preempt .. | .hostmsg .. | .breakpointHalt .. | .wcbDrain ..
  | .srfMirrorUpdate .. | .ringPostDelivery .. | .tail .. | .gangStart .. | .gangComplete .. | .gangPreempt ..
  | .gangResume .. | .probeTokenSend .. | .probeTokenReceive .. | .l2Window .. | .throttleStart ..
  | .throttleEnd .. | .leaseExpiry .. | .counterRotation .. | .replayInputApply .. | .hostApertureWrite ..
  | .hostSrfRead .. | .hostSrfWrite .. | .registerWrite .. | .ralbaFrameReceive .. | .frameRetry ..
  | .linkLoss .. | .deviceReset .. | .powerLoss .. | .recoveryDoorbell .. | .summary .. | .setLaunchQueue ..
  | .rackLease .. | .setWindow .. | .resetHart .. | .attestationReport .. | .retireResource ..
  | .setBreakpoints .. | .setCounters .. | .readCounters .. | .setTrace .. | .readTraceStatus ..
  | .registerContext .. | .placeAperture .. | .setThot .. | .setEthertype .. | .assignRootPort .. | .illegal ..
  | .fetchTrap .. | .combineApplied .. | .haltedHartResume .. | .remoteLinkRestored ..
  | .rootPortDeviceAccess .. | .boostEnd .. | .endedBySupervisorSide .. | .imageVerificationDone .. => none

end Sys2Proof
end

