-- ==== Sys2Proof/Machine/Translate.lean ====
section
/-!
DEFINITION. Translation: the page-table walk, the cached translations, the local window, and the classes a translated
address falls into (R88 to R93, R377).
-/

namespace Sys2Proof.Machine

/-- What an access does (R87, R91). -/
inductive Acc where
  | load | store | atomic | fetch
  deriving DecidableEq, Repr

/-- ACC of a fault frame (R87). -/
def Acc.code : Acc → Nat
  | .load => 0 | .store => 1 | .atomic => 2 | .fetch => 3

/-- The access needs W and sets D (R91). -/
def Acc.writes : Acc → Bool
  | .store | .atomic => true
  | .load | .fetch => false

/-- The page fault of an access (R80). -/
def Acc.pageFault : Acc → Cause
  | .load => .pageFaultLd | .store | .atomic => .pageFaultSt | .fetch => .pageFaultFetch

/-- The class a translated byte falls into (R63, R178). -/
inductive Class where
  | device | host | remote | scratch
  deriving DecidableEq, Repr

/-- Where a translated byte lies: its key and class, and for a remote window its context's entry. -/
structure Place where
  key : Nat
  cls : Class
  win : Nat := 0
  deriving DecidableEq, Repr

/-- One page-table entry, field by field (R88). -/
structure Pte where
  mustBeZero : Bool
  cls : Nat
  frame : Nat
  g : Bool
  d : Bool
  a : Bool
  s64 : Bool
  u : Bool
  x : Bool
  w : Bool
  r : Bool
  v : Bool
  deriving DecidableEq, Repr

/-- The entry of a doubleword (R88). -/
def Pte.ofNat (k : Nat) : Pte :=
  { mustBeZero := bits 60 4 k == 0 && bits 10 2 k == 0 && !bit 1 k
    cls := bits 56 4 k, frame := bits 12 44 k * 2 ^ 12
    g := bit 9 k, d := bit 8 k, a := bit 7 k, s64 := bit 6 k, u := bit 5 k, x := bit 4 k, w := bit 3 k, r := bit 2 k
    v := bit 0 k }

/-- The entry is well formed by itself (R88): valid, no reserved bit or class, no W without R. -/
def Pte.ok (e : Pte) : Bool := e.v && e.mustBeZero && e.cls ≤ 2 && !(e.w && !e.r)

/-- The entry is a leaf (R88). -/
def Pte.leaf (e : Pte) : Bool := e.r || e.w || e.x

/-- The class of a leaf (R88). -/
def Pte.pageClass (e : Pte) : PageClass :=
  match e.cls with
  | 0 => .device | 1 => .host | _ => .remote

/-- A canonical address (R88): bits [63:48] equal bit 47. -/
def canonical (va : Nat) : Bool := va / 2 ^ 47 == 0 || va / 2 ^ 47 == 2 ^ 17 - 1

/-- What a walk finds: a leaf (its physical address, its entry, its level), no translation, or an uncorrectable error in
the entry at a physical address (R88, R91). -/
inductive Walk where
  | leaf (pa : Nat) (e : Pte) (level : Nat)
  | fault
  | poison (pa : Nat)
  deriving DecidableEq, Repr

/-- The bits of the address below the page of a leaf at a level (R88). -/
def levelShift (level : Nat) : Nat := 12 + 9 * (4 - level)

/-- A retired channel or stack holds the byte at a physical address (R379). -/
def Dev.unmappedByte (d : Dev) (pa : Nat) : Bool :=
  d.retired.any fun (k, i) => (k = 0 && Config.channelOf pa = i) || (k = 1 && Config.stackOf pa = i)

/-- Device memory holds the `n` bytes from a physical address on (R1, R379): they lie below 384 GiB and in no retired channel
or stack, each 64-byte block looked up at its first byte in the range. -/
def Dev.mapped (d : Dev) (pa n : Nat) : Bool :=
  pa + n ≤ Config.memorySize && (d.retired.isEmpty || !(d.unmappedByte pa ||
    (List.range ((pa + n + 63) / 64 - pa / 64 - 1)).any fun i => d.unmappedByte (64 * (pa / 64 + 1 + i))))

/-- The walk from a table down, `fuel` levels at most (R88). A table entry outside the physical map gives no translation. -/
def walkFrom (d : Dev) (va : Nat) : Nat → Nat → Walk
  | 0, _ => .fault
  | fuel + 1, table =>
    let level := 4 - fuel
    let pa := table + 8 * bits (levelShift level) 9 va
    if !d.mapped pa 8 then .fault
    else match d.poisoned (deviceKey pa) 8 with
    | some _ => .poison pa
    | none =>
      let e := Pte.ofNat (d.read (deviceKey pa) 8)
      if !e.ok then .fault
      else if e.leaf then
        if level = 1 || e.frame % 2 ^ levelShift level != 0 then .fault else .leaf pa e level
      else if level = 4 then .fault
      else walkFrom d va fuel e.frame

/-- The walk of an address through a root table (R88): four levels. -/
def walk (d : Dev) (root va : Nat) : Walk := if canonical va then walkFrom d va 4 root else .fault

/-- The entry whose attributes a piece of a 64 KiB page takes (R90): one of the sixteen, which one is not defined. -/
def largeAttributes (d : Dev) (va pa : Nat) (e : Pte) (level : Nat) : Pte :=
  if level = 4 && e.s64 then
    let j := Config.largePagePiece (va / 4096 + 2 ^ 64 * d.freeCount) % 16
    let e' := Pte.ofNat (d.read (deviceKey (pa - pa % 128 + 8 * j)) 8)
    { e' with frame := e'.frame - e'.frame % 65536 + va / 4096 % 16 * 4096 }
  else e

/-- The permission check of a leaf (R91). -/
def permits (e : TlbEntry) (p : Priv) (acc : Acc) : Bool :=
  (match p with
   | .u => e.u
   | .s => !(acc = .fetch && e.u)) &&
  (match acc with
   | .load => e.r
   | .store | .atomic => e.w
   | .fetch => e.x)

/-- The translation of one 4 KiB page that a leaf gives. -/
def tlbOf (va : Nat) (e : Pte) (level : Nat) : TlbEntry :=
  { vpn := va / 4096, frame := e.frame + va % 2 ^ levelShift level / 4096 * 4096, cls := e.pageClass
    r := e.r, w := e.w, x := e.x, u := e.u, g := e.g, dirty := e.d
    pages := if level = 4 then (if e.s64 then 16 else 1) else 2 ^ (levelShift level - 12) }

/-- The walk's write of A, and of D for a store or atomic, into the entry of the leaf it uses (R91). -/
def Dev.setUsed (d : Dev) (pa : Nat) (acc : Acc) : Dev :=
  let k := d.read (deviceKey pa) 8
  let k' := k ||| 2 ^ 7 ||| (if acc.writes then 2 ^ 8 else 0)
  if k' = k then d else { d with mem := Memory.writeN d.mem (deviceKey pa) (bytesOf 8 k') }

/-- A translation by walking (R88, R91): the page, and the device with the entry marked used. -/
def walkPage (d : Dev) (root : Nat) (p : Priv) (va : Nat) (acc : Acc) : Except Failure (TlbEntry × Dev) :=
  match walk d root va with
  | .fault => .error { cause := acc.pageFault }
  | .poison pa => .error { cause := .poison, info3 := word pa, walkEntry := some pa }
  | .leaf pa e level =>
    let e' := largeAttributes d va pa e level
    let t := tlbOf va e' level
    if e'.ok && permits t p acc then .ok ({ t with dirty := t.dirty || acc.writes }, d.setUsed pa acc)
    else .error { cause := acc.pageFault }

/-- Is a physical page part of a declared pool, the sparse-region class (R63, R249)? -/
def Dev.poolPage (d : Dev) (page : Nat) : Bool := d.regions.any fun r => r.pages.contains page

/-- A physical page that an array or a pool may hold (R1, R249, R287, R379): device memory that is in the physical map and in no
declared pool. -/
def Dev.plainPage (d : Dev) (page : Nat) : Bool := !d.poolPage page && d.mapped (4096 * page) 4096

/-- The window entry a remote leaf names (R377). -/
def Dev.window (d : Dev) (ctx num : Nat) : Option Window := d.windows.find? fun w => w.ctx == ctx && w.num == num

/-- The number of a link state (R377). -/
def linkCode : LinkState → Nat
  | .up => 0 | .retrying => 1 | .down => 2 | .refused => 3 | .notSet => 4

/-- The status word of a window (R377). -/
def Window.statusWord (w : Window) : Nat :=
  (if w.state = .up then 1 else 0) + w.lost.toNat * 2 + linkCode w.state * 2 ^ 8 + w.failed % 2 ^ 32 * 2 ^ 32

/-- Where `n` bytes at an address of a translated page lie: the class checks of steps 3 and 4 of R62 that depend on the
page alone. -/
def classify (d : Dev) (ctx : Nat) (e : TlbEntry) (va n : Nat) : Except Failure Place :=
  let off := va % 4096
  match e.cls with
  | .device =>
    if d.poolPage (e.frame / 4096) || !d.mapped (e.frame + off) n then .error { cause := .access }
    else .ok { key := deviceKey (e.frame + off), cls := .device }
  | .host => .ok { key := hostKey (e.frame + off), cls := .host }
  | .remote =>
    let num := e.frame / 2 ^ 48 % 256
    let woff := e.frame % 2 ^ 48 + off
    match d.window ctx num with
    | none => .error { cause := .access }
    | some w =>
      if w.length < woff + n || w.state = .notSet then .error { cause := .access }
      else if w.state = .down || w.state = .refused then .error { cause := .remoteLink, info3 := word w.statusWord }
      else .ok { key := remoteKey w.peer w.peerCtx (w.base + woff), cls := .remote, win := num }

/-- An address in the local window (R89): its byte of the scratchpad, or why the access is refused. -/
def localWindow (c : Core) (va : Nat) (acc : Acc) : Except Failure Place :=
  if acc = .fetch then .error { cause := .pageFaultFetch }
  else if va - Config.windowBase < c.scratchSize then
    .ok { key := scratchKey c.id (va - Config.windowBase), cls := .scratch }
  else .error { cause := .access }

/-- The address lies in the local window (R89). -/
def inWindow (va : Nat) : Bool := Config.windowBase ≤ va && va < Config.windowBase + Config.windowSize

/-- The hart's cached translation of an address that serves an access: a store also needs D set (R91). -/
def cached (tlb : List TlbEntry) (va : Nat) (acc : Acc) : Option TlbEntry :=
  tlb.find? fun e => e.vpn == va / 4096 && (!acc.writes || e.dirty)

/-- The hart's cached translations with a new one. -/
def fill (tlb : List TlbEntry) (e : TlbEntry) : List TlbEntry := e :: tlb.filter fun e' => e'.vpn != e.vpn

/-- The translation of one page for the hart (R88, R91, R92): from its cached translations or by a walk that fills
them. -/
def State.page (s : State) (va : Nat) (acc : Acc) : Except Failure (TlbEntry × State) :=
  match cached s.hart.tlb va acc with
  | some e => if permits e s.hart.priv acc then .ok (e, s) else .error { cause := acc.pageFault }
  | none =>
    match walkPage s.dev s.hart.root s.hart.priv va acc with
    | .error f => .error f
    | .ok (e, d) => .ok (e, { s with dev := d, hart := { s.hart with tlb := fill s.hart.tlb e } })

/-- Where `n` bytes of the hart's own access lie, all on one page (steps 2 to 4 of R62). -/
def State.locate (s : State) (va n : Nat) (acc : Acc) : Except (Failure × State) (Place × State) :=
  if inWindow va then
    match localWindow s.core va acc with
    | .ok p => .ok (p, s)
    | .error f => .error (f, s)
  else
    match s.page va acc with
    | .error f => .error (f, s)
    | .ok (e, s') =>
      match classify s'.dev s'.hart.ctx e va n with
      | .ok p => .ok (p, s')
      | .error f => .error (f, s')

/-- Where `n` bytes of an engine's access lie (R197, R331): a walk through the engine's own root. -/
def engineLocate (d : Dev) (c : Core) (ctx root : Nat) (p : Priv) (va n : Nat) (acc : Acc) :
    Except Failure (Place × Dev) :=
  if inWindow va then (localWindow c va acc).map fun pl => (pl, d)
  else
    match walkPage d root p va acc with
    | .error f => .error f
    | .ok (e, d') => (classify d' ctx e va n).map fun pl => (pl, d')

end Sys2Proof.Machine
end

