-- ==== Sys2Proof/Machine/Access.lean ====
section
/-!
DEFINITION. Accesses: the write-combining buffer, what a load sees, the coherence point, and the scalar access with its
checks (R62 to R65, R320 to R325).
-/

namespace Sys2Proof.Machine

/-- Who reads (R323): a scalar or vector load, or an engine thread with its number. -/
inductive Reader where
  | scalar | vector
  | engine (fork : Nat)
  deriving DecidableEq, Repr

/-- Is the entry visible to a reader of hart `h` (R323)? A provisional entry is visible to later scalar loads of its own hart
alone: those that wait for the same instruction as it does, or for a later one, `p`. -/
def WcbEntry.visible (e : WcbEntry) (h : Nat) (p : Option Word) (r : Reader) : Bool :=
  if e.hart != h then e.prov.isNone
  else match r with
    | .scalar => (e.prov.all fun b => p.any fun p => !p.ult b) && (e.kind = .scalar || e.seenS)
    | .vector => e.prov.isNone && (e.kind = .vector || e.seenV)
    | .engine fork => e.prov.isNone && e.seenE.any fun f => f ≤ fork

/-- The byte of an entry at a key. -/
def WcbEntry.byte (e : WcbEntry) (k : Nat) : Option Byte :=
  if e.key ≤ k && !e.gap.contains (k - e.key) then e.bytes[k - e.key]? else none

/-- Does the entry hold a byte of a range? -/
def WcbEntry.touches (e : WcbEntry) (k n : Nat) : Bool :=
  overlaps e.key e.bytes.length k n && (e.gap.isEmpty || (List.range n).any fun i => (e.byte (k + i)).isSome)

/-- Do two entries share a byte? -/
def WcbEntry.meets (e f : WcbEntry) : Bool :=
  overlaps e.key e.bytes.length f.key f.bytes.length &&
    ((e.gap.isEmpty && f.gap.isEmpty) ||
      (List.range f.bytes.length).any fun i => (e.byte (f.key + i)).isSome && (f.byte (f.key + i)).isSome)

/-- The byte of the latest-entered visible entry (R323). -/
def wcbByte (w : List WcbEntry) (h : Nat) (p : Option Word) (r : Reader) (k : Nat) : Option Byte :=
  match w with
  | [] => none
  | e :: t =>
    match wcbByte t h p r k with
    | some b => some b
    | none => if e.visible h p r then e.byte k else none

/-- The byte a reader of hart `h` on this core sees (R323). -/
def State.viewByte (s : State) (h : Nat) (r : Reader) (k : Nat) : Byte :=
  (wcbByte s.core.wcb h s.hart.prov r k).getD (Memory.read s.dev.mem k)

/-- The bytes a reader sees. -/
def State.viewBytes (s : State) (h : Nat) (r : Reader) (k : Nat) : Nat → List Byte
  | 0 => []
  | n + 1 => s.viewByte h r k :: s.viewBytes h r (k + 1) n

/-- The number a reader sees in `n` bytes. -/
def State.view (s : State) (h : Nat) (r : Reader) (k n : Nat) : Nat := ofBytes (s.viewBytes h r k n)

/-- The first byte of the range that would be read from the coherence point and holds an uncorrectable error. -/
def State.viewPoison (s : State) (h : Nat) (r : Reader) (k n : Nat) : Option Nat :=
  s.dev.poison.find? fun p => k ≤ p && p < k + n && (wcbByte s.core.wcb h s.hart.prov r p).isNone

/-- Does a reader see a tainted byte (R183, R337): of a tainted entry, or of a tainted block at the coherence point? -/
def State.viewTainted (s : State) (h : Nat) (r : Reader) (k n : Nat) : Bool :=
  s.dev.rangeTainted k n ||
    s.core.wcb.any fun e => e.tainted && e.visible h s.hart.prov r && e.touches k n

/-- The entry marked as read by hart `h` (R321). -/
def WcbEntry.taken (e : WcbEntry) (h : Nat) : Reader → WcbEntry
  | .scalar => { e with readS := if e.readS.contains h then e.readS else h :: e.readS }
  | .vector => { e with readV := if e.readV.contains h then e.readV else h :: e.readV }
  | .engine _ => e

/-- The entries whose value a reader of hart `h` takes from the range are marked as read by it (R321). -/
def State.markTaken (s : State) (h : Nat) (r : Reader) (k n : Nat) : State :=
  let f (e : WcbEntry) : WcbEntry :=
    if (e.visible h s.hart.prov r && e.touches k n) = true then e.taken h r else e
  { s with core := { s.core with wcb := s.core.wcb.map f } }

/-- The physical address of a key (R80): within its class, in a scratchpad the offset (R103). -/
def physOf (k : Nat) : Nat :=
  if isDeviceKey k then k else if isHostKey k then k - 2 ^ 56 else if isScratchKey k then k % 2 ^ 32 else k % 2 ^ 58

/-! ### The core at the front -/

/-- The core with a number. -/
def State.coreOf (s : State) (id : Nat) : Core :=
  if s.core.id = id then s.core
  else match s.cores.find? fun c => c.id == id with
    | some c => c
    | none => { id := id }

/-- The core with a number comes to the front, the other one behind it. -/
def State.frontCore (s : State) (id : Nat) : State :=
  if s.core.id = id then s
  else { s with core := s.coreOf id, cores := s.core :: s.cores.filter fun c => c.id != id }

/-- A change of the state seen from a core, with the core before it back at the front. -/
def State.atCore (s : State) (id : Nat) (f : State → State) : State := (f (s.frontCore id)).frontCore s.core.id

/-! ### The coherence point -/

/-- The hart's strip buffers that hold a byte of the range are spoiled (R191). -/
def Hart.spoil (core key n : Nat) (h : Hart) : Hart :=
  if h.ident.core = core then
    { h with streams := h.streams.map fun b => b.map fun b =>
        if overlaps key n (scratchKey core b.sbuf) (b.depth * b.rb) then { b with spoiled := true } else b }
  else h

/-- Bytes applied at their coherence point for hart `uid` (R322): memory, metadata, the race mark (R338, R340), and the
strip buffers they spoil. -/
def State.apply (s : State) (uid key : Nat) (bs : List Byte) (m : WriteMeta) : State :=
  let races := (s.dev.block key).races m && !isHostKey key
  let s := { s with dev := s.dev.write key bs m }
  let s := if races then s.mapHart uid fun h => { h with taint := { h.taint with race := true, seen := true } } else s
  if isScratchKey key then s.mapHarts (Hart.spoil ((key - 2 ^ 58) / 2 ^ 32) key bs.length) else s

/-- The windows with one entry changed. -/
def Dev.mapWindow (d : Dev) (ctx num : Nat) (f : Window → Window) : Dev :=
  { d with windows := d.windows.map fun w => if w.ctx = ctx && w.num = num then f w else w }

/-- A window entry changed, and its status word in device memory kept up to date (R377). -/
def Dev.updateWindow (d : Dev) (ctx num : Nat) (f : Window → Window) : Dev :=
  let d := d.mapWindow ctx num f
  match d.window ctx num with
  | some w => d.write (deviceKey w.status) (bytesOf 8 w.statusWord) {}
  | none => d

/-- The window's link carries accesses (R377). -/
def Window.carries (w : Window) : Bool := w.state = .up || w.state = .retrying

/-- No port reaches the window's peer, and the link is not lost yet: nothing arrives there meanwhile (R378). -/
def Window.isCut (w : Window) : Bool := w.carries && w.cut.isSome

/-- Posted accesses that a lost link drops: they are counted, and LOST is set (R378). -/
def Window.drop (n : Nat) (w : Window) : Window := { w with failed := w.failed + n, lost := w.lost || n != 0 }

/-- The bytes from a key on, in one piece or, where a merge has left gaps, byte by byte. -/
def piecesOf (key : Nat) (bytes : List Byte) (gap : List Nat) : List (Nat × List Byte) :=
  if gap.isEmpty then [(key, bytes)]
  else (bytes.zipIdx.filter fun b => !gap.contains b.2).map fun b => (key + b.2, [b.1])

/-- What a write of an entry records. -/
def WcbEntry.meta (e : WcbEntry) : WriteMeta :=
  { tainted := e.tainted, writer := e.writer, scalar := e.kind = .scalar, whole := e.whole, after := e.after }

/-- The store that an entry posts on its window. -/
def WcbEntry.post (e : WcbEntry) : Posted :=
  { key := e.key, bytes := e.bytes, gap := e.gap, hart := e.hart, tainted := e.tainted, writer := e.writer
    scalar := e.kind = .scalar, whole := e.whole, after := e.after }

/-- A posted store reaches its peer (R378). -/
def State.deliver (s : State) (p : Posted) : State :=
  (piecesOf p.key p.bytes p.gap).foldl (fun s x => s.apply p.hart x.1 x.2
    { tainted := p.tainted, writer := p.writer, scalar := p.scalar, whole := p.whole, after := p.after }) s

/-- The next `n` posted stores of a window reach the peer, in order (R378); when none is left, frames that were sent again are
all acknowledged. -/
def State.deliverPosted (s : State) (ctx num n : Nat) : State :=
  match s.dev.window ctx num with
  | none => s
  | some w =>
    let s := (w.posted.take n).foldl State.deliver s
    let up := w.state = .retrying && (w.posted.drop n).isEmpty
    let f (w : Window) : Window := { w with posted := w.posted.drop n, tries := 0, state := if up then .up else w.state }
    { s with dev := if up then s.dev.updateWindow ctx num f else s.dev.mapWindow ctx num f }

/-- Every posted access of a window reaches the peer, in order (R378), unless no port reaches it. -/
def State.flushWindow (s : State) (ctx num : Nat) : State :=
  match s.dev.window ctx num with
  | none => s
  | some w =>
    if w.isCut || (w.posted.isEmpty && w.state != .retrying) then s else s.deliverPosted ctx num w.posted.length

/-- What leaves the buffer: a remote entry is posted on its window (R63, R378), or dropped when the link is lost; any other
is applied. Of an eager core it reaches the peer at once, behind what is posted before it. -/
def State.send (s : State) (e : WcbEntry) : State :=
  match e.window with
  | some (c, n) =>
    if !(s.dev.window c n).any Window.carries then { s with dev := s.dev.updateWindow c n (Window.drop 1) }
    else
      let s := { s with dev := s.dev.mapWindow c n fun w => { w with posted := w.posted ++ [e.post] } }
      if s.core.eager then s.flushWindow c n else s
  | none => (piecesOf e.key e.bytes e.gap).foldl (fun s p => s.apply e.hart p.1 p.2 e.meta) s

/-- Must `e` drain before the later entry `f` (R322)? They share bytes, or are ordered elements of one store. -/
def WcbEntry.before (e f : WcbEntry) : Bool :=
  e.meets f || (e.hart == f.hart && e.group.isSome && (e.group == f.group || (f.resumed && f.group.isSome)))

/-! ### Logical order -/

/-- The logical number of a hart (R335): gang, logical core, logical hart. -/
def State.logical (s : State) (uid : Nat) : Nat × Nat × Nat :=
  match (s.hart :: s.parked).find? fun h => h.ident.uid == uid with
  | some h => (h.ident.gang, h.ident.lcore, h.ident.lhart)
  | none => (0, 0, 0)

/-- Lexicographic order of logical numbers. -/
def lexLt (a b : Nat × Nat × Nat) : Bool :=
  a.1 < b.1 || (a.1 = b.1 && (a.2.1 < b.2.1 || (a.2.1 = b.2.1 && a.2.2 < b.2.2)))

/-- The place of the entry that drains next in logical order (R335): of those that no earlier entry holds back, the one of
the lowest writer, the oldest of several. -/
def nextLogical (rank : Nat → Nat × Nat × Nat) (w : List WcbEntry) : Option Nat :=
  let free := (List.range w.length).filter fun i =>
    w[i]?.any fun f => f.prov.isNone && !((w.take i).any fun e => e.before f)
  free.foldl (fun b i => match b with
    | none => some i
    | some j =>
      match w[i]?, w[j]? with
      | some e, some f => if lexLt (rank e.hart) (rank f.hart) then some i else some j
      | _, _ => some j) none

/-- Does the hart with a number run under DETM.ARB (R335)? -/
def State.arb (s : State) (uid : Nat) : Bool := (s.hart :: s.parked).any fun h => h.ident.uid == uid && h.detm.arb

/-- Entries that are not provisional drain in logical order (R335) until none satisfies the test. -/
def drainRanked (p : WcbEntry → Bool) : Nat → State → State
  | 0, s => s
  | fuel + 1, s =>
    if !s.core.wcb.any fun e => e.prov.isNone && p e then s
    else match nextLogical s.logical s.core.wcb with
    | none => s
    | some i =>
      match s.core.wcb[i]? with
      | none => s
      | some e => drainRanked p fuel ({ s with core := { s.core with wcb := s.core.wcb.eraseIdx i } }.send e)

/-- The entries that satisfy a test with those that must drain before them, and the entries that stay (R322). -/
def drainSplit (p : WcbEntry → Bool) : List WcbEntry → List WcbEntry × List WcbEntry
  | [] => ([], [])
  | e :: t =>
    let (d, k) := drainSplit p t
    if p e || d.any e.before then (e :: d, k) else (d, e :: k)

/-- The entries that satisfy the test drain, after those that must drain before them (R322), under DETM.ARB in logical order
(R335). A provisional entry does not drain: one that stands before them is discarded with what its hart has issued ahead
(R85). -/
def State.drainTo (s : State) (p : WcbEntry → Bool) : State :=
  let s := if s.core.wcb.any fun e => p e && s.arb e.hart then drainRanked p s.core.wcb.length s else s
  let (d, k) := drainSplit (fun e => e.prov.isNone && p e) s.core.wcb
  let s := (d.filter fun e => e.prov.isSome).foldl (fun s e => s.squash e.hart) { s with core := { s.core with wcb := k } }
  (d.filterMap WcbEntry.keepRetired).foldl State.send s

/-- Every entry that overlaps the range drains, with those before them (R322, R325). -/
def State.drainRange (s : State) (k n : Nat) : State := s.drainTo fun e => e.touches k n

/-- Every entry of a hart drains, with those before them. -/
def State.drainHart (s : State) (uid : Nat) : State := s.drainTo fun e => e.hart = uid

/-- The stronger of two orders of an entry, with the wider scope (R324). -/
def strongerRelease : Option Scope → Option Scope → Option Scope
  | none, r => r
  | r, none => r
  | some a, some b =>
    let n : Scope → Nat := fun | .hart => 0 | .core => 1 | .die => 2 | .device => 3 | .system => 4
    if n a < n b then some b else some a

/-- `e2` merged into `e1` (R324): the bytes of `e2` over those of `e1`, in the place of `e1`. Of two provisional entries it waits
for what `e2` waits for. -/
def WcbEntry.merged (e1 e2 : WcbEntry) : WcbEntry :=
  let lo := min e1.key e2.key
  let hi := max (e1.key + e1.bytes.length) (e2.key + e2.bytes.length)
  let b (i : Nat) : Option Byte := (e2.byte (lo + i)).or (e1.byte (lo + i))
  { e1 with
    key := lo
    bytes := (List.range (hi - lo)).map fun i => (b i).getD 0
    gap := (List.range (hi - lo)).filter fun i => (b i).isNone
    release := strongerRelease e1.release e2.release
    tainted := e1.tainted || e2.tainted
    prov := e2.prov
    under := if e1.prov = e2.prov then e1.under
      else { prov := e1.prov, key := e1.key, bytes := e1.bytes, gap := e1.gap, tainted := e1.tainted } :: e1.under }

/-- May `e2` merge into `e1` (R324), as far as the two themselves decide? -/
def mayMerge (e1 e2 : WcbEntry) : Bool :=
  e1.kind = .scalar && e2.kind = .scalar && e1.hart == e2.hart && !e1.closed && e1.prov.isSome == e2.prov.isSome
    && e1.key / 8 == e2.key / 8 && (e2.key + e2.bytes.length - 1) / 8 == e1.key / 8

/-- The buffer, newest entry first, with `e` merged into the newest entry that allows it, if no entry between overlaps the
aligned 8 bytes (R324). -/
def mergeInto (e : WcbEntry) : List WcbEntry → Option (List WcbEntry)
  | [] => none
  | f :: t =>
    if mayMerge f e then some (f.merged e :: t)
    else if f.touches (e.key / 8 * 8) 8 then none
    else (mergeInto e t).map fun t => f :: t

/-- An entry enters the buffer: merged into an earlier one where R324 allows it, else behind the others. -/
def enter (merging : Bool) (w : List WcbEntry) (e : WcbEntry) : List WcbEntry :=
  match (if merging then mergeInto e w.reverse else none) with
  | some w => w.reverse
  | none => w ++ [e]

/-- The entry at a place in the buffer merges into an earlier one, where R324 allows it. -/
def mergeAt (w : List WcbEntry) (k : Nat) : Option (List WcbEntry) :=
  w[k]?.bind fun e => (mergeInto e (w.take k).reverse).map fun l => l.reverse ++ w.drop (k + 1)

/-- The entry has to stay behind a provisional store: one that must drain before it, or before an entry that must (R85, R322).
`w` holds the entries before it, oldest first. -/
def stuckBehind (w : List WcbEntry) (e : WcbEntry) : Bool :=
  (drainSplit (fun f => f.before e) w).1.any fun f => f.prov.isSome

/-- A store whose instruction waits for the older one with number `p` is performed (R322): it enters the buffer, or in an eager core
drains as it enters, unless it is provisional or has to wait for a provisional store (R85). -/
def State.performFor (s : State) (p : Option Word) (e : WcbEntry) : State :=
  let e := { e with prov := p }
  if s.core.eager && e.prov.isNone && !stuckBehind s.core.wcb e then
    if s.arb e.hart then { s with core := { s.core with wcb := s.core.wcb ++ [e] } }.drainTo fun f => f == e
    else
      let s := s.drainTo fun f => f.before e
      s.send e
  else { s with core := { s.core with wcb := enter s.core.merging s.core.wcb e } }

/-- The accesses of the step retire with their instruction and are performed later (R322): those of the oldest instruction. -/
def State.defers (s : State) : Bool := s.deferring && s.hart.ahead.isNone

/-- An access joins those that are still to be performed. -/
def State.addLate (s : State) (l : Late) : State := { s with hart := { s.hart with late := s.hart.late ++ [l] } }

/-- A store is performed, or left to be performed (R322). -/
def State.perform (s : State) (e : WcbEntry) : State :=
  if s.defers then s.addLate (.store e) else s.performFor s.hart.prov e

/-- The entry of a store of the hart at the front. -/
def State.entry (s : State) (kind : AccessKind) (pl : Place) (bs : List Byte) : WcbEntry :=
  { key := pl.key, bytes := bs, hart := s.hart.ident.uid, kind := kind, seq := s.dev.nextId
    window := if pl.cls = .remote then some (s.hart.ctx, pl.win) else none }

/-- No later entry of the hart merges into any it has made: a fence has issued, which is to close them, or a load that takes the
value of the last of them (R324). -/
def State.closeAll (s : State) : State :=
  { s with core := { s.core with wcb := s.core.wcb.map fun e =>
      if e.hart = s.hart.ident.uid then { e with closed := true } else e } }

/-- No later entry of the hart merges into an earlier one across this point (R324). -/
def State.closeEntries (s : State) : State :=
  { s with core := { s.core with wcb := s.core.wcb.map fun e =>
      if e.hart = s.hart.ident.uid && e.prov.isNone then { e with closed := true } else e } }

/-! ### Accesses performed early -/

/-- What an access of the instruction at pc read early, where it reads now (R322). -/
def State.earlyAt (s : State) (elem key : Nat) : Option Early :=
  s.hart.early.find? fun e => e.elem == elem && e.key == key

/-- An older load reads bytes now: what a younger load of its kind has read of them early is forgotten, so that the two take
effect in program order (R64, R180), and under order=elem what it has read of higher elements too. -/
def Queued.reread (q : Queued) (vector : Bool) (key n : Nat) : Queued :=
  let hit (e : Early) : Bool := e.vector == vector && overlaps e.key e.size key n
  let low := ((q.early.filter hit).map Early.elem).min?
  { q with early := q.early.filter fun e => !hit e && !(q.instr.isOrdered && low.any fun k => decide (k < e.elem)) }

/-- An older load reads bytes now, before every younger load that waits. -/
def Ahead.reread (a : Ahead) (vector : Bool) (key n : Nat) : Ahead :=
  { a with queue := a.queue.map fun q => q.reread vector key n }

/-- The hart's younger early reads of the bytes are forgotten. -/
def State.reread (s : State) (vector : Bool) (key n : Nat) : State :=
  match s.hart.ahead with
  | none => s
  | some a => { s with hart := { s.hart with ahead := some (a.reread vector key n) } }

/-! ### Accesses performed late -/

/-- What a load of `n` bytes puts into its register (R61). -/
def fillReg (n : Nat) (signExtends : Bool) (v : Nat) : Word := if signExtends then wordI (signed (8 * n) v) else word v

/-- Does the access, still to be performed, touch a byte of the range? -/
def Late.touches (k n : Nat) : Late → Bool
  | .load _ key size _ _ => overlaps key size k n
  | .store e => e.touches k n

/-- The number of the next thread when the access issued. -/
def Late.seq : Late → Nat
  | .load _ _ _ _ seq => seq
  | .store e => e.seq

/-- Is the access of kind s, a scalar one? -/
def Late.isScalar : Late → Bool
  | .load _ _ _ _ _ => true
  | .store e => e.kind = .scalar

/-- Must an access be performed before the later one (R64, R180)? Two of one kind that share a byte, and the ordered elements of
one store, in program order. -/
def Late.before : Late → Late → Bool
  | .load _ k n _ _, .load _ k' n' _ _ => overlaps k n k' n'
  | .load _ k n _ _, .store f => f.kind = .scalar && f.touches k n
  | .store e, .load _ k n _ _ => e.kind = .scalar && e.touches k n
  | .store e, .store f => e.kind = f.kind && e.before f

/-- The accesses that satisfy a test, with those that must be performed before one of them or one of `last`, then `last`; and the
accesses that stay. -/
def lateSplit (p : Late → Bool) (last : List Late) : List Late → List Late × List Late
  | [] => (last, [])
  | l :: t =>
    let (d, k) := lateSplit p last t
    if p l || d.any l.before then (l :: d, k) else (d, l :: k)

/-- The register that a load still to be performed writes. -/
def Late.reg : Late → Option (BitVec 5)
  | .load r _ _ _ _ => some r
  | .store _ => none

/-- TAINT of a hart whose scalar load has read a tainted block (R340). -/
def TaintBits.afterLoad (t : TaintBits) (tainted : Bool) : TaintBits :=
  if tainted then { t with read := true, escape := true } else t

/-- An access of a hart of the core at the front is performed after its instruction has retired (R322). -/
def State.performLate (s : State) (uid : Nat) : Late → State
  | .load r key n signExtends _ =>
    let v := ofBytes ((List.range n).map fun i => (wcbByte s.core.wcb uid none .scalar (key + i)).getD (Memory.read s.dev.mem (key + i)))
    let t := s.dev.rangeTainted key n || s.core.wcb.any fun e => e.tainted && e.visible uid none .scalar && e.touches key n
    let f (e : WcbEntry) : WcbEntry := if e.visible uid none .scalar && e.touches key n then e.taken uid .scalar else e
    let s := { s with core := { s.core with wcb := s.core.wcb.map f } }
    s.mapHart uid fun h =>
      { h with taint := h.taint.afterLoad t
               x := if r = 0 then h.x else h.x.set r.toNat (fillReg n signExtends v) (by simpa using r.isLt) }
  | .store e => s.performFor none e

/-- The accesses of a hart that are still to be performed and that a test selects are performed, after those that must be before
them (R322). -/
def State.landLate (s : State) (uid : Nat) (p : Late → Bool) : State :=
  match s.findSlot uid with
  | none => s
  | some h =>
    if h.late.any p then
      let (d, k) := lateSplit p [] h.late
      d.foldl (fun s l => s.performLate uid l) (s.mapHart uid fun h => { h with late := k })
    else s

/-- Every access of the hart at the front that is still to be performed is performed. -/
def State.landAll (s : State) : State := s.landLate s.hart.ident.uid fun _ => true

/-- The access at a place among those still to be performed is performed, after those that must be before it (R322). -/
def State.performPlace (s : State) (place : Nat) : Option State :=
  s.hart.late[place]?.map fun l =>
    let (d, k) := lateSplit (fun _ => false) [l] (s.hart.late.take place)
    let h := { s.hart with late := k ++ s.hart.late.drop (place + 1) }
    d.foldl (fun s l => s.performLate s.hart.ident.uid l) { s with hart := h }

/-- An entry of the buffer merges into an earlier one (R324). -/
def State.mergePlace (s : State) (place : Nat) : Option State :=
  (mergeAt s.core.wcb place).map fun w => { s with core := { s.core with wcb := w } }

/-! ### The scalar access -/

/-- The lowest byte of an access that a watchpoint of the hart for its kind covers (R346). -/
def State.watchHit (s : State) (va n : Nat) (acc : Acc) : Option Nat :=
  ((s.dev.debugOf s.hart.ident.uid).watches.filter fun w =>
    overlaps va n w.base.toNat w.len && (match acc with
      | .load => w.load
      | .store => w.store
      | .atomic => w.load || w.store
      | .fetch => w.fetch)).foldl (fun b w =>
        let a := max va w.base.toNat
        some (match b with | none => a | some b => min a b)) none

/-- The trap of a watched access (R346): TVAL the lowest watched address. -/
def watchTrap (a elem : Nat) : Trap := { cause := .watch, val := word a, elem := elem }

/-- The trap of a failed access whose own frame is given (R62, R91): a walk's failure has the walk's frame. -/
def accessTrap (f : Failure) (val : Word) (elem : Nat) (acc : Acc) (va : Word) (fr : Frame) : Trap :=
  if f.cause = .watch then { cause := .watch, val := f.info3, elem := elem }
  else match f.walkEntry with
  | some pa =>
    { cause := f.cause, val := val, elem := elem
      info := .frame { kind := 5, acc := acc.code, size := 8, base := va, info3 := word pa } }
  | none =>
    { cause := f.cause, val := val, elem := elem
      info := .frame { fr with info3 := if f.cause = .poison || f.cause = .remoteLink then f.info3 else fr.info3 } }

/-- The frame of a scalar access (R87). -/
def scalarFrame (va : Word) (n : Nat) (acc : Acc) : Frame := { kind := 0, acc := acc.code, size := n, base := va }

/-- The trap of a failed scalar access (R62, R80). -/
def scalarTrap (f : Failure) (va : Word) (n : Nat) (acc : Acc) : Trap :=
  accessTrap f va 0 acc va (scalarFrame va n acc)

/-- Steps 1 to 4 of R62 for a scalar access of `n` bytes, after the hart's earlier scalar accesses to those bytes (R64). -/
def scalarPlace (va : Word) (n : Nat) (acc : Acc) : M Place := fun s =>
  if va.toNat % n ≠ 0 then .error (s, .trap (scalarTrap { cause := .misaligned } va n acc))
  else
    match s.locate va.toNat n acc with
    | .ok (pl, s') => .ok (pl, if s'.defers then s' else s'.landLate s'.hart.ident.uid fun l => l.isScalar && l.touches pl.key n)
    | .error (f, s') => .error (s', .trap (scalarTrap f va n acc))

/-- The window of a remote place (R377). -/
def State.windowOf (s : State) (pl : Place) : Option Window :=
  if pl.cls = .remote then s.dev.window s.hart.ctx pl.win else none

/-- The failure of an access whose window has lost its link (R168, R377). -/
def linkFailure (w : Window) : Failure := { cause := .remoteLink, info3 := word w.statusWord }

/-- An access through a window that no port serves waits, with its fetch pin released (R378). -/
def awaitWindow (pl : Place) : M Unit := fun s =>
  if (s.windowOf pl).any Window.isCut then waitHere s else .ok ((), s)

/-- The value a load takes (R323): the one its access read early, or what it reads now. -/
def State.loadValue (s : State) (vector : Bool) (elem : Nat) (pl : Place) (n : Nat) : Nat × Bool × State :=
  let u := s.hart.ident.uid
  let r : Reader := if vector then .vector else .scalar
  match s.earlyAt elem pl.key with
  | some e => (e.value, e.tainted, s)
  | none => (s.view u r pl.key n, s.viewTainted u r pl.key n, (s.markTaken u r pl.key n).reread vector pl.key n)

/-- Step 5 of R62 and the value of a scalar load of `n` bytes at a place. A load through a window follows the accesses
posted before it (R378). -/
def scalarValue (pl : Place) (va : Word) (n : Nat) (acc : Acc) : M Nat := fun s =>
  (awaitWindow pl >>= fun _ => fun s =>
    let s := if pl.cls = .remote then s.flushWindow s.hart.ctx pl.win else s
    match (if (s.earlyAt 0 pl.key).isSome then none else s.viewPoison s.hart.ident.uid .scalar pl.key n) with
    | some _ => .error (s, .trap (scalarTrap { cause := .poison, info3 := word (physOf pl.key) } va n acc))
    | none =>
      match s.watchHit va.toNat n acc with
      | some a => .error (s, .trap (watchTrap a 0))
      | none =>
        let (v, t, s) := s.loadValue false 0 pl n
        .ok (v, s.setTaint (s.hart.taint.afterLoad t))) s

end Sys2Proof.Machine
end

