-- ==== Sys2Proof/Machine/Fp.lean ====
section
/-!
DEFINITION. Floating point of every format (R70 to R75, R123 to R128): exact values, one rounding, the flags.
-/

namespace Sys2Proof.Machine

/-- A floating-point format: exponent and fraction widths, bias, and whether it is F8E4, which has no infinity (R123). -/
structure Fmt where
  ebits : Nat
  fbits : Nat
  bias : Int
  e4 : Bool := false
  deriving DecidableEq, Repr

/-- binary32 (R124). -/
def fmtF32 : Fmt := { ebits := 8, fbits := 23, bias := 127 }

/-- binary64 (R124). -/
def fmtF64 : Fmt := { ebits := 11, fbits := 52, bias := 1023 }

/-- The format of an F tag (R123, R124); other tags are no format and get binary64, which no caller asks for. -/
def fmtOf : Tag → Fmt
  | .f8e4 => { ebits := 4, fbits := 3, bias := 7, e4 := true }
  | .f8e5 => { ebits := 5, fbits := 2, bias := 15 }
  | .bf16 => { ebits := 8, fbits := 7, bias := 127 }
  | .f16 => { ebits := 5, fbits := 10, bias := 15 }
  | .f32 => fmtF32
  | _ => fmtF64

/-- Width of a format in bits. -/
def Fmt.width (f : Fmt) : Nat := 1 + f.ebits + f.fbits

/-- The smallest exponent of a normal number. -/
def Fmt.emin (f : Fmt) : Int := 1 - f.bias

/-- A value: a NaN, an infinity, or ±m·2^e exactly. -/
inductive Fv where
  | nan (signalling : Bool)
  | inf (neg : Bool)
  | fin (neg : Bool) (m : Nat) (e : Int)
  deriving DecidableEq, Repr

/-- The flags NV, DZ, OF, UF, NX as a number (R70). -/
abbrev Flags := BitVec 5

/-- NV. -/
def flagNV : Flags := 16
/-- DZ. -/
def flagDZ : Flags := 8
/-- OF. -/
def flagOF : Flags := 4
/-- UF. -/
def flagUF : Flags := 2
/-- NX. -/
def flagNX : Flags := 1

/-- The canonical NaN of a format (R125). -/
def Fmt.nan (f : Fmt) : Nat :=
  if f.e4 then 0x7F else (2 ^ f.ebits - 1) * 2 ^ f.fbits + 2 ^ (f.fbits - 1)

/-- The sign of a value. -/
def Fv.neg : Fv → Bool
  | .nan _ => false
  | .inf n => n
  | .fin n _ _ => n

/-- The value is a signalling NaN. -/
def Fv.isSnan : Fv → Bool
  | .nan s => s
  | _ => false

/-- The value is a NaN. -/
def Fv.isNan : Fv → Bool
  | .nan _ => true
  | _ => false

/-- The value is zero. -/
def Fv.isZero : Fv → Bool
  | .fin _ 0 _ => true
  | _ => false

/-- The sign bit of an encoding. -/
def Fmt.sign (f : Fmt) (k : Nat) : Bool := bit (f.width - 1) k

/-- The value of an encoding (R123, R124). -/
def Fmt.decode (f : Fmt) (k : Nat) : Fv :=
  let frac := bits 0 f.fbits k
  let ex := bits f.fbits f.ebits k
  let neg := f.sign k
  if f.e4 && ex = 15 && frac = 7 then .nan false
  else if !f.e4 && ex = 2 ^ f.ebits - 1 then
    if frac = 0 then .inf neg else .nan (!bit (f.fbits - 1) frac)
  else if ex = 0 then .fin neg frac (f.emin - f.fbits)
  else .fin neg (frac + 2 ^ f.fbits) ((ex : Int) - f.bias - f.fbits)

/-- A subnormal encoding. -/
def Fmt.subnormal (f : Fmt) (k : Nat) : Bool := bits f.fbits f.ebits k = 0 && bits 0 f.fbits k != 0

/-- The value a source element has under FZ (R128): under FZ = 2 a subnormal is a zero of its sign. -/
def Fmt.source (f : Fmt) (fz : Fz) (k : Nat) : Fv :=
  if fz = .flushAll && f.subnormal k then .fin (f.sign k) 0 0 else f.decode k

/-- The encoding of an infinity (R123: F8E4 has none and takes ±448, with OF and NX). -/
def Fmt.infinity (f : Fmt) (neg : Bool) : Nat × Flags :=
  let s := if neg then 2 ^ (f.width - 1) else 0
  if f.e4 then (s + 0x7E, flagOF ||| flagNX) else (s + (2 ^ f.ebits - 1) * 2 ^ f.fbits, 0)

/-- The largest finite magnitude's encoding. -/
def Fmt.maxFinite (f : Fmt) : Nat := if f.e4 then 0x7E else (2 ^ f.ebits - 1) * 2 ^ f.fbits - 1

/-- The encoding of a zero. -/
def Fmt.zero (f : Fmt) (neg : Bool) : Nat := if neg then 2 ^ (f.width - 1) else 0

/-- The canonical NaN, with NV when the operation was invalid. -/
def Fmt.nanResult (f : Fmt) (invalid : Bool) : Nat × Flags := (f.nan, if invalid then flagNV else 0)

/-- Does rounding go up in magnitude? `m` is the truncated magnitude, `half` and `rest` the bit below it and whether
anything lies below that (R70). -/
def roundsUp (rm : Rm) (neg : Bool) (m : Nat) (half rest : Bool) : Bool :=
  match rm with
  | .rne => half && (rest || m % 2 == 1)
  | .rtz => false
  | .rup => !neg && (half || rest)
  | .rdn => neg && (half || rest)
  | .rna => half

/-- A magnitude m·2^e (`sticky`: a little more than that) cut to a multiple of 2^q and rounded: the multiple, and
whether the result is inexact. -/
def roundTo (rm : Rm) (neg : Bool) (m : Nat) (e : Int) (sticky : Bool) (q : Int) : Nat × Bool :=
  if q ≤ e then
    let t := m <<< (e - q).toNat
    (if roundsUp rm neg t false sticky then t + 1 else t, sticky)
  else
    let k := (q - e).toNat
    let t := m >>> k
    let half := m.testBit (k - 1)
    let rest := sticky || m % 2 ^ (k - 1) != 0
    (if roundsUp rm neg t half rest then t + 1 else t, half || rest)

/-- Round (R5) of ±m·2^e, m > 0, into a format: the encoding and OF, UF, NX. Tininess is detected after rounding (R70);
`flush` is FZ ≠ 0 (R128); F8E4 saturates (R123). -/
def Fmt.round (f : Fmt) (rm : Rm) (flush neg : Bool) (m : Nat) (e : Int) (sticky : Bool) : Nat × Flags :=
  let s := if neg then 2 ^ (f.width - 1) else 0
  let ex := e + (m.log2 : Int)
  -- with an unbounded exponent, for overflow and tininess
  let (u, _) := roundTo rm neg m e sticky (ex - f.fbits)
  let uq := ex - (f.fbits : Int)
  let above := if f.e4 then decide (9 ≤ ex) || (ex = 8 && decide (14 < u))
    else decide (f.bias < ex) || (ex = f.bias && u == 2 ^ (f.fbits + 1))
  if above then
    if f.e4 then (s + 0x7E, flagOF ||| flagNX)
    else
      let toInf := match rm with
        | .rne | .rna => true
        | .rtz => false
        | .rup => !neg
        | .rdn => neg
      (s + (if toInf then (2 ^ f.ebits - 1) * 2 ^ f.fbits else f.maxFinite), flagOF ||| flagNX)
  else
    let tiny := decide (ex < f.emin) && !(ex = f.emin - 1 && u == 2 ^ (f.fbits + 1))
    let q := max uq (f.emin - f.fbits)
    let (r, inexact) := roundTo rm neg m e sticky q
    let nx : Flags := if inexact then flagNX else 0
    if flush && r != 0 && r < 2 ^ f.fbits && q = f.emin - f.fbits then (s, flagUF ||| flagNX)
    else
      let uf : Flags := if tiny && inexact then flagUF else 0
      -- adding the exponent field to a carried-out significand carries into it
      let enc := if r < 2 ^ f.fbits then r
        else ((q + f.fbits + f.bias).toNat - 1) * 2 ^ f.fbits + r
      (s + enc, nx ||| uf)

/-- Round of a value, zero and the specials included. -/
def Fmt.roundFv (f : Fmt) (rm : Rm) (flush : Bool) : Fv → Nat × Flags
  | .nan s => f.nanResult s
  | .inf n => f.infinity n
  | .fin n m e => if m = 0 then (f.zero n, 0) else f.round rm flush n m e false

/-- The exact sum of two finite values, a zero sum taking the sign of IEEE 754-2019 for the mode (R74). -/
def finAdd (rm : Rm) (n1 : Bool) (m1 : Nat) (e1 : Int) (n2 : Bool) (m2 : Nat) (e2 : Int) : Fv :=
  let e := min e1 e2
  let z : Int := (if n1 then -1 else 1) * (m1 <<< (e1 - e).toNat : Nat) + (if n2 then -1 else 1) * (m2 <<< (e2 - e).toNat : Nat)
  if z = 0 then .fin (if n1 = n2 && m1 = 0 && m2 = 0 then n1 else rm = .rdn) 0 0
  else .fin (decide (z < 0)) z.natAbs e

/-- The exact sum, or an invalid operation (none). -/
def Fv.add (rm : Rm) : Fv → Fv → Option Fv
  | .inf a, .inf b => if a = b then some (.inf a) else none
  | .inf a, _ => some (.inf a)
  | _, .inf b => some (.inf b)
  | .fin n1 m1 e1, .fin n2 m2 e2 => some (finAdd rm n1 m1 e1 n2 m2 e2)
  | a, _ => some a

/-- The exact product, or an invalid operation (none). -/
def Fv.mul : Fv → Fv → Option Fv
  | .inf a, .inf b => some (.inf (a != b))
  | .inf a, .fin n m _ => if m = 0 then none else some (.inf (a != n))
  | .fin n m _, .inf b => if m = 0 then none else some (.inf (n != b))
  | .fin n1 m1 e1, .fin n2 m2 e2 => some (.fin (n1 != n2) (m1 * m2) (e1 + e2))
  | a, _ => some a

/-- The value with its sign inverted. -/
def Fv.negate : Fv → Fv
  | .nan s => .nan s
  | .inf n => .inf !n
  | .fin n m e => .fin (!n) m e

/-- A result of two operands: the canonical NaN when either is a NaN, with NV for a signalling one (R72), else the
exact result rounded, or NV when there is none. -/
def arith2 (f : Fmt) (rm : Rm) (flush : Bool) (a b : Fv) (r : Option Fv) : Nat × Flags :=
  if a.isNan || b.isNan then f.nanResult (a.isSnan || b.isSnan)
  else match r with
    | none => f.nanResult true
    | some v => f.roundFv rm flush v

/-- a + b (R73). -/
def fpAdd (f : Fmt) (rm : Rm) (flush : Bool) (a b : Fv) : Nat × Flags := arith2 f rm flush a b (a.add rm b)

/-- a − b (R73). -/
def fpSub (f : Fmt) (rm : Rm) (flush : Bool) (a b : Fv) : Nat × Flags := arith2 f rm flush a b (a.add rm b.negate)

/-- a · b (R73). -/
def fpMul (f : Fmt) (rm : Rm) (flush : Bool) (a b : Fv) : Nat × Flags := arith2 f rm flush a b (a.mul b)

/-- ±a·b ± c with one rounding (R74): a product of 0 and ∞ sets NV even beside a quiet NaN. -/
def fpFma (f : Fmt) (rm : Rm) (flush negP negC : Bool) (a b c : Fv) : Nat × Flags :=
  let zeroInf := match a, b with
    | .inf _, .fin _ 0 _ => true
    | .fin _ 0 _, .inf _ => true
    | _, _ => false
  if a.isNan || b.isNan || c.isNan then f.nanResult (a.isSnan || b.isSnan || c.isSnan || zeroInf)
  else match a.mul b with
    | none => f.nanResult true
    | some p =>
      match (if negP then p.negate else p).add rm (if negC then c.negate else c) with
      | none => f.nanResult true
      | some v => f.roundFv rm flush v

/-- a / b (R73): DZ for a finite nonzero over zero, NV for 0/0 and ∞/∞. -/
def fpDiv (f : Fmt) (rm : Rm) (flush : Bool) (a b : Fv) : Nat × Flags :=
  match a, b with
  | .nan s, b => f.nanResult (s || b.isSnan)
  | _, .nan s => f.nanResult s
  | .inf _, .inf _ => f.nanResult true
  | .inf n, .fin n' _ _ => f.infinity (n != n')
  | .fin n _ _, .inf n' => (f.zero (n != n'), 0)
  | .fin n m e, .fin n' m' e' =>
    if m' = 0 then
      if m = 0 then f.nanResult true
      else let (r, fl) := f.infinity (n != n'); (r, fl ||| flagDZ)
    else if m = 0 then (f.zero (n != n'), 0)
    else
      let k := f.fbits + 4 + m'.log2
      f.round rm flush (n != n') ((m <<< k) / m') (e - e' - k) ((m <<< k) % m' != 0)

/-- The integer square root of `n`, built bit by bit from bit `k - 1` on. -/
def isqrt (n : Nat) : Nat → Nat → Nat
  | 0, r => r
  | k + 1, r => isqrt n k (if (r + 2 ^ k) * (r + 2 ^ k) ≤ n then r + 2 ^ k else r)

/-- √a (R73): −0 gives −0, a value below zero NV. -/
def fpSqrt (f : Fmt) (rm : Rm) (flush : Bool) : Fv → Nat × Flags
  | .nan s => f.nanResult s
  | .inf n => if n then f.nanResult true else f.infinity false
  | .fin n m e =>
    if m = 0 then (f.zero n, 0)
    else if n then f.nanResult true
    else
      let k := 2 * (f.fbits + 4)
      let (m', e') := if e % 2 = 0 then (m <<< k, e - (k : Int)) else (m <<< (k + 1), e - (k + 1 : Int))
      let r := isqrt m' (m'.log2 / 2 + 1) 0
      f.round rm flush false r (e' / 2) (r * r != m')

/-- Compares two numbers, no NaN: −1, 0 or 1. -/
def Fv.compare : Fv → Fv → Int
  | .inf a, .inf b => if a = b then 0 else if a then -1 else 1
  | .inf a, _ => if a then -1 else 1
  | _, .inf b => if b then 1 else -1
  | .fin n1 m1 e1, .fin n2 m2 e2 =>
    let e := min e1 e2
    let z : Int := (if n1 then -1 else 1) * (m1 <<< (e1 - e).toNat : Nat)
      - (if n2 then -1 else 1) * (m2 <<< (e2 - e).toNat : Nat)
    if z < 0 then -1 else if z = 0 then 0 else 1
  | _, _ => 0

/-- minimumNumber and maximumNumber of two encodings (R73): a NaN beside a number gives the number, −0 is below +0. The
values are the sources as FZ reads them; the result is the encoding of the chosen value, flushed under FZ (R128). -/
def fpMinMax (f : Fmt) (flush big : Bool) (a b : Fv) : Nat × Flags :=
  let fl : Flags := if a.isSnan || b.isSnan then flagNV else 0
  let out (v : Fv) : Nat × Flags := match v with
    | .inf n => ((f.infinity n).1, fl)
    | v => let (r, fl') := f.roundFv .rne flush v; (r, fl ||| fl')
  match a.isNan, b.isNan with
  | true, true => (f.nan, fl)
  | true, false => out b
  | false, true => out a
  | false, false =>
    let c := a.compare b
    let aFirst := if c = 0 then a.neg else decide (c < 0)
    out (if aFirst = !big then a else b)

/-- The comparison relations (R73, R139). -/
inductive Rel where
  | eq | ne | lt | le | gt | ge | un
  deriving DecidableEq, Repr

/-- A relation of two values, with NV as R73 and R139 give: eq, ne and un on a signalling NaN only, the ordered
relations on any NaN. -/
def fpCompare (r : Rel) (a b : Fv) : Bool × Flags :=
  let anyNan := a.isNan || b.isNan
  let snan := a.isSnan || b.isSnan
  let c := a.compare b
  match r with
  | .eq => (!anyNan && c = 0, if snan then flagNV else 0)
  | .ne => (anyNan || c ≠ 0, if snan then flagNV else 0)
  | .un => (anyNan, if snan then flagNV else 0)
  | .lt => (!anyNan && c < 0, if anyNan then flagNV else 0)
  | .le => (!anyNan && c ≤ 0, if anyNan then flagNV else 0)
  | .gt => (!anyNan && c > 0, if anyNan then flagNV else 0)
  | .ge => (!anyNan && c ≥ 0, if anyNan then flagNV else 0)

/-- fclass (R73): one bit of ten. -/
def fpClass (f : Fmt) (k : Nat) : Nat :=
  match f.decode k with
  | .inf n => if n then 1 else 2 ^ 7
  | .nan s => if s then 2 ^ 8 else 2 ^ 9
  | .fin n m _ =>
    if m = 0 then (if n then 2 ^ 3 else 2 ^ 4)
    else if f.subnormal k then (if n then 2 ^ 2 else 2 ^ 5)
    else (if n then 2 ^ 1 else 2 ^ 6)

/-- A value rounded to an integer under a mode, and whether it changed. -/
def fpToInt (rm : Rm) (neg : Bool) (m : Nat) (e : Int) : Int × Bool :=
  let (r, x) := roundTo rm neg m e false 0
  (if neg then -(r : Int) else r, x)

/-- Conversion to an integer of a range (R75): out of range, ∞ and NaN give an end of the range with NV. -/
def fpConvInt (rm : Rm) (lo hi : Int) : Fv → Int × Flags
  | .nan _ => (hi, flagNV)
  | .inf n => (if n then lo else hi, flagNV)
  | .fin n m e =>
    let (z, x) := fpToInt rm n m e
    if z < lo then (lo, flagNV) else if hi < z then (hi, flagNV) else (z, if x then flagNX else 0)

/-- An integer rounded into a format (R75, R137). -/
def fpOfInt (f : Fmt) (rm : Rm) (flush : Bool) (z : Int) : Nat × Flags :=
  if z = 0 then (0, 0) else f.round rm flush (decide (z < 0)) z.natAbs 0 false

/-- ln 2 as a fixed-point number of 800 bits, truncated. -/
def ln2Fixed : Nat := 0xb17217f7d1cf79abc9e3b39803f2f6af40f343267298b62d8a0d175b8baafa2be7b876206debac98559552fb4afa1b10ed2eae35c138214427573b291169b8253e96ca16224ae8c51acbda11317c387eb9ea9bc3b136603b256fa0ec7657f74b72ce87b1

/-- The terms of the exponential series of y·2^-p from the k-th on: each from the one before. -/
def expSum (p y : Nat) : Nat → Nat → Nat → Nat → Nat
  | 0, _, _, acc => acc
  | n + 1, k, t, acc => let t' := t * y / 2 ^ p / k; expSum p y n (k + 1) t' (acc + t')

/-- 2^(x·2^-p) for 0 ≤ x < 2^p as a fixed-point number of p bits: a lower and an upper bound. -/
def exp2Bounds (p x : Nat) : Nat × Nat :=
  let y := x * (ln2Fixed >>> (800 - p)) / 2 ^ p
  let n := p / 4 + 10
  let s := expSum p y n 1 (2 ^ p) (2 ^ p)
  (s, s + 4 * n + 16)

/-- The terms of the series of 2·atanh(t·2^-p). -/
def atanhSum (p t2 : Nat) : Nat → Nat → Nat → Nat → Nat
  | 0, _, _, acc => acc
  | n + 1, k, t, acc => atanhSum p t2 n (k + 2) (t * t2 / 2 ^ p) (acc + 2 * t / k)

/-- log2(m / 2^l) for 2^l < m < 2^(l+1) as a fixed-point number of p bits: a lower and an upper bound. -/
def log2Bounds (p m l : Nat) : Nat × Nat :=
  let t := (m - 2 ^ l) * 2 ^ p / (m + 2 ^ l)
  let n := p / 3 + 4
  let s := atanhSum p (t * t / 2 ^ p) n 1 t 0
  let ln := ln2Fixed >>> (800 - p)
  (s * 2 ^ p / (ln + 1), (s + 8 * n + 16) * 2 ^ p / ln + 1)

/-- Rounds a value known to lie strictly between lo·2^e and hi·2^e, doubling the precision of the bounds until both ends
round alike. -/
def roundBetween (f : Fmt) (rm : Rm) (flush neg : Bool) (bounds : Nat → Nat × Nat) (e : Nat → Int) : Nat → Nat → Nat × Flags
  | 0, p => let (lo, _) := bounds p; f.round rm flush neg lo (e p) true
  | n + 1, p =>
    let (lo, hi) := bounds p
    let r := f.round rm flush neg lo (e p) true
    if r = f.round rm flush neg (hi - 1) (e p) true then r else roundBetween f rm flush neg bounds e n (2 * p)

/-- 2^a, correctly rounded (R156). -/
def fpExp2 (f : Fmt) (rm : Rm) (flush : Bool) : Fv → Nat × Flags
  | .nan s => f.nanResult s
  | .inf n => if n then (f.zero false, 0) else f.infinity false
  | .fin n m e =>
    if m = 0 then f.round rm flush false 1 0 false
    else if 16 < e + (m.log2 : Int) then
      if n then f.round rm flush false 1 (-20000) true else f.round rm flush false 1 20000 true
    else
      -- a = z / 2^t exactly
      let t := if e < 0 then (-e).toNat else 0
      let z : Int := (if n then -1 else 1) * (if e < 0 then (m : Int) else ((m <<< e.toNat : Nat) : Int))
      let i := z / (2 ^ t : Nat)
      let fr := (z % (2 ^ t : Nat)).toNat
      if fr = 0 then f.round rm flush false 1 i false
      else roundBetween f rm flush false
        (fun p =>
          let x := (fr <<< p) >>> t
          if x = 0 then (2 ^ p, 2 ^ p + 1)
          else if x = 2 ^ p - 1 then ((exp2Bounds p x).1, 2 ^ (p + 1))
          else ((exp2Bounds p x).1, (exp2Bounds p (x + 1)).2))
        (fun p => i - p) 3 96

/-- log2 a, correctly rounded (R156). -/
def fpLog2 (f : Fmt) (rm : Rm) (flush : Bool) : Fv → Nat × Flags
  | .nan s => f.nanResult s
  | .inf n => if n then f.nanResult true else f.infinity false
  | .fin n m e =>
    if m = 0 then let (r, fl) := f.infinity true; (r, fl ||| flagDZ)
    else if n then f.nanResult true
    else
      let l := m.log2
      let ex : Int := e + l
      if m = 2 ^ l then fpOfInt f rm flush ex
      else if 0 ≤ ex then
        roundBetween f rm flush false
          (fun p => let (lo, hi) := log2Bounds p m l; (ex.toNat * 2 ^ p + lo, ex.toNat * 2 ^ p + hi)) (fun p => -p) 3 96
      else
        roundBetween f rm flush true
          (fun p => let (lo, hi) := log2Bounds p m l; ((-ex).toNat * 2 ^ p - hi, (-ex).toNat * 2 ^ p - lo)) (fun p => -p) 3 96

/-- 1 / a (R156). -/
def fpRcp (f : Fmt) (rm : Rm) (flush : Bool) (a : Fv) : Nat × Flags := fpDiv f rm flush (.fin false 1 0) a

end Sys2Proof.Machine
end

