-- ==== Sys2Proof/Machine/Flags.lean ====
section
/-!
DEFINITION. The flag computations: FCSR's sticky flags (R70), the flags, SATF and RNINV of VTYPE (R127), and TAINT
(R340).
-/

namespace Sys2Proof.Machine

/-- FCSR's flags only ever gain (R70). -/
def State.raiseFcsr (s : State) (f : Flags) : State :=
  { s with hart := { s.hart with fcsr := { s.hart.fcsr with flags := s.hart.fcsr.flags ||| f } } }

/-- What the elements of a vector instruction have raised (R127). -/
structure Raised where
  flags : Flags := 0
  satf : Bool := false
  rninv : Bool := false
  deriving DecidableEq, Repr

/-- Two elements' marks together. -/
def Raised.or (a b : Raised) : Raised :=
  { flags := a.flags ||| b.flags, satf := a.satf || b.satf, rninv := a.rninv || b.rninv }

/-- VTYPE's sticky bits gain what the elements raised (R126, R127). -/
def VType.raise (t : VType) (r : Raised) : VType :=
  { t with flags := t.flags ||| r.flags, satf := t.satf || r.satf, rninv := t.rninv || r.rninv }

/-- The hart's VTYPE gains what the elements raised. -/
def State.raise (s : State) (r : Raised) : State := s.setVType (s.hart.vec.vtype.raise r)

/-- TAINT gains SEEN: the hart wrote a tainted element group or block (R340). -/
def State.markSeen (s : State) (b : Bool) : State :=
  if b then s.setTaint { s.hart.taint with seen := true } else s

/-- TAINT gains ESCAPE: a tainted value passed into a place without taint bits (R339, R340). -/
def State.markEscape (s : State) (b : Bool) : State :=
  if b then s.setTaint { s.hart.taint with escape := true } else s

/-- TAINT gains READ: the hart loaded from a tainted block (R340). -/
def State.markRead (s : State) (b : Bool) : State :=
  if b then s.setTaint { s.hart.taint with read := true } else s

end Sys2Proof.Machine
end

