-- ==== Sys2Proof/Machine/Elem.lean ====
section
/-!
DEFINITION. What an operation does to one element, by the class of its tag (R127 to R139, R153 to R159).
-/

namespace Sys2Proof.Machine

/-- An element result: its bits and the marks it raises. -/
abbrev ElemRes := Nat × Raised

/-- A floating-point result as an element result. -/
def ofFp (r : Nat × Flags) : ElemRes := (r.1, { flags := r.2 })

/-- The flush setting of results (R128): FZ ≠ 0. -/
def VType.flush (t : VType) : Bool := t.fz != .keep

/-- A clamp to a range, and whether it changed the value. -/
def clampTo (lo hi z : Int) : Int × Bool := if z < lo then (lo, true) else if hi < z then (hi, true) else (z, false)

/-- The value of an I, W or HC element (R120, R134): HC reads 0x80 as −127. -/
def elemInt (t : Tag) (k : Nat) : Int :=
  match tagClass t with
  | .w => k
  | .hc => let z := signed 8 k; if z = -128 then -127 else z
  | _ => signed (8 * tagWidth t) k

/-- An integer result of an I or W tag (R129): wrapped, or clamped with SATF under SAT. -/
def intResult (t : Tag) (sat : Bool) (z : Int) : ElemRes :=
  let n := 8 * tagWidth t
  if sat then
    let (c, x) := if tagClass t = .w then clampTo 0 ((2 ^ n : Nat) - 1) z
      else clampTo (-(2 ^ (n - 1) : Nat)) ((2 ^ (n - 1) : Nat) - 1) z
    (wrap n c, { satf := x })
  else (wrap n z, {})

/-- An HC result, clamped to −127 to 127 with SATF (R134). -/
def hcResult (z : Int) : ElemRes := let (c, x) := clampTo (-127) 127 z; (wrap 8 c, { satf := x })

/-! ### Residues (R131 to R133) -/

/-- The moduli of the three channels (R131). -/
def rnModuli (t : Tag) : Nat × Nat × Nat := if t = .rn12 then (15, 16, 17) else (255, 256, 257)

/-- M, the product of the moduli (R131). -/
def rnM (t : Tag) : Nat := if t = .rn12 then 4080 else 16776960

/-- The channels of an element reduced, and whether it was non-canonical (R131). -/
def rnRead (t : Tag) (k : Nat) : (Nat × Nat × Nat) × Bool :=
  let (a, b, c, z) := if t = .rn12 then (bits 0 4 k, bits 4 4 k, bits 8 5 k, bits 13 3 k)
    else (bits 0 8 k, bits 8 8 k, bits 16 9 k, bits 25 7 k)
  let (ma, mb, mc) := rnModuli t
  ((a % ma, b % mb, c % mc), ma ≤ a || mb ≤ b || mc ≤ c || z != 0)

/-- Is an element a non-canonical residue (R131)? -/
def rnInvalid (t : Tag) (k : Nat) : Bool := tagClass t = .rn && (rnRead t k).2

/-- The element of three channels (R131). -/
def rnPack (t : Tag) (a b c : Nat) : Nat := if t = .rn12 then a + b * 2 ^ 4 + c * 2 ^ 8 else a + b * 2 ^ 8 + c * 2 ^ 16

/-- The residue of an integer (R133). -/
def rnOfInt (t : Tag) (z : Int) : Nat :=
  let x := (z % (rnM t : Int)).toNat
  let (ma, mb, mc) := rnModuli t
  rnPack t (x % ma) (x % mb) (x % mc)

/-- The signed value of an element by the Chinese remainder theorem (R133), and whether it was non-canonical. -/
def rnValue (t : Tag) (k : Nat) : Int × Bool :=
  let ((a, b, c), nc) := rnRead t k
  let (e1, e2, e3) := if t = .rn12 then (2176, 3825, 2160) else (8421376, 16711425, 8421120)
  let x := (a * e1 + b * e2 + c * e3) % rnM t
  (if 2 * x < rnM t then (x : Int) else (x : Int) - rnM t, nc)

/-- A channel-wise operation of residues, modulo each modulus (R132). -/
def rnOp (t : Tag) (f : Int → Int → Int) (x y : Nat) : ElemRes :=
  let ((a1, b1, c1), n1) := rnRead t x
  let ((a2, b2, c2), n2) := rnRead t y
  let (ma, mb, mc) := rnModuli t
  let g (p q m : Nat) : Nat := (f p q % (m : Int)).toNat
  (rnPack t (g a1 a2 ma) (g b1 b2 mb) (g c1 c2 mc), { rninv := n1 || n2 })

/-! ### Arithmetic and logic (R139, R153, R154) -/

/-- The operations of majors 0x31 to 0x34 (R36). -/
inductive VecOp where
  | add | sub | mul | mulh | min | max | div | rem | and | or | xor | andn | sll | srl | sra | mulhu
  deriving DecidableEq, Repr

/-- Is the operation defined for the class (R139)? -/
def VecOp.defined (op : VecOp) (c : TagClass) : Bool :=
  match op, c with
  | _, .none => false
  | _, .i | _, .w => true
  | .add, .f | .sub, .f | .mul, .f | .min, .f | .max, .f | .div, .f => true
  | .add, .rn | .sub, .rn | .mul, .rn => true
  | .and, .hb | .or, .hb | .xor, .hb | .andn, .hb => true
  | .add, .hc | .sub, .hc | .min, .hc | .max, .hc => true
  | _, _ => false

/-- Bitwise and shift operations on elements of `n` bits (R153): shifts by b modulo the width. -/
def bitOp (op : VecOp) (n : Nat) (arith : Bool) (a b : Nat) : Nat :=
  match op with
  | .and => a &&& b
  | .or => a ||| b
  | .xor => a ^^^ b
  | .andn => a &&& (b ^^^ ones n)
  | .sll => (a <<< (b % n)) % 2 ^ n
  | .srl => a >>> (b % n)
  | _ => if arith then wrap n (signed n a / (2 ^ (b % n) : Nat)) else a >>> (b % n)

/-- An integer operation of the I and W classes (R129, R153). -/
def intOp (op : VecOp) (t : Tag) (sat : Bool) (a b : Nat) : ElemRes :=
  let n := 8 * tagWidth t
  let x := elemInt t a
  let y := elemInt t b
  match op with
  | .add => intResult t sat (x + y)
  | .sub => intResult t sat (x - y)
  | .mul => intResult t sat (x * y)
  | .mulh => (wrap (2 * n) (x * y) / 2 ^ n, {})
  | .mulhu => (a * b / 2 ^ n, {})
  | .min => (if y < x then b else a, {})
  | .max => (if x < y then b else a, {})
  | .div => if b = 0 then (ones n, {}) else intResult t sat (x.tdiv y)
  | .rem => if b = 0 then (a, {}) else (wrap n (x.tmod y), {})
  | _ => (bitOp op n (tagClass t = .i) a b, {})

/-- A floating-point operation (R154). -/
def floatOp (op : VecOp) (t : Tag) (vt : VType) (a b : Nat) : ElemRes :=
  let f := fmtOf t
  let x := f.source vt.fz a
  let y := f.source vt.fz b
  ofFp (match op with
    | .add => fpAdd f vt.rm vt.flush x y
    | .sub => fpSub f vt.rm vt.flush x y
    | .mul => fpMul f vt.rm vt.flush x y
    | .div => fpDiv f vt.rm vt.flush x y
    | .min => fpMinMax f vt.flush false x y
    | _ => fpMinMax f vt.flush true x y)

/-- The element result of an operation on elements of one tag (R139). -/
def VecOp.elem (op : VecOp) (t : Tag) (vt : VType) (a b : Nat) : ElemRes :=
  match tagClass t with
  | .f => floatOp op t vt a b
  | .rn => rnOp t (match op with | .add => (· + ·) | .sub => (· - ·) | _ => (· * ·)) a b
  | .hc => match op with
    | .add => hcResult (elemInt t a + elemInt t b)
    | .sub => hcResult (elemInt t a - elemInt t b)
    | .min => hcResult (Min.min (elemInt t a) (elemInt t b))
    | _ => hcResult (Max.max (elemInt t a) (elemInt t b))
  | .hb => (bitOp op 32 false a b, {})
  | _ => intOp op t vt.sat a b

/-- A fused form (R155): ±(a·b) ± d. -/
def fusedElem (negP negC : Bool) (t : Tag) (vt : VType) (a b d : Nat) : ElemRes :=
  let z (x y w : Int) : Int := (if negP then -(x * y) else x * y) + (if negC then -w else w)
  match tagClass t with
  | .f => let f := fmtOf t; ofFp (fpFma f vt.rm vt.flush negP negC (f.source vt.fz a) (f.source vt.fz b) (f.source vt.fz d))
  | .rn =>
    let (p, r) := rnOp t (fun x y => if negP then -(x * y) else x * y) a b
    let (q, r') := rnOp t (fun x y => if negC then x - y else x + y) p d
    (q, r.or r')
  | _ => intResult t vt.sat (z (elemInt t a) (elemInt t b) (elemInt t d))

/-- Are the fused forms defined for the class (R139)? -/
def fusedDefined (c : TagClass) : Bool := c = .i || c = .w || c = .f || c = .rn

/-- The unary operations (R36). -/
inductive UnOp where
  | neg | abs | sqrt | exp2 | log2 | rcp | not
  deriving DecidableEq, Repr

/-- Is the unary operation defined for the class (R139)? -/
def UnOp.defined (op : UnOp) (c : TagClass) : Bool :=
  match op, c with
  | _, .none => false
  | .neg, _ => true
  | .abs, .i | .abs, .w | .abs, .f | .abs, .hc => true
  | .not, .i | .not, .w | .not, .hb => true
  | .sqrt, .f | .exp2, .f | .log2, .f | .rcp, .f => true
  | _, _ => false

/-- An operation on the sign of an F element (R139, R156): a NaN gives the canonical NaN, FZ = 2 reads a subnormal source as zero
(R128), and no flag is raised. -/
def signOp (f : Fmt) (vt : VType) (g : Nat → Nat) (a : Nat) : ElemRes :=
  if (f.decode a).isNan then (f.nan, {})
  else if vt.fz = .flushAll && f.subnormal a then (g (f.zero (f.sign a)), {})
  else (g a, {})

/-- The element result of a unary operation (R139, R156). -/
def UnOp.elem (op : UnOp) (t : Tag) (vt : VType) (a : Nat) : ElemRes :=
  let f := fmtOf t
  let n := 8 * tagWidth t
  match op with
  | .not => (a ^^^ ones n, {})
  | .sqrt => ofFp (fpSqrt f vt.rm vt.flush (f.source vt.fz a))
  | .exp2 => ofFp (fpExp2 f vt.rm vt.flush (f.source vt.fz a))
  | .log2 => ofFp (fpLog2 f vt.rm vt.flush (f.source vt.fz a))
  | .rcp => ofFp (fpRcp f vt.rm vt.flush (f.source vt.fz a))
  | .neg => match tagClass t with
    | .f => signOp f vt (fun k => k ^^^ 2 ^ (n - 1)) a
    | .rn => rnOp t (fun x _ => -x) a 0
    | .hb => (a ^^^ ones 32, {})
    | .hc => hcResult (-elemInt t a)
    | _ => intResult t vt.sat (-elemInt t a)
  | .abs => match tagClass t with
    | .f => signOp f vt (fun k => k % 2 ^ (n - 1)) a
    | .w => (a, {})
    | .hc => hcResult (elemInt t a).natAbs
    | _ => intResult t vt.sat (elemInt t a).natAbs

/-- Is the relation defined for the class (R139)? -/
def relDefined (r : Rel) (c : TagClass) : Bool :=
  match r, c with
  | _, .none => false
  | _, .f => true
  | .un, _ => false
  | .eq, _ | .ne, _ => true
  | _, .i | _, .w | _, .hc => true
  | _, _ => false

/-- A relation of two elements (R139): by value, by canonical residue, by 32-bit element. -/
def relElem (r : Rel) (t : Tag) (vt : VType) (a b : Nat) : Bool × Raised :=
  match tagClass t with
  | .f => let f := fmtOf t; let (v, fl) := fpCompare r (f.source vt.fz a) (f.source vt.fz b); (v, { flags := fl })
  | .rn =>
    let (x, n1) := rnRead t a
    let (y, n2) := rnRead t b
    (if r = .ne then x != y else x == y, { rninv := n1 || n2 })
  | .hb => (if r = .ne then a != b else a == b, {})
  | _ =>
    let x := elemInt t a
    let y := elemInt t b
    (match r with
     | .eq => x == y | .ne => x != y | .lt => decide (x < y) | .le => decide (x ≤ y) | .gt => decide (y < x)
     | .ge => decide (y ≤ x) | .un => false, {})

/-! ### Conversion (R137, R139) -/

/-- The range of an I or W tag. -/
def intRange (t : Tag) : Int × Int :=
  let n := 8 * tagWidth t
  if tagClass t = .w then (0, (2 ^ n : Nat) - 1) else (-(2 ^ (n - 1) : Nat), (2 ^ (n - 1) : Nat) - 1)

/-- May VCVT convert from a tag to a tag (R137)? R137's table lists RN12 to RN24 only; the model converts RN24 to RN12, and
RN to the same RN, through the signed value too (a DESIGN CHOICE). -/
def convertible (a b : Tag) : Bool :=
  let ok (c : TagClass) : Bool := c = .i || c = .w || c = .f || c = .rn
  ok (tagClass a) && ok (tagClass b)

/-- An integer into a tag (R137). -/
def ofInteger (t : Tag) (vt : VType) (z : Int) : ElemRes :=
  match tagClass t with
  | .f => ofFp (fpOfInt (fmtOf t) vt.rm vt.flush z)
  | .rn => (rnOfInt t z, {})
  | _ => intResult t vt.sat z

/-- One element converted from a tag to a tag (R137). -/
def convert (a b : Tag) (vt : VType) (k : Nat) : ElemRes :=
  match tagClass a with
  | .f =>
    let x := (fmtOf a).source vt.fz k
    match tagClass b with
    | .f => ofFp ((fmtOf b).roundFv vt.rm vt.flush x)
    | .rn =>
      let (z, fl) := fpConvInt vt.rm (-(2 ^ 63 : Nat)) ((2 ^ 63 : Nat) - 1) x
      (rnOfInt b z, { flags := fl })
    | _ =>
      let (lo, hi) := intRange b
      let (z, fl) := fpConvInt vt.rm lo hi x
      (wrap (8 * tagWidth b) z, { flags := fl })
  | .rn =>
    let (z, nc) := rnValue a k
    let (v, r) := ofInteger b vt z
    (v, r.or { rninv := nc })
  | _ => ofInteger b vt (elemInt a k)

/-- The scalar operand of a W form converted to the vector's tag (R139), with the flags of that conversion. -/
def convertScalar (t : Tag) (vt : VType) (x : Word) : ElemRes :=
  match t with
  | .f64 => (x.toNat, {})
  | .f32 => (x.toNat % 2 ^ 32, {})
  | .f8e4 | .f8e5 | .bf16 | .f16 => convert .f32 t vt (x.toNat % 2 ^ 32)
  | .rn12 | .rn24 => (rnOfInt t x.toInt, {})
  | .hb => (x.toNat % 2 ^ 32, {})
  | .hc => (wrap 8 (clampTo (-127) 127 x.toInt).1, {})
  | t => (x.toNat % 2 ^ (8 * tagWidth t), {})

/-- An element copied by a lane instruction: a residue reduced, with RNINV when it was not canonical (R131), and the byte
0x80 of an HC register read as −127 (R134). -/
def canonElem (t : Tag) (k : Nat) : ElemRes :=
  match tagClass t with
  | .rn => rnOp t (fun x _ => x) k 0
  | .hc => (wrap 8 (elemInt t k), {})
  | _ => (k, {})

/-- An element extended to an x register as VMVX places it (R159). -/
def extendElem (t : Tag) (k : Nat) : Word :=
  match tagClass t with
  | .i | .hc => wordI (signed (8 * tagWidth t) k)
  | _ => word k

end Sys2Proof.Machine
end

