-- ==== Sys2Proof/Machine/Region.lean ====
section
/-!
DEFINITION. Sparse regions: keys, the nodes of the pool, and what the home tree unit does to the tree in one step
(R247 to R254, R258, R264).
-/

namespace Sys2Proof.Machine

/-! ### Keys -/

/-- The coordinate width of a rank (R248). -/
def coordWidth (rank : Nat) : Nat := match rank with | 1 => 64 | 2 => 32 | 3 => 21 | _ => 16

/-- The position of coordinate `j` in a key (R248). -/
def coordShift (rank j : Nat) : Nat := coordWidth rank * (rank - 1 - j)

/-- The key of coordinates, coordinate 0 first (R248). -/
def keyOf (rank : Nat) (cs : List Nat) : Nat :=
  (cs.zipIdx).foldl (fun k (c, j) => k + c * 2 ^ coordShift rank j) 0

/-- Coordinate `j` of a key (R248). -/
def coordOf (rank j k : Nat) : Nat := bits (coordShift rank j) (coordWidth rank) k

/-- A key is in range (R248). -/
def Region.inRange (r : Region) (k : Nat) : Bool :=
  k < 2 ^ (coordWidth r.rank * r.rank) && (List.range r.rank).all fun j => coordOf r.rank j k ≤ r.lims.getD j 0

/-- The width of a value in bits. -/
def Region.valueBits (r : Region) : Nat := 8 * tagWidth r.vtag

/-- A value counts as zero (R258). -/
def zeroValue (t : Tag) (v : Nat) : Bool :=
  match tagClass t with
  | .f => v % 2 ^ (8 * tagWidth t - 1) == 0
  | .rn => (rnRead t v).1 == (0, 0, 0)
  | _ => v % 2 ^ (8 * tagWidth t) == 0

/-! ### Nodes -/

/-- The number of nodes of the pool. -/
def Region.nodes (r : Region) : Nat := r.size / 256

/-- The physical address of node `i`. -/
def Region.nodePhys (r : Region) (i : Nat) : Nat := r.pages.getD (i / 16) 0 * 4096 + i % 16 * 256

/-- The key of node `i` in memory. -/
def Region.nodeKey (r : Region) (i : Nat) : Nat := deviceKey (r.nodePhys i)

/-- The pool header (R250). -/
structure Header where
  root : Nat
  height : Nat
  freeHead : Nat
  freeCnt : Nat
  keys : Nat
  gen : Nat
  deriving DecidableEq, Repr

/-- The bytes of the header: its other bytes are zero (R250). -/
def Header.bytes (h : Header) : List Byte :=
  bytesOf 256 (h.root + h.height % 2 ^ 16 * 2 ^ 64 + h.freeHead * 2 ^ 128 + h.freeCnt * 2 ^ 192 + h.keys * 2 ^ 256
    + h.gen % 2 ^ 64 * 2 ^ 320)

/-- The header that 256 bytes hold (R250). -/
def Header.ofNat (k : Nat) : Header :=
  { root := bits 0 64 k, height := bits 64 16 k, freeHead := bits 128 64 k, freeCnt := bits 192 64 k
    keys := bits 256 64 k, gen := bits 320 64 k }

/-- One node (R251): for a leaf `vals` are the values, for an inner node the children. -/
structure Node where
  version : Nat
  level : Nat
  kind : Nat
  link : Nat
  keys : List Nat
  vals : List Nat
  deriving DecidableEq, Repr

/-- The node that 256 bytes hold (R251). -/
def Node.ofNat (k : Nat) : Node :=
  let dw (i : Nat) : Nat := bits (64 * i) 64 k
  let kind := bits 0 8 k
  let count := bits 8 8 k
  { version := bits 32 32 k, level := bits 16 16 k, kind := kind, link := dw 1
    keys := (List.range count).map fun i => if kind = 1 then dw (2 + 2 * i) else dw (2 + i)
    vals := if kind = 1 then (List.range count).map fun i => dw (3 + 2 * i)
      else if kind = 2 then (List.range (count + 1)).map fun j => dw (16 + j) else [] }

/-- The bytes of a node: what its layout does not use is zero (R251). -/
def Node.bytes (n : Node) : List Byte :=
  let place (f : Nat → Nat) (l : List Nat) : Nat := (l.zipIdx).foldl (fun k (v, i) => k + v % 2 ^ 64 * 2 ^ (64 * f i)) 0
  let head := n.kind + n.keys.length * 2 ^ 8 + n.level % 2 ^ 16 * 2 ^ 16 + n.version % 2 ^ 32 * 2 ^ 32 + n.link * 2 ^ 64
  bytesOf 256 (head + (if n.kind = 1 then place (2 + 2 * ·) n.keys + place (3 + 2 * ·) n.vals
    else if n.kind = 2 then place (2 + ·) n.keys + place (16 + ·) n.vals else 0))

/-- A free node (R250, R253). -/
def Node.free (version next : Nat) : Node :=
  { version := version, level := 0, kind := 0, link := next, keys := [], vals := [] }

/-! ### One step of the home tree unit -/

/-- What one step of the home reads and writes: the header and the nodes it has changed (R264). -/
structure Edit where
  hdr : Header
  nodes : List (Nat × Node)

/-- A step of the home, or the node whose read met an uncorrectable error. -/
abbrev Home := StateT Edit (Except Nat)

/-- Node `i` as the step sees it; an uncorrectable error in it ends the step. -/
def homeNode (d : Dev) (r : Region) (i : Nat) : Home Node := fun e =>
  match e.nodes.find? fun p => p.1 == i with
  | some (_, n) => .ok (n, e)
  | none =>
    if (d.poisoned (r.nodeKey i) 256).isSome then .error i else .ok (Node.ofNat (d.read (r.nodeKey i) 256), e)

/-- Node `i` changed. -/
def homePut (i : Nat) (n : Node) : Home Unit := modify fun e => { e with nodes := (i, n) :: e.nodes.filter fun p => p.1 != i }

/-- The header changed. -/
def homeHeader (f : Header → Header) : Home Unit := modify fun e => { e with hdr := f e.hdr }

/-- A step starts with the header; an error in node 0 ends it. -/
def startHome (d : Dev) (r : Region) : Except Nat Edit :=
  if (d.poisoned (r.nodeKey 0) 256).isSome then .error 0
  else .ok { hdr := Header.ofNat (d.read (r.nodeKey 0) 256), nodes := [] }

/-- What a write of the home does to memory: no vector store, tainted or not. -/
def Dev.writeNode (d : Dev) (key : Nat) (bs : List Byte) (tainted : Bool := false) : Dev :=
  [0, 64, 128, 192].foldl (fun d o => d.write (key + o) ((bs.drop o).take 64) { tainted := tainted }) d

/-- Does a node hold a tainted block (R337)? -/
def Dev.nodeTainted (d : Dev) (r : Region) (i : Nat) : Bool :=
  [0, 64, 128, 192].any fun o => d.blockTainted (r.nodeKey i + o)

/-- The step becomes visible (R264): each node written has its VERSION incremented. The nodes are tainted when the
element's data are, or one of them was, since entries pass between them (R337; which bytes of a node the home writes is a
DESIGN CHOICE: all). The header holds counts only and stays clean. -/
def Edit.commit (e : Edit) (r : Region) (d : Dev) (tainted : Bool) : Dev :=
  let t := tainted || e.nodes.any fun p => d.nodeTainted r p.1
  let d := e.nodes.foldl (fun d p => d.writeNode (r.nodeKey p.1) ({ p.2 with version := p.2.version + 1 } : Node).bytes t) d
  d.writeNode (r.nodeKey 0) e.hdr.bytes

/-- The child of an inner node that holds a key (R251). -/
def childPos (keys : List Nat) (k : Nat) : Nat := (keys.filter fun s => s ≤ k).length

/-- The place of a key in a leaf: the keys below it. -/
def keyPos (keys : List Nat) (k : Nat) : Nat := (keys.filter fun s => s < k).length

/-- The path from a node down to the leaf of a key: each node with the child taken, the leaf first. -/
def homePath (d : Dev) (r : Region) (k : Nat) : Nat → Nat → List (Nat × Nat) → Home (List (Nat × Nat))
  | 0, i, up => pure ((i, 0) :: up)
  | fuel + 1, i, up => do
    let n ← homeNode d r i
    if n.kind = 2 then
      let j := childPos n.keys k
      homePath d r k fuel (n.vals.getD j 0) ((i, j) :: up)
    else pure ((i, 0) :: up)

/-- The path to the leaf of a key from the root. -/
def homeFind (d : Dev) (r : Region) (k : Nat) : Home (List (Nat × Nat)) := do
  homePath d r k 32 (← get).hdr.root []

/-- A new node is taken from FREEHEAD (R252): its index and VERSION. -/
def homeTake (d : Dev) (r : Region) : Home (Nat × Nat) := do
  let i := (← get).hdr.freeHead
  let n ← homeNode d r i
  homeHeader fun h => { h with freeHead := n.link, freeCnt := h.freeCnt - 1 }
  pure (i, n.version)

/-- A node is pushed onto FREEHEAD (R253). -/
def homeFree (i version : Nat) : Home Unit := do
  homePut i (Node.free version (← get).hdr.freeHead)
  homeHeader fun h => { h with freeHead := i, freeCnt := h.freeCnt + 1 }

/-- A separator and the child to its right go into the parents from below upward; the root may split (R252). `below` is
the old child. -/
def homeRaise (d : Dev) (r : Region) (below level : Nat) : List (Nat × Nat) → Nat → Nat → Home Unit
  | [], sep, right => do
    let (i, v) ← homeTake d r
    homePut i { version := v, level := level + 1, kind := 2, link := 0, keys := [sep], vals := [below, right] }
    homeHeader fun h => { h with root := i, height := h.height + 1 }
  | (i, pos) :: up, sep, right => do
    let n ← homeNode d r i
    let keys := n.keys.insertIdx pos sep
    let vals := n.vals.insertIdx (pos + 1) right
    if keys.length ≤ 14 then homePut i { n with keys := keys, vals := vals }
    else
      let (j, v) ← homeTake d r
      homePut i { n with keys := keys.take 7, vals := vals.take 8 }
      homePut j { version := v, level := n.level, kind := 2, link := 0, keys := keys.drop 8, vals := vals.drop 8 }
      homeRaise d r i n.level up (keys.getD 7 0) j

/-- An absent key and its value go into the leaf (R252). -/
def homeInsert (d : Dev) (r : Region) (path : List (Nat × Nat)) (k v : Nat) : Home Unit := do
  match path with
  | [] => pure ()
  | (i, _) :: up =>
    let n ← homeNode d r i
    let pos := keyPos n.keys k
    let keys := n.keys.insertIdx pos k
    let vals := n.vals.insertIdx pos v
    if keys.length ≤ 14 then homePut i { n with keys := keys, vals := vals }
    else
      let (j, ver) ← homeTake d r
      homePut i { n with keys := keys.take 7, vals := vals.take 7, link := j }
      homePut j { version := ver, level := 0, kind := 1, link := n.link, keys := keys.drop 7, vals := vals.drop 7 }
      homeRaise d r i 0 up (keys.getD 7 0) j
    homeHeader fun h => { h with keys := h.keys + 1, gen := h.gen + 1 }

/-- The nodes an insertion needs (R252): the full nodes from the leaf upward, and one more when all are full. -/
def homeNeeds (d : Dev) (r : Region) : List (Nat × Nat) → Nat → Home Nat
  | [], s => pure (s + 1)
  | (i, _) :: up, s => do
    let n ← homeNode d r i
    if n.keys.length < 14 then pure s else homeNeeds d r up (s + 1)

/-- A node left short is rebalanced with its sibling, from below upward (R253). -/
def homeFix (d : Dev) (r : Region) (i : Nat) : List (Nat × Nat) → Home Unit
  | [] => do
    let n ← homeNode d r i
    if n.kind = 2 && n.keys.isEmpty then
      homeHeader fun h => { h with root := n.vals.getD 0 0, height := h.height - 1 }
      homeFree i n.version
  | (pi, pos) :: up => do
    let n ← homeNode d r i
    if 7 ≤ n.keys.length then pure ()
    else
      let p ← homeNode d r pi
      let right := pos < p.keys.length
      let sp := if right then pos else pos - 1
      let si := p.vals.getD (if right then pos + 1 else pos - 1) 0
      let s ← homeNode d r si
      let sep := p.keys.getD sp 0
      let leaf := n.kind = 1
      if 7 < s.keys.length then
        if right then
          homePut i { n with keys := n.keys ++ [if leaf then s.keys.headD 0 else sep], vals := n.vals ++ s.vals.take 1 }
          homePut si { s with keys := s.keys.drop 1, vals := s.vals.drop 1 }
          homePut pi { p with keys := p.keys.set sp (if leaf then s.keys.getD 1 0 else s.keys.headD 0) }
        else
          let k := s.keys.getLastD 0
          homePut i { n with keys := (if leaf then k else sep) :: n.keys, vals := s.vals.getLastD 0 :: n.vals }
          homePut si { s with keys := s.keys.dropLast, vals := s.vals.dropLast }
          homePut pi { p with keys := p.keys.set sp k }
      else
        let (li, l, ri, rr) := if right then (i, n, si, s) else (si, s, i, n)
        homePut li { l with keys := l.keys ++ (if leaf then [] else [sep]) ++ rr.keys, vals := l.vals ++ rr.vals
                            link := if leaf then rr.link else l.link }
        homeFree ri rr.version
        homePut pi { p with keys := p.keys.eraseIdx sp, vals := p.vals.eraseIdx (sp + 1) }
        homeFix d r pi up

/-- A present key leaves its leaf (R253). -/
def homeDelete (d : Dev) (r : Region) (path : List (Nat × Nat)) (k : Nat) : Home Unit := do
  match path with
  | [] => pure ()
  | (i, _) :: up =>
    let n ← homeNode d r i
    let pos := keyPos n.keys k
    homePut i { n with keys := n.keys.eraseIdx pos, vals := n.vals.eraseIdx pos }
    homeFix d r i up
    homeHeader fun h => { h with keys := h.keys - 1, gen := h.gen + 1 }

/-- What one element of SRST comes to (R257). -/
inductive Stored where
  | done
  | exhausted
  deriving DecidableEq, Repr

/-- One element of SRST at the home (R257, R254): delete, replace, or insert. -/
def homeStore (d : Dev) (r : Region) (k v : Nat) : Home Stored := do
  let path ← homeFind d r k
  let i := (path.headD (0, 0)).1
  let n ← homeNode d r i
  let present := n.keys.contains k
  if zeroValue r.vtag v then
    if present then homeDelete d r path k
    pure .done
  else if present then
    homePut i { n with vals := n.vals.set (keyPos n.keys k) v }
    homeHeader fun h => { h with gen := h.gen + 1 }
    pure .done
  else
    let need ← homeNeeds d r path 0
    if (← get).hdr.freeCnt < need then pure .exhausted
    else
      homeInsert d r path k v
      pure .done

/-- The value at a key, if it is present (R257), and whether its node is tainted. -/
def homeLookup (d : Dev) (r : Region) (k : Nat) : Home (Option Nat × Bool) := do
  let path ← homeFind d r k
  let i := (path.headD (0, 0)).1
  let n ← homeNode d r i
  pure (if n.keys.contains k then (some (n.vals.getD (keyPos n.keys k) 0), d.nodeTainted r i) else (none, false))

/-- The least separator above the leaf on a path: where the next leaf begins (R251). -/
def homeUpper (d : Dev) (r : Region) : List (Nat × Nat) → Home (Option Nat)
  | [] => pure none
  | (i, pos) :: up => do
    let n ← homeNode d r i
    match (if n.kind = 2 then n.keys[pos]? else none) with
    | some s => pure (some s)
    | none => homeUpper d r up

/-- The present keys from `lo` to `hi` in ascending order with their values and the taint of their nodes, at most `want`
of them (R260, R265). -/
def homeScan (d : Dev) (r : Region) (hi : Nat) : Nat → Nat → Nat → Home (List (Nat × Nat × Bool))
  | 0, _, _ => pure []
  | fuel + 1, want, lo => do
    if want = 0 || hi < lo then pure []
    else
      let path ← homeFind d r lo
      let i := (path.headD (0, 0)).1
      let n ← homeNode d r i
      let here := (((n.keys.zip n.vals).filter fun p => lo ≤ p.1 && p.1 ≤ hi).take want).map fun p =>
        (p.1, p.2, d.nodeTainted r i)
      if here.length = want then pure here
      else
        match ← homeUpper d r path with
        | none => pure here
        | some up =>
          let rest ← homeScan d r hi fuel (want - here.length) (max up (lo + 1))
          pure (here ++ rest)

/-- A step of the home that only reads: its result, or the node with an error. -/
def Dev.askHome {α : Type} (d : Dev) (r : Region) (m : Home α) : Except Nat α :=
  match startHome d r with
  | .error i => .error i
  | .ok e => match m e with
    | .error i => .error i
    | .ok (a, _) => .ok a

/-- A step of the home that writes, with data that may be tainted: its result and the device after it. -/
def Dev.tellHome {α : Type} (d : Dev) (r : Region) (tainted : Bool) (m : Home α) : Except Nat (α × Dev) :=
  match startHome d r with
  | .error i => .error i
  | .ok e => match m e with
    | .error i => .error i
    | .ok (a, e') => .ok (a, if e'.nodes.isEmpty && e'.hdr == e.hdr then d else e'.commit r d tainted)

/-! ### Pools at their declaration -/

/-- The empty tree (R250). The VERSION of its nodes is not given: free values. -/
def Dev.emptyTree (d : Dev) (r : Region) : Dev :=
  let n := r.nodes
  let c := d.freeCount
  let v (i : Nat) : Nat := Config.free (c + i) % 2 ^ 32
  let h : Header := { root := 1, height := 1, freeHead := if n = 2 then 0 else 2, freeCnt := n - 2, keys := 0, gen := 0 }
  let d := { d with freeCount := c + n }
  let d := d.writeNode (r.nodeKey 0) h.bytes
  let d := d.writeNode (r.nodeKey 1)
    ({ version := v 1, level := 0, kind := 1, link := 0, keys := [], vals := [] } : Node).bytes
  (List.range (n - 2)).foldl (fun d i =>
    d.writeNode (r.nodeKey (i + 2)) (Node.free (v (i + 2)) (if i + 3 < n then i + 3 else 0)).bytes) d

/-- An adopted header that R250 admits. -/
def Header.admitted (h : Header) (n : Nat) : Bool := h.root < n && h.freeHead < n && 1 ≤ h.height && h.height ≤ 32

/-- Strictly ascending. -/
def ascending : List Nat → Bool
  | x :: y :: t => x < y && ascending (y :: t)
  | _ => true

/-- The nodes of the tree below node `i`, which is to be at a level, with keys from `lo` on and below `hi`, if it obeys
R251: all of them, and the leaves in order. -/
def treeNodes (d : Dev) (r : Region) : Nat → Nat → Nat → Nat → Option (List Nat × List Nat)
  | level, i, lo, hi =>
    let n := Node.ofNat (d.read (r.nodeKey i) 256)
    let ok := 0 < i && i < r.nodes && n.level == level && n.keys.length ≤ 14 && ascending n.keys
      && n.keys.all (fun k => lo ≤ k && k < hi) && ofBytes n.bytes == d.read (r.nodeKey i) 256
    match level with
    | 0 => if ok && n.kind == 1 && n.vals.all (· < 2 ^ r.valueBits) then some ([i], [i]) else none
    | level + 1 =>
      if ok && n.kind == 2 && !n.keys.isEmpty && n.link == 0 then
        (n.vals.zipIdx).foldl (fun acc (c, j) => acc.bind fun (all, leaves) =>
          (treeNodes d r level c (if j = 0 then lo else n.keys.getD (j - 1) 0) (n.keys.getD j hi)).map fun (a, l) =>
            (all ++ a, leaves ++ l)) (some ([i], []))
      else none

/-- The free list from node `i` on, if it is a list of `k` free nodes. -/
def freeNodes (d : Dev) (r : Region) : Nat → Nat → Option (List Nat)
  | 0, i => if i = 0 then some [] else none
  | k + 1, i =>
    let n := Node.ofNat (d.read (r.nodeKey i) 256)
    if 0 < i && i < r.nodes && n.kind == 0 then (freeNodes d r k n.link).map (i :: ·) else none

/-- The pool holds a tree that obeys R250 and R251: its nodes are distinct, the leaves are linked in order, the free list
and the counts of the header fit. -/
def Dev.treeSound (d : Dev) (r : Region) : Bool :=
  let h := Header.ofNat (d.read (r.nodeKey 0) 256)
  let leaf (i : Nat) : Node := Node.ofNat (d.read (r.nodeKey i) 256)
  h.admitted r.nodes && h.freeCnt < r.nodes &&
    (match treeNodes d r (h.height - 1) h.root 0 (2 ^ 64), freeNodes d r h.freeCnt h.freeHead with
     | some (all, leaves), some free =>
       decide (all ++ free).Nodup
         && (leaves.map fun i => (leaf i).link) == leaves.drop 1 ++ [0]
         && (leaves.map fun i => (leaf i).keys.length).sum == h.keys
     | _, _ => false)

end Sys2Proof.Machine
end

