-- ==== Sys2Proof/Machine/Srf.lean ====
section
/-!
DEFINITION. The synchronisation register file: the homes, the mirrors and the broadcasts between them (R306, R308), and
the gang of a hart with its window.
-/

namespace Sys2Proof.Machine

/-! ### The gang -/

/-- The gang of the hart at the front. -/
def State.gang (s : State) : Gang := (s.dev.gangs.find? fun g => g.id == s.hart.ident.gang).getD {}

/-- A change of one gang. -/
def Dev.mapGang (d : Dev) (id : Nat) (f : Gang → Gang) : Dev :=
  { d with gangs := d.gangs.map fun g => if g.id = id then f g else g }

/-- A change of the gang of the hart at the front. -/
def State.mapGang (s : State) (f : Gang → Gang) : State := { s with dev := s.dev.mapGang s.hart.ident.gang f }

/-! ### Homes and mirrors -/

/-- The die that is the home of a register (R306). -/
def homeDie (i : Nat) : Nat := i / 4096 % 4

/-- The number of the mirror of register `i` on a die. -/
def mirrorKey (die i : Nat) : Nat := 16384 * die + i

/-- The register at its home. -/
def Dev.srfHome (d : Dev) (i : Nat) : SrfReg := sparseGet {} d.srf i

/-- The dies that mirror register `i` (R306). -/
def mirrorDies (i : Nat) : List Nat := [0, 1, 2, 3].filter fun die => die != homeDie i

/-- Two records of ordered epochs as one (R338). -/
def mergeOrder (a b : List (Nat × Nat)) : List (Nat × Nat) :=
  b.foldl (fun l x => sparseSet 0 l x.1 (max x.2 (sparseGet 0 l x.1))) a

/-- A change at the home, with its broadcast to the mirrors (R306). -/
def Dev.putReg (d : Dev) (i : Nat) (r : SrfReg) : Dev :=
  let r : SrfReg := { r with version := (d.srfHome i).version + 1 }
  let d := { d with srf := sparseSet {} d.srf i r }
  if d.prompt then
    { d with mirrors := (mirrorDies i).foldl (fun m die => sparseSet {} m (mirrorKey die i) r) d.mirrors }
  else { d with broadcasts := d.broadcasts ++ (mirrorDies i).map fun die => (mirrorKey die i, r) }

/-- A change other than a SYBAR arrival: it clears the arrival set (R311). -/
def Dev.setSrf (d : Dev) (i : Nat) (v : Word) : Dev := d.putReg i { value := v }

/-- The register as a die reads it (R306): the home on its own die, else the mirror. -/
def Dev.srfAt (d : Dev) (die i : Nat) : SrfReg :=
  if homeDie i = die then d.srfHome i else sparseGet {} d.mirrors (mirrorKey die i)

/-- The broadcasts to a die arrive in order (R306) up to the one that brings register `i` to version `v`: those left, and
the mirrors. -/
def arriveTo (die i v : Nat) : List (Nat × SrfReg) → List (Nat × SrfReg) → List (Nat × SrfReg) × List (Nat × SrfReg)
  | [], m => ([], m)
  | (k, r) :: t, m =>
    if k / 16384 = die then
      let m := sparseSet {} m k r
      if k % 16384 = i && v ≤ r.version then (t, m) else arriveTo die i v t m
    else
      let (t, m) := arriveTo die i v t m
      ((k, r) :: t, m)

/-- The mirrors of a die brought to the version a hart has observed or written (R308). -/
def Dev.catchUp (d : Dev) (die i v : Nat) : Dev :=
  if v ≤ (d.srfAt die i).version then d
  else
    let (b, m) := arriveTo die i v d.broadcasts d.mirrors
    { d with broadcasts := b, mirrors := m }

/-- The oldest broadcast to a die reaches its mirror (R306). -/
def Dev.mirrorUpdate (d : Dev) (die : Nat) : Option Dev :=
  (d.broadcasts.find? fun b => b.1 / 16384 == die).map fun b =>
    let (rest, m) := arriveTo die (b.1 % 16384) b.2.version d.broadcasts d.mirrors
    { d with broadcasts := rest, mirrors := m }

/-- The hart has observed or written a version of a register (R308). -/
def State.sawSrf (s : State) (i v : Nat) : State :=
  { s with hart := { s.hart with srfSeen := sparseSet 0 s.hart.srfSeen i v } }

/-- A hart reads a register on its die (R306, R308): never older than what it has observed or written. -/
def State.readSrf (s : State) (i : Nat) : SrfReg × State :=
  let die := s.hart.ident.die
  let d := s.dev.catchUp die i (sparseGet 0 s.hart.srfSeen i)
  let r := d.srfAt die i
  (r, ({ s with dev := d }).sawSrf i r.version)

/-- A hart's operation at the home (R306). -/
def State.writeReg (s : State) (i : Nat) (r : SrfReg) : State :=
  let d := s.dev.putReg i r
  ({ s with dev := d }).sawSrf i (d.srfHome i).version

/-- A hart's write of a register, which clears the arrival set (R311). -/
def State.writeSrf (s : State) (i : Nat) (v : Word) : State := s.writeReg i { value := v }

/-- The hart's vector stores up to now are ordered before what follows (R182, R338). -/
def State.fenceEpoch (s : State) : State :=
  { s with hart := { s.hart with ordered := sparseSet 0 s.hart.ordered s.hart.ident.lhart (s.hart.counts.epoch.toNat + 1) } }

/-- The hart makes a vector store: those of its epoch are not all ordered any more (R338). -/
def State.openEpoch (s : State) : State :=
  let l := s.hart.ident.lhart
  { s with hart := { s.hart with ordered := sparseSet 0 s.hart.ordered l (min (sparseGet 0 s.hart.ordered l) s.hart.counts.epoch.toNat) } }

/-- A waiting poll: a broadcast on its way to the hart's die arrives (R308). -/
def State.pollMirror (s : State) : State := { s with dev := (s.dev.mirrorUpdate s.hart.ident.die).getD s.dev }

/-- An increment of a register by an engine or a completion signal (R197, R359): 1, or 2^32 + 1 for a failure. -/
def Dev.signal (d : Dev) (i : Nat) (ok : Bool) : Dev :=
  d.setSrf i ((d.srfHome i).value + (if ok then 1 else word (2 ^ 32 + 1)))

end Sys2Proof.Machine
end

