-- ==== Sys2Proof/Machine/Trace.lean ====
section
/-!
DEFINITION. Observing a run: trace records (R347, R348, R350) and the performance counters (R349, R350).
-/

namespace Sys2Proof.Machine

/-! ### Trace records -/

/-- Where a trace writes its next record: tracing is on and the buffer is not full (R350). -/
def Trace.next (t : Trace) : Option Nat := if t.mask = 0 || t.full then none else some (t.base + t.offset % t.size)

/-- The trace after one record (R350): a buffer without WRAP stops when it is full. -/
def Trace.wrote (t : Trace) : Trace :=
  { t with offset := t.offset + 16
           full := t.full || (!t.wrap && decide (t.size ≤ t.offset + 16))
           wrapped := t.wrapped || decide (t.size < t.offset + 16) }

/-- Sixteen bytes go into the core's trace buffer, at device scope (R350). -/
def State.traceWrite (s : State) (lo hi : Nat) : State :=
  match s.core.trace with
  | none => s
  | some t =>
    match t.next with
    | none => s
    | some a =>
      { s with core := { s.core with trace := some t.wrote }
               dev := s.dev.write (deviceKey a) (bytesOf 8 lo ++ bytesOf 8 hi) {} }

/-- The first doubleword of a record (R348). -/
def traceWord (convoy elem slot kind pipe delta : Nat) : Nat :=
  delta % 2 ^ 16 + pipe % 2 ^ 8 * 2 ^ 16 + kind % 2 ^ 3 * 2 ^ 24 + slot % 2 ^ 3 * 2 ^ 27 + elem % 2 ^ 16 * 2 ^ 32
    + convoy % 2 ^ 16 * 2 ^ 48

/-- The core's trace unit records (R350): OP 3 has enabled the pipe, or it is a mark. -/
def State.tracing (s : State) (pipe : Nat) : Bool :=
  match s.core.trace with
  | none => false
  | some t => t.next.isSome && (pipe = 255 || t.mask.testBit pipe)

/-- One record of a pipe for a hart's slot and convoy number (R348). The clocks since the record before it are timing, a free
value; a delta above 0xFFFE is preceded by a KIND 4 record with CYCLE. -/
def State.recordFor (s : State) (slot convoy kind pipe elem : Nat) (at8 : Word) : State :=
  if s.tracing pipe then
    let c := s.dev.freeCount
    let delta := Config.free c % 2 ^ 17
    let s := { s with dev := { s.dev with freeCount := c + 3 } }
    let s := if 0xFFFE < delta then
        s.traceWrite (traceWord convoy (Config.free (c + 1)) slot 4 pipe (Config.free (c + 2))) s.hart.counts.cycle.toNat
      else s
    s.traceWrite (traceWord convoy elem slot kind pipe (if 0xFFFE < delta then Config.free (c + 2) % 0xFFFF else delta))
      at8.toNat
  else s

/-- One record of a pipe for the hart at the front (R348). -/
def State.record (s : State) (kind pipe elem : Nat) (at8 : Word) : State :=
  s.recordFor s.hart.ident.slot s.hart.counts.convoy.toNat kind pipe elem at8

/-- A record on each pipe that executes an instruction (R348). -/
def State.recordAll (s : State) (kind : Nat) (i : Instr) (elem : Nat) (pc : Word) : State :=
  i.pipes.foldl (fun s p => s.record kind p elem pc) s

/-- TMARK (R347). -/
def execTmark (a : BitVec 5) (s : State) : Res := .next ((s.record 3 255 0 (s.x a)).advance 4)

/-! ### Counters -/

/-- The event code a counter counts in the current set (R350). -/
def Counters.code (k : Counters) (c : Nat) : Nat := bits (8 * c) 8 (k.sets[k.current]?.getD 0)

/-- An event with a code happens `n` times (R349). -/
def Counters.count1 (k : Counters) (code n : Nat) : Counters :=
  { k with count := (Vector.range 8).map fun c => k.count[c]?.getD 0 + (if k.code c = code then n else 0) }

/-- Time passes for a core's counters (R349): the sets are enabled, and the counters that count something are counting. -/
def Counters.tick (k : Counters) (ns : Nat) : Counters :=
  { k with enabled := k.enabled + ns
           running := (Vector.range 8).map fun c => k.running[c]?.getD 0 + (if k.code c < 16 then ns else 0) }

/-- An event that the counters of the core at the front count. -/
def State.countEvent (s : State) (code n : Nat) : State :=
  { s with core := { s.core with counters := s.core.counters.map fun k => k.count1 code n } }

/-- The copy engine has moved `n` bytes (R350): the counters count them in units of 64. -/
def State.countCopied (s : State) (n : Nat) : State :=
  let f (k : Counters) : Counters := { k.count1 8 ((k.copied + n) / 64 - k.copied / 64) with copied := k.copied + n }
  { s with core := { s.core with counters := s.core.counters.map f } }

end Sys2Proof.Machine
end

