-- ==== Sys2Proof/Machine/CopyEngine.lean ====
section
/-!
DEFINITION. The copy engine: how a copy in flight moves its bytes, ends and notifies its target (R196 to R202), and the
range scoreboard that holds back overlapping accesses (R65, R179, R200).
-/

namespace Sys2Proof.Machine

/-- Whose access an engine makes: hart number, context, root, privilege, and the number of the engine thread (R330). -/
structure Viewer where
  uid : Nat
  ctx : Nat
  root : Nat
  priv : Priv
  fork : Nat
  deriving DecidableEq, Repr

/-- The hart at the front as the owner of an engine thread that is forked now. -/
def State.viewer (s : State) : Viewer :=
  { uid := s.hart.ident.uid, ctx := s.hart.ctx, root := s.hart.root, priv := s.hart.priv
    fork := s.dev.nextId }

/-- How many of `n` bytes from an address lie in its aligned 64 bytes. -/
def chunk (va n : Nat) : Nat := min n (64 - va % 64)

/-- Bytes an engine reads at one piece that crosses no 64-byte line: the bytes, whether they are tainted, the state. -/
def enginePiece (s : State) (w : Viewer) (va n : Nat) : Except Failure (List Byte × Bool × State) :=
  match engineLocate s.dev s.core w.ctx w.root w.priv va n .load with
  | .error f => .error f
  | .ok (pl, d) =>
    let s := { s with dev := d }
    let s := if pl.cls = .remote then s.flushWindow w.ctx pl.win else s
    match s.viewPoison w.uid (.engine w.fork) pl.key n with
    | some _ => .error { cause := .poison, info3 := word (physOf pl.key) }
    | none => .ok (s.viewBytes w.uid (.engine w.fork) pl.key n, s.viewTainted w.uid (.engine w.fork) pl.key n, s)

/-- Bytes an engine reads from an address on, piece by piece (R331). -/
def engineRead (s : State) (w : Viewer) : Nat → Nat → Nat → Except Failure (List Byte × Bool × State)
  | 0, _, _ => .ok ([], false, s)
  | _ + 1, _, 0 => .ok ([], false, s)
  | fuel + 1, va, n + 1 =>
    let c := chunk va (n + 1)
    match enginePiece s w (va % 2 ^ 64) c with
    | .error f => .error f
    | .ok (bs, t, s) =>
      match engineRead s w fuel (va + c) (n + 1 - c) with
      | .error f => .error f
      | .ok (bs', t', s) => .ok (bs ++ bs', t || t', s)

/-- Bytes an engine writes from an address on, applied at the coherence point (R331). -/
def engineWrite (s : State) (w : Viewer) (tainted : Bool) : Nat → Nat → List Byte → Except Failure State
  | 0, _, _ => .ok s
  | fuel + 1, va, bs =>
    if bs.isEmpty then .ok s
    else
      let c := chunk va bs.length
      match engineLocate s.dev s.core w.ctx w.root w.priv (va % 2 ^ 64) c .store with
      | .error f => .error f
      | .ok (pl, d) =>
        let s := { s with dev := d }
        let s := if pl.cls = .remote then s.flushWindow w.ctx pl.win else s
        let m : WriteMeta := { tainted := tainted, whole := some (2 * w.fork + 1) }
        engineWrite (s.apply w.uid pl.key (bs.take c) m) w tainted fuel (va + c) (bs.drop c)

/-- The error code of a failed copy access (R197); `dst` for the destination side. A walk that meets an uncorrectable error has code
0x10 on the source side and 0x05 on the destination side, which R197 leaves open (a DESIGN CHOICE). -/
def copyCode (dst : Bool) (f : Failure) : Nat :=
  match f.cause with
  | .misaligned => 0x03
  | .access => 0x07
  | .remoteLink => 0x08
  | .poison => if dst then 0x05 else 0x10
  | _ => if dst then 0x05 else 0x04

/-- One byte of a copy: read, then written (R196, R197). A copy is single-copy atomic by the byte (R332). -/
def copyByte (s : State) (w : Viewer) (dst src : Nat) : Except Nat State :=
  match engineRead s w 1 src 1 with
  | .error f => .error (copyCode false f)
  | .ok (bs, t, s) =>
    match engineWrite s w t 1 dst bs with
    | .error f => .error (copyCode true f)
    | .ok s => .ok s

/-- Units `i` to `i + k - 1` that `unit` moves and that have not moved yet, in ascending order, which is one of the orders R196
and R331 leave open (the others move by `State.moveUnit`), up to the first that fails: the state, the code,
the bytes below the failing unit of `z` bytes (R197). -/
def moveUnits (unit : Nat → State → Except Nat State) (moved : List Nat) (z : Nat) : Nat → Nat → State → State × Nat × Nat
  | 0, i, s => (s, 0, z * i)
  | k + 1, i, s =>
    if moved.contains i then moveUnits unit moved z k (i + 1) s
    else
      match unit i s with
      | .error c => (s, c, z * i)
      | .ok s => moveUnits unit moved z k (i + 1) s

/-- The elements of a copy (R196): their number, their size, and the address each reads. -/
structure Plan where
  n : Nat
  z : Nat
  src : Nat → Nat

/-- The plan of a copy (R196). -/
def Copy.plan (c : Copy) : Plan :=
  match c.shape with
  | .whole len => { n := len, z := 1, src := fun i => c.src.toNat + i }
  | .strided cnt z st => { n := cnt, z := z, src := fun i => wrap 64 (c.src.toInt + st * i) }
  | .indexed z offs => { n := offs.length, z := z, src := fun i => wrap 64 (c.src.toInt + offs.getD i 0) }
  | .dense _ _ _ => { n := 0, z := 1, src := fun _ => 0 }

/-- Byte `i` of the copy's elements moves (R196): each element's addresses must be multiples of min(z, 8). -/
def Plan.byte (p : Plan) (w : Viewer) (dst i : Nat) (s : State) : Except Nat State :=
  let e := i / p.z
  let a := p.src e % 2 ^ 64
  let d := (dst + p.z * e) % 2 ^ 64
  if a % min p.z 8 ≠ 0 || d % min p.z 8 ≠ 0 then .error 0x03
  else copyByte s w ((d + i % p.z) % 2 ^ 64) ((a + i % p.z) % 2 ^ 64)

/-- The bytes from `i` on of a copy that has failed in the element of byte `i` (R197): each is either written or left, a free
choice. -/
def copyRest (w : Viewer) (p : Plan) (dst : Nat) (moved : List Nat) : Nat → Nat → State → State
  | 0, _, s => s
  | k + 1, i, s =>
    let c := s.dev.freeCount
    let s := { s with dev := { s.dev with freeCount := c + 1 } }
    let s := if Config.free c % 2 = 1 && !moved.contains i then
        match p.byte w dst i s with
        | .ok s' => s'
        | .error _ => s
      else s
    copyRest w p dst moved k (i + 1) s

/-- `n` free bytes. -/
def freeBytes (c : Nat) : Nat → List Byte
  | 0 => []
  | n + 1 => BitVec.ofNat 8 (Config.free c) :: freeBytes (c + 1) n

/-- The number of coordinate tuples of a box (R261). -/
def boxSize (lo hi : List Nat) : Nat := (lo.zip hi).foldl (fun n (a, b) => n * (b + 1 - a)) 1

/-- Tuple `e` of a box in row-major order, the last coordinate fastest (R261). -/
def boxTuple : List (Nat × Nat) → Nat → List Nat
  | [], _ => []
  | (lo, hi) :: t, e =>
    let n := t.foldl (fun n (a, b) => n * (b + 1 - a)) 1
    (lo + e / n % (hi + 1 - lo)) :: boxTuple t (e % n)

/-- The declared region that an address names (R249). -/
def Dev.region (d : Dev) (addr : Word) : Option Region := d.regions.find? fun r => r.addr == addr

/-- The value that SRDENSE writes for a key (R261) and its taint, or the failure of a node's read; in a region whose tree
breaks R251 a free value. -/
def denseValue (d : Dev) (r : Region) (k : Nat) : Except Nat (Nat × Bool) :=
  if r.sound then
    match d.askHome r (homeLookup d r k) with
    | .ok (v, t) => .ok (v.getD 0, t)
    | .error _ => .error 0x10
  else .ok (Config.free d.freeCount % 2 ^ r.valueBits, false)

/-- One element of SRDENSE (R261): written at its place, or the code of its failure. -/
def denseUnit (w : Viewer) (r : Region) (dst : Nat) (box : List (Nat × Nat)) (i : Nat) (s : State) : Except Nat State :=
  match denseValue s.dev r (keyOf r.rank (boxTuple box i)) with
  | .error c => .error c
  | .ok (v, t) =>
    let s := if r.sound then s else { s with dev := { s.dev with freeCount := s.dev.freeCount + 1 } }
    match engineWrite s w t 8 (dst + r.valueBits / 8 * i) (bytesOf (r.valueBits / 8) v) with
    | .error _ => .error 0x05
    | .ok s => .ok s

/-- The elements above a failing one, each written or left (R197): a free choice. -/
def denseRest (w : Viewer) (r : Region) (dst : Nat) (box : List (Nat × Nat)) (moved : List Nat) : Nat → Nat → State → State
  | 0, _, s => s
  | k + 1, i, s =>
    let c := s.dev.freeCount
    let s := { s with dev := { s.dev with freeCount := c + 1 } }
    let s := if Config.free c % 2 = 1 && !moved.contains i then
        match denseUnit w r dst box i s with
        | .ok s' => s'
        | .error _ => s
      else s
    denseRest w r dst box moved k (i + 1) s

/-- The byte ranges that a copy holds on the scoreboard (R200): first byte and length. -/
def CopyShape.ranges (dst src : Word) (shape : CopyShape) : List (Int × Nat) :=
  let d := dst.toInt
  let a := src.toInt
  match shape with
  | .whole len => if len = 0 then [] else [(d, len), (a, len)]
  | .strided cnt z st =>
    if cnt = 0 then [] else
      let e := a + st * ((cnt - 1 : Nat) : Int)
      [(d, cnt * z), (min a e, (max a e - min a e).toNat + z)]
  | .indexed z offs =>
    if offs.isEmpty then []
    else
      let lo := offs.foldl min (offs.headD 0)
      let hi := offs.foldl max (offs.headD 0)
      [(d, offs.length * z), (a + lo, (hi - lo).toNat + z)]
  | .dense _ lo hi => [(d, boxSize lo hi * src.toNat)]

/-- The byte ranges that a copy in flight holds. -/
def Copy.ranges (c : Copy) : List (Int × Nat) := c.shape.ranges c.dst c.src

/-- The byte ranges that a copy holds while it waits in the VIQ (R198, R200), from the registers it read at issue: of a cpyx its
destination, for at most `most` elements. -/
def heldRanges (x : BitVec 5 → Word) (most : Nat) : Instr → List (Int × Nat)
  | .cpy d a b _ _ _ => CopyShape.ranges (x d) (x a) (.whole ((x b).toNat % 2 ^ 48))
  | .cpys d a b _ _ _ sz xs => CopyShape.ranges (x d) (x a) (.strided (x b).toNat (2 ^ sz.toNat) (x xs).toInt)
  | .cpyx d _ b _ _ _ sz _ =>
    let n := min (x b).toNat most
    if n = 0 then [] else [((x d).toInt, n * 2 ^ sz.toNat)]
  | _ => []

/-- The ranges that the copies among the instructions hold, each with the registers it has read. -/
def heldBy (most : Nat) (l : List (Instr × Vector Word 32)) : List (Int × Nat) :=
  l.flatMap fun (i, x) => heldRanges (fun r => x[r.toNat]'(by simpa using r.isLt)) most i

/-- The destination bytes that the source range of the same copy overlaps: first byte and length (R196). -/
def Copy.clash (c : Copy) : Int × Nat :=
  match c.ranges with
  | [(d, n), (a, m)] =>
    let lo := max d a
    let hi := min (d + n) (a + m)
    (lo, (hi - lo).toNat)
  | _ => (0, 0)

/-- The overlapping destination bytes are undefined (R196): they take free values. -/
def Copy.spoil (c : Copy) (w : Viewer) (s : State) : State :=
  let (lo, n) := c.clash
  if n = 0 then s
  else
    match engineWrite s w false n (wrap 64 lo) (freeBytes s.dev.freeCount n) with
    | .ok s' => { s' with dev := { s'.dev with freeCount := s.dev.freeCount + n } }
    | .error _ => s

/-- The engine's access rights of a copy's owner. -/
def Copy.viewer (c : Copy) : Viewer := { uid := c.owner, ctx := c.ctx, root := c.root, priv := c.priv, fork := c.id }

/-- How many units the copy moves one by one, and the bytes of one: the bytes of a copy's elements (R332), the elements of an
SRDENSE (R196, R261). -/
def Copy.units (c : Copy) (d : Dev) : Nat × Nat :=
  match c.shape with
  | .dense r lo hi => (boxSize lo hi, ((d.region r).map fun r => r.valueBits / 8).getD 1)
  | _ => (c.plan.n * c.plan.z, 1)

/-- The bytes that a copy counts when it fails after `n` bytes (R197): those of the elements below the failing one. -/
def Copy.below (c : Copy) (n : Nat) : Nat :=
  match c.shape with
  | .dense _ _ _ => n
  | _ => n / c.plan.z * c.plan.z

/-- Unit `i` of the copy moves (R196, R197, R261). -/
def Copy.unit (c : Copy) (i : Nat) (s : State) : Except Nat State :=
  match c.shape with
  | .dense addr lo hi =>
    match s.dev.region addr with
    | none => .error 0x7F
    | some r => denseUnit c.viewer r c.dst.toNat (lo.zip hi) i s
  | _ => c.plan.byte c.viewer c.dst.toNat i s

/-- The units at and above a failing one (R197). -/
def Copy.rest (c : Copy) (k i : Nat) (s : State) : State :=
  match c.shape with
  | .dense addr lo hi =>
    match s.dev.region addr with
    | none => s
    | some r => denseRest c.viewer r c.dst.toNat (lo.zip hi) c.moved k i s
  | _ => copyRest c.viewer c.plan c.dst.toNat c.moved k i s

/-- What a copy still has to move (R196): the state, the error code and the bytes it counts (R197). -/
def Copy.move (c : Copy) (s : State) : State × Nat × Nat :=
  let (n, z) := c.units s.dev
  let (s, code, bytes) := moveUnits c.unit c.moved z n 0 s
  let s := if code = 0 then s else c.rest (n - bytes / z) (bytes / z) s
  (c.spoil c.viewer s, code, if code = 0 then bytes else c.below bytes)

/-- A copy stopped at a context save (R202): the units below a free one have moved; the state and the bytes counted. -/
def Copy.stop (c : Copy) (s : State) : State × Nat :=
  let (k, z) := c.units s.dev
  let n := Config.free s.dev.freeCount % (k + 1)
  let s := { s with dev := { s.dev with freeCount := s.dev.freeCount + 1 } }
  let (s, _, bytes) := moveUnits c.unit c.moved z n 0 s
  (c.spoil c.viewer s, c.below bytes)

/-- Do the `n` bytes from one address and the `m` from another share one, addresses being taken modulo 2^64? -/
def spansMeet (a : Int) (n : Nat) (b : Int) (m : Nat) : Bool := decide (wrap 64 (b - a) < n) || decide (wrap 64 (a - b) < m)

/-- The engine's access at an address goes through a window that no port serves now (R378). -/
def Dev.cutAt (d : Dev) (c : Copy) (va : Int) : Bool :=
  match walk d c.root (wrap 64 va) with
  | .leaf _ e level =>
    let t := tlbOf (wrap 64 va) e level
    t.cls == .remote && (d.window c.ctx (t.frame / 2 ^ 48 % 256)).any Window.isCut
  | _ => false

/-- The copy waits for a port that reaches a peer (R378). -/
def Copy.waits (c : Copy) (d : Dev) : Bool :=
  d.windows.any (fun w => w.ctx == c.ctx && w.isCut) &&
    c.ranges.any fun (a, n) => (List.range (n / 4096 + 2)).any fun i => d.cutAt c (min (a + 4096 * i) (a + n - 1))

/-- The 64-bit status word of a copy (R197). -/
def copyStatus (code bytes : Nat) : Word := word (2 ^ 63 + code % 128 * 2 ^ 56 + bytes % 2 ^ 48)

/-- An x register of a hart, wherever it stands; what has issued behind its oldest instruction finds it written too (R105). -/
def Hart.setReg (h : Hart) (r : BitVec 5) (v : Word) : Hart :=
  if r = 0 then h
  else
    let put (x : Vector Word 32) : Vector Word 32 := x.set r.toNat v (by simpa using r.isLt)
    let side (d : Side) : Side := { d with x := put d.x }
    { h with
      x := put h.x
      ahead := h.ahead.map fun a =>
        { a with now := side a.now, queue := a.queue.map fun q => { q with side := side q.side } } }

/-- A copy's end reaches its target (R197): an increment is a release, which first performs at device scope the scalar
accesses that the owner made before the copy was forked (R327). -/
def State.notify (s : State) (c : Copy) (code bytes : Nat) : State :=
  match c.target with
  | .scalar r => s.mapHart c.owner fun h => h.setReg r (copyStatus code bytes)
  | .srf i =>
    let s := s.landLate c.owner fun l => decide (l.seq ≤ c.id)
    let s := s.drainTo fun e => e.seq ≤ c.id &&
      ((e.hart == c.owner && e.kind = .scalar) || e.readS.contains c.owner)
    { s with dev := s.dev.signal i (code = 0) }

/-- The copy engine's end record of a copy (R348); its ELEM is a free value. -/
def State.endRecord (s : State) (c : Copy) : State :=
  if s.tracing 2 then
    let n := s.dev.freeCount
    State.recordFor { s with dev := { s.dev with freeCount := n + 1 } } c.slot c.convoy 1 2 (Config.free n) c.pc
  else s

/-- The pending copy the engine serves (R199): the least slack, the oldest of several; the queue holds 64 (R198). -/
def served (cs : List Copy) : Option Copy :=
  (cs.take Config.copyQueueSize).foldl (fun b c => match b with
    | none => some c
    | some b => if c.slack < b.slack then some c else some b) none

/-- The copy with a number moves what it has left, ends and leaves the scoreboard. -/
def State.finishCopy (s : State) (c : Copy) : State :=
  let z := (c.units s.dev).2
  let (s, code, bytes) := c.move s
  let s := s.countCopied (bytes - z * (c.moved.filter fun i => decide (z * i < bytes)).length)
  let s := if code = 0x10 then { s with dev := s.dev.record (.memoryError c.owner) } else s
  let s := { s with core := { s.core with copies := s.core.copies.filter fun d => d.id != c.id } }
  (s.notify c code bytes).endRecord c

/-- The copy that the core's engine serves and that can end now. -/
def State.ready (s : State) : Option Copy := (served s.core.copies).filter fun c => !c.waits s.dev

/-- The copy's units move in ascending order: the keys of an SRDENSE (R265). -/
def Copy.ascends (c : Copy) : Bool :=
  match c.shape with
  | .dense _ _ _ => true
  | _ => false

/-- One unit of the copy that the engine serves moves (R196, R331): those of a copy in no fixed order. -/
def State.moveUnit (s : State) (i : Nat) : Option State :=
  s.ready.bind fun c =>
    if c.moved.contains i || (c.units s.dev).1 ≤ i || (c.ascends && decide (c.moved.length < i)) then none
    else match c.unit i s with
      | .error _ => none
      | .ok s =>
        let s := s.countCopied (c.units s.dev).2
        some { s with core := { s.core with copies := s.core.copies.map fun d =>
          if d.id = c.id then { d with moved := i :: d.moved } else d } }

/-- The engine completes the copy it serves, if any is pending: the progress a waiting instruction waits for. -/
def State.engineProgress (s : State) : State :=
  match s.ready with
  | some c => s.finishCopy c
  | none => s

/-- The instructions that the hart has issued and that have not completed, with the x registers as each read them. -/
def Hart.issuedWith (h : Hart) : List (Instr × Vector Word 32) :=
  match h.ahead with
  | none => []
  | some a => (h.held.map fun i => (i, h.x)).toList ++ a.queue.map fun q => (q.instr, q.side.x)

/-- Does an access of `n` bytes at an address overlap a range a copy of the core holds (R65, R200), from its issue by another
hart of the core on? Copies of another context name other bytes. -/
def State.held (s : State) (va n : Nat) : Bool :=
  let meets (r : Int × Nat) : Bool := spansMeet va n r.1 r.2
  (s.core.copies.any fun c => c.ctx == s.hart.ctx && c.ranges.any meets) ||
    s.parked.any fun h => h.ident.core == s.core.id && h.ctx == s.hart.ctx && (heldBy h.rb0 h.issuedWith).any meets

/-- The wait of R65 and R179: while a copy holds the range, the engine makes progress and the instruction stays. -/
def awaitRange (va n : Nat) : M Unit := fun s =>
  if s.held va n then
    let s := s.engineProgress
    .error ({ s with hart := { s.hart with fetchPin := none } }, .wait)
  else .ok ((), s)

end Sys2Proof.Machine
end

