-- ==== Sys2Proof/Machine/LoadStore.lean ====
section
/-!
DEFINITION. Scalar loads and stores (R61 to R65).
-/

namespace Sys2Proof.Machine

/-- The effective address of a scalar load or store (R61). -/
def scalarAddr (a : BitVec 5) (imm : BitVec 15) (s : State) : Word := s.x a + immI imm

/-- A scalar load at its place may retire before it has its value (R322): it cannot fail any more, and it is not the read of an
instruction that has read early. -/
def State.leavesLate (s : State) (pl : Place) (va : Word) (n : Nat) : Bool :=
  s.defers && pl.cls != .remote && s.hart.early.isEmpty && (s.watchHit va.toNat n .load).isNone &&
    (s.viewPoison s.hart.ident.uid .scalar pl.key n).isNone

/-- A scalar load (R61, R62, R65): the value, extended, goes to X[D], now or when the load is performed (R322). -/
def scalarLoad (n : Nat) (signExtends : Bool) (d a : BitVec 5) (imm : BitVec 15) (s : State) : Res :=
  complete4 (do
    let va := scalarAddr a imm s
    awaitRange va.toNat n
    let pl ← scalarPlace va n .load
    if (← get).leavesLate pl va n then modify fun s => s.addLate (.load d pl.key n signExtends s.dev.nextId)
    else
      let v ← scalarValue pl va n .load
      modify fun s => s.setX d (fillReg n signExtends v)) s

/-- An access that a watchpoint covers traps (R346). -/
def needUnwatched (va : Word) (n : Nat) (acc : Acc) : M Unit := fun s =>
  match s.watchHit va.toNat n acc with
  | some a => .error (s, .trap (watchTrap a 0))
  | none => .ok ((), s)

/-- A store to host memory or a remote window never runs provisionally (R85). -/
def needRetired (pl : Place) : M Unit := fun s =>
  if s.hart.prov.isSome && (pl.cls = .host || pl.cls = .remote) then waitHere s else .ok ((), s)

/-- A scalar store of `n` bytes (R61, R62, R65): performed into the write-combining buffer (R322). -/
def storeScalar (n : Nat) (va : Word) (v : Nat) : M Unit := do
  awaitRange va.toNat n
  let pl ← scalarPlace va n .store
  needUnwatched va n .store
  needRetired pl
  modify fun s => s.perform (s.entry .scalar pl (bytesOf n v))

/-- A scalar store: the low bytes of X[D] (R61). -/
def scalarStore (n : Nat) (d a : BitVec 5) (imm : BitVec 15) (s : State) : Res :=
  complete4 (storeScalar n (scalarAddr a imm s) (s.x d).toNat) s

/-- The sign extension of `n` bytes to a word. -/
def extS (n v : Nat) : Word := wordI (signed (8 * n) v)

/-- LB (R61). -/
def execLb (d a : BitVec 5) (imm : BitVec 15) (s : State) : Res := scalarLoad 1 true d a imm s

/-- LH (R61). -/
def execLh (d a : BitVec 5) (imm : BitVec 15) (s : State) : Res := scalarLoad 2 true d a imm s

/-- LW (R61). -/
def execLw (d a : BitVec 5) (imm : BitVec 15) (s : State) : Res := scalarLoad 4 true d a imm s

/-- LD (R61). -/
def execLd (d a : BitVec 5) (imm : BitVec 15) (s : State) : Res := scalarLoad 8 false d a imm s

/-- LBU (R61). -/
def execLbu (d a : BitVec 5) (imm : BitVec 15) (s : State) : Res := scalarLoad 1 false d a imm s

/-- LHU (R61). -/
def execLhu (d a : BitVec 5) (imm : BitVec 15) (s : State) : Res := scalarLoad 2 false d a imm s

/-- LWU (R61). -/
def execLwu (d a : BitVec 5) (imm : BitVec 15) (s : State) : Res := scalarLoad 4 false d a imm s

/-- SB (R61). -/
def execSb (d a : BitVec 5) (imm : BitVec 15) (s : State) : Res := scalarStore 1 d a imm s

/-- SH (R61). -/
def execSh (d a : BitVec 5) (imm : BitVec 15) (s : State) : Res := scalarStore 2 d a imm s

/-- SW (R61). -/
def execSw (d a : BitVec 5) (imm : BitVec 15) (s : State) : Res := scalarStore 4 d a imm s

/-- SD (R61). -/
def execSd (d a : BitVec 5) (imm : BitVec 15) (s : State) : Res := scalarStore 8 d a imm s

end Sys2Proof.Machine
end

