-- ==== Sys2Proof/Machine/Replay.lean ====
section
/-!
DEFINITION. Memory that agents outside the cores name by a context's addresses (R376), and the log of outside inputs (R342,
R343).
-/

namespace Sys2Proof.Machine

/-! ### Memory named by a context's addresses -/

/-- The translation of one page for the I/O die and its root ports (R376): the one they hold for the context, or a walk
that they keep. -/
def Dev.ioPage (d : Dev) (ctx root va : Nat) (acc : Acc) : Option (TlbEntry × Dev) :=
  match d.ioTlb.find? fun x => x.1 == ctx && x.2.vpn == va / 4096 && (!acc.writes || x.2.dirty) with
  | some x => if permits x.2 .s acc then some (x.2, d) else none
  | none =>
    match walkPage d root .s va acc with
    | .error _ => none
    | .ok (e, d) => some (e, { d with ioTlb := (ctx, e) :: d.ioTlb.filter fun x => !(x.1 == ctx && x.2.vpn == e.vpn) })

/-- Where `n` bytes of one page lie, for an agent outside the cores that uses a context's page tables. -/
def Dev.locate (d : Dev) (ctx root va n : Nat) (acc : Acc) : Option (Place × Dev) :=
  if inWindow va then none
  else (d.ioPage ctx root va acc).bind fun (e, d) => ((classify d ctx e va n).toOption).map fun pl => (pl, d)

/-- The I/O die's translations of a context are dropped (R93, R384), or the one of a page. -/
def Dev.dropIo (d : Dev) (ctx : Nat) (page : Option Nat) : Dev :=
  { d with ioTlb := d.ioTlb.filter fun x => !(x.1 == ctx && page.all fun p => p == x.2.vpn) }

/-- Such an agent meets an uncorrectable error (R91, R351): in the tables that it walks, or in the bytes that it reads. -/
def Dev.ioError (d : Dev) (ctx root va n : Nat) (acc : Acc) : Bool :=
  match d.locate ctx root va n acc with
  | some (pl, _) => !acc.writes && (d.poisoned pl.key n).isSome
  | none =>
    !inWindow va && !(d.ioTlb.any fun x => x.1 == ctx && x.2.vpn == va / 4096 && (!acc.writes || x.2.dirty)) &&
      match walk d root va with
      | .poison _ => true
      | _ => false

/-- The black box records an uncorrected error that an agent outside the cores has met (R351). -/
def Dev.noteIf (d : Dev) (met : Bool) : Dev := if met then d.record (.memoryError 256) else d

/-- Bytes that such an agent reads, byte by byte. -/
def Dev.readVirtual (d : Dev) (ctx root : Nat) : Nat → Nat → Option (List Byte × Dev)
  | _, 0 => some ([], d)
  | va, n + 1 =>
    match d.locate ctx root (va % 2 ^ 64) 1 .load with
    | none => none
    | some (pl, d) =>
      if (d.poisoned pl.key 1).isSome then none
      else (Dev.readVirtual d ctx root (va + 1) n).map fun (bs, d) => (Memory.read d.mem pl.key :: bs, d)

/-- A read of bytes stops at an uncorrectable error (R351). -/
def Dev.readError (d : Dev) (ctx root : Nat) : Nat → Nat → Bool
  | _, 0 => false
  | va, n + 1 =>
    let va := va % 2 ^ 64
    d.ioError ctx root va 1 .load ||
      (d.locate ctx root va 1 .load).any fun x => Dev.readError x.2 ctx root (va + 1) n

/-- Bytes that such an agent writes, byte by byte, where the page tables allow it. -/
def Dev.writeVirtual (d : Dev) (ctx root : Nat) : Nat → List Byte → Dev
  | _, [] => d
  | va, b :: bs =>
    match d.locate ctx root (va % 2 ^ 64) 1 .store with
    | none => Dev.writeVirtual (d.noteIf (d.ioError ctx root (va % 2 ^ 64) 1 .store)) ctx root (va + 1) bs
    | some (pl, d) => Dev.writeVirtual (d.write pl.key [b] {}) ctx root (va + 1) bs

/-- The root table of a registered context. -/
def Dev.contextOf (d : Dev) (ctx : Nat) : Option Context := d.contexts.find? fun c => c.num == ctx

/-- The root table's address of a context. -/
def Dev.rootOf (d : Dev) (ctx : Nat) : Nat := ((d.contextOf ctx).map (·.root)).getD 0

/-! ### Recording outside inputs -/

/-- What an outside input is (R342, R343); `srf` for one whose address is an SRF index. -/
structure OutsideInput where
  kind : Nat
  srf : Bool := false
  addr : Nat
  bytes : List Byte
  deriving DecidableEq, Repr

/-- The record of an input (R343), stamped by a hart at its U count. -/
def OutsideInput.record (i : OutsideInput) (lhart stamp doff : Nat) : Nat :=
  i.kind % 2 ^ 8 + lhart % 2 ^ 8 * 2 ^ 32 + stamp % 2 ^ 64 * 2 ^ 64 + i.addr % 2 ^ 64 * 2 ^ 128
    + doff % 2 ^ 32 * 2 ^ 192 + i.bytes.length % 2 ^ 32 * 2 ^ 224

/-- The U counts of a gang's harts (R342): of a gang off its cores, those its save areas hold. -/
def State.ucounts (s : State) (g : Gang) : List (Nat × Word) :=
  (((s.hart :: s.parked).filter fun h => h.ident.gang == g.id && h.status != .idle).map fun h => (h.ident.lhart, h.counts.ucount))
    ++ g.saved.map fun x => (x.ident.lhart, word (s.dev.read (deviceKey (x.area.toNat + 0x290)) 8))

/-- A recording gang logs an input (R342). LHART and STAMP stand free until an acquire has observed it. -/
def State.logInput (i : OutsideInput) (s : State) (g : Gang) : State :=
  let d := s.dev
  let root := d.rootOf g.ctx
  let c := d.freeCount
  let note : LoggedInput :=
    { num := g.logPos, kind := i.kind, srf := i.srf, addr := i.addr, len := i.bytes.length, version := (d.srfHome i.addr).version + 1
      counts := s.ucounts g }
  let d := { d with freeCount := c + 2 }
  let d := d.writeVirtual g.ctx root (g.log.toNat + 32 * g.logPos)
    (bytesOf 32 (i.record (Config.free c) (Config.free (c + 1)) g.logData))
  let d := d.writeVirtual g.ctx root (g.log.toNat + Config.logDataBase g.log.toNat + g.logData) i.bytes
  { s with dev := d.mapGang g.id fun g =>
      { g with logPos := g.logPos + 1, logData := g.logData + i.bytes.length, inputs := g.inputs ++ [note] } }

/-- Every recording gang that an input concerns logs it (R342). -/
def State.logInputs (s : State) (p : Gang → Bool) (i : OutsideInput) : State :=
  (s.dev.gangs.filter fun g => g.replay == 1 && p g).foldl (State.logInput i) s

/-- The record of an observed input takes the lowest logical hart whose acquire observes it, and its U count when the input
became visible (R343). -/
def State.stamp (lhart : Nat) (g : Gang) (s : State) (n : LoggedInput) : State :=
  let at' := g.log.toNat + 32 * n.num
  let root := s.dev.rootOf g.ctx
  let count := ((n.counts.find? fun c => c.1 == lhart).map fun c => c.2.toNat).getD 0
  let d := s.dev.writeVirtual g.ctx root (at' + 4) [BitVec.ofNat 8 lhart]
  { s with dev := d.writeVirtual g.ctx root (at' + 8) (bytesOf 8 count) }

/-- The input is one that the hart is the first, or the lowest so far, to observe (R343). -/
def LoggedInput.seenBy (n : LoggedInput) (lhart : Nat) (p : LoggedInput → Bool) : Bool :=
  p n && n.stamped.all fun h => decide (lhart < h)

/-- The hart's acquire observes the logged inputs of its gang that satisfy the test (R343). -/
def State.observe (s : State) (p : LoggedInput → Bool) : State :=
  let g := s.gang
  let lhart := s.hart.ident.lhart
  if g.replay = 1 then
    let s := (g.inputs.filter fun n => n.seenBy lhart p).foldl (State.stamp lhart g) s
    let mark (n : LoggedInput) : LoggedInput := if n.seenBy lhart p then { n with stamped := some lhart } else n
    s.mapGang fun g => { g with inputs := g.inputs.map mark }
  else s

/-- An acquire reads `n` bytes of device memory (R343). A write of a TAIL register is no write of memory. -/
def State.observeMem (s : State) (key n : Nat) : State :=
  s.observe fun i => !i.srf && i.kind != 2 && overlaps (deviceKey i.addr) i.len key n

/-- An acquire reads a version of a synchronisation register (R343). -/
def State.observeSrf (s : State) (i version : Nat) : State :=
  s.observe fun n => n.srf && n.addr == i && decide (n.version ≤ version)

/-- The input stands in a gang's SRF window. -/
def Gang.ownsSrf (g : Gang) (i : Nat) : Bool := g.srfBase ≤ i && i < g.srfBase + g.srfLen

end Sys2Proof.Machine
end

