-- ==== Sys2Proof/Machine/Amo.lean ====
section
/-!
DEFINITION. Scalar atomics (R66 to R68), with the order they carry (R325, R327, R328).
-/

namespace Sys2Proof.Machine

/-- The scopes whose coherence point lies beyond the core's buffer (R321). -/
def Scope.beyondCore : Scope → Bool
  | .hart | .core => false
  | .die | .device | .system => true

/-- Every posted access of the hart's context reaches its peer (R321, scope system). -/
def State.flushWindows (s : State) : State :=
  ((s.dev.windows.filter fun w => w.ctx = s.hart.ctx).map fun w => w.num).foldl (fun s n => s.flushWindow s.hart.ctx n) s

/-- The hart's earlier accesses of a kind are performed at a scope (R321): beyond the core their entries drain,
with those their loads have read, and at system scope what they posted has arrived. -/
def State.performAt (s : State) (sc : Scope) (kinds : AccessKind → Bool) : State :=
  let u := s.hart.ident.uid
  let s := s.landLate u fun l => kinds (if l.isScalar then .scalar else .vector)
  if sc.beyondCore then
    let s := s.drainTo fun e => (e.hart = u && kinds e.kind) || (kinds .scalar && e.readS.contains u) ||
      (kinds .vector && e.readV.contains u)
    if sc = .system then s.flushWindows else s
  else s

/-- What a release at a scope performs first (R327): the hart's earlier scalar accesses. -/
def State.release (s : State) (sc : Scope) : State := (s.performAt sc fun k => k = .scalar).closeEntries

/-- The operations of R66. -/
inductive AmoOp where
  | swap | add | and | or | xor | min | max | minu | maxu | cas
  deriving DecidableEq, Repr

/-- The new value of an atomic of `n` bytes (R66); for cas the operand. -/
def AmoOp.apply (op : AmoOp) (n old opnd : Nat) : Nat :=
  match op with
  | .swap | .cas => opnd
  | .add => (old + opnd) % 2 ^ (8 * n)
  | .and => old &&& opnd
  | .or => old ||| opnd
  | .xor => old ^^^ opnd
  | .min => if signed (8 * n) opnd < signed (8 * n) old then opnd else old
  | .max => if signed (8 * n) old < signed (8 * n) opnd then opnd else old
  | .minu => Nat.min old opnd
  | .maxu => Nat.max old opnd

/-- May the atomic reach the class (R67)? Host memory takes add, swap and cas, and only when the host completes AtomicOps;
outside device memory and the scratchpad the scope must be system. -/
def amoAllowed (op : AmoOp) (sc : Scope) (hostAtomics : Bool) : Class → Bool
  | .device | .scratch => true
  | .remote => sc = .system
  | .host => sc = .system && hostAtomics && (op = .add || op = .swap || op = .cas)

/-- At scope system a release or fence is held while no port reaches the peer of a window with posted accesses (R321,
R378). -/
def State.postsHeld (s : State) (sc : Scope) : Bool :=
  sc = .system && s.dev.windows.any fun w => w.ctx = s.hart.ctx && w.isCut && !w.posted.isEmpty

/-- The wait of a release or fence for posted accesses (R321, R378). -/
def awaitPosted (sc : Scope) : M Unit := fun s => if s.postsHeld sc then waitHere s else .ok ((), s)

/-- The place of an atomic (R62, R67): a refusal of the class goes before a lost link. -/
def amoPlace (va : Word) (n : Nat) (ok : Class → Bool) : M Place := fun s =>
  match scalarPlace va n .atomic s with
  | .ok (pl, s) =>
    if ok pl.cls then .ok (pl, s) else .error (s, .trap (scalarTrap { cause := .access } va n .atomic))
  | .error (s, .trap t) =>
    .error (s, .trap (if t.cause = .remoteLink && !ok .remote then scalarTrap { cause := .access } va n .atomic else t))
  | .error e => .error e

/-- The release part of an atomic's order (R327). -/
def State.amoRelease (s : State) (o : BitVec 2) (sc : Scope) : State := if orderReleases o then s.release sc else s

/-- Before an atomic is applied, the entries that overlap it drain and what its window has posted arrives (R325, R378). -/
def State.settle (s : State) (pl : Place) (n : Nat) : State :=
  let s := s.drainRange pl.key n
  if pl.cls = .remote then s.flushWindow s.hart.ctx pl.win else s

/-- The read-modify-write at the coherence point (R66): a cas whose comparison fails writes nothing. A tainted value escapes
only into a register (R340). -/
def amoAtomic (op : AmoOp) (pl : Place) (n old opnd : Nat) (fails returns : Bool) (s : State) : State :=
  let t := s.dev.rangeTainted pl.key n
  let s := if t then s.setTaint { s.hart.taint with read := true, escape := s.hart.taint.escape || returns } else s
  if fails then s else s.apply s.hart.ident.uid pl.key (bytesOf n (op.apply n old opnd)) {}

/-- A scalar atomic (R66, R67, R68): checks, order, effect. -/
def amo (op : AmoOp) (d a b : BitVec 5) (z : BitVec 1) (o : BitVec 2) (sc : BitVec 3) (tval : Nat) (s : State) : Res :=
  let n := if z = 0 then 4 else 8
  let va := s.x a
  let opnd := (s.x b).toNat % 2 ^ (8 * n)
  let expect := (s.x d).toNat % 2 ^ (8 * n)
  let scope := scopeOf sc
  complete4 (do
    need (!(s.hart.detm.atom && d != 0)) { cause := .determ, val := word tval }
    awaitRange va.toNat n
    let pl ← amoPlace va n (amoAllowed op scope s.dev.hostAtomics)
    let asStore := op = .swap && d = 0 && !orderAcquires o
    awaitWindow pl
    if !asStore then modify fun s => s.settle pl n
    let s ← get
    need (s.viewPoison s.hart.ident.uid .scalar pl.key n).isNone
      (scalarTrap { cause := .poison, info3 := word (physOf pl.key) } va n .atomic)
    needUnwatched va n .atomic
    if asStore then
      if orderReleases o then awaitPosted scope
      -- R325: it performs as a store and enters the buffer with its order
      modify fun s => (s.amoRelease o scope).perform { s.entry .scalar pl (bytesOf n opnd) with
        release := if orderReleases o then some scope else none }
    else
      let old := s.dev.read pl.key n
      let fails := op = .cas && old != expect
      if orderReleases o && !fails then awaitPosted scope
      modify fun s =>
        let s := amoAtomic op pl n old opnd fails (d != 0) (if fails then s else s.amoRelease o scope)
        let s := if d = 0 then s else s.setTaint { s.hart.taint with atom := true }
        let s := if d != 0 && orderAcquires o then s.closeEntries.observeMem pl.key n else s
        s.setX d (if n = 4 then extS 4 old else word old)) s

/-- AMOSWAP (R66). -/
def execAmoswap (d a b : BitVec 5) (z : BitVec 1) (o : BitVec 2) (sc : BitVec 3) (s : State) : Res :=
  amo .swap d a b z o sc (Instr.amoswap d a b z o sc).wordValue s

/-- AMOADD (R66). -/
def execAmoadd (d a b : BitVec 5) (z : BitVec 1) (o : BitVec 2) (sc : BitVec 3) (s : State) : Res :=
  amo .add d a b z o sc (Instr.amoadd d a b z o sc).wordValue s

/-- AMOAND (R66). -/
def execAmoand (d a b : BitVec 5) (z : BitVec 1) (o : BitVec 2) (sc : BitVec 3) (s : State) : Res :=
  amo .and d a b z o sc (Instr.amoand d a b z o sc).wordValue s

/-- AMOOR (R66). -/
def execAmoor (d a b : BitVec 5) (z : BitVec 1) (o : BitVec 2) (sc : BitVec 3) (s : State) : Res :=
  amo .or d a b z o sc (Instr.amoor d a b z o sc).wordValue s

/-- AMOXOR (R66). -/
def execAmoxor (d a b : BitVec 5) (z : BitVec 1) (o : BitVec 2) (sc : BitVec 3) (s : State) : Res :=
  amo .xor d a b z o sc (Instr.amoxor d a b z o sc).wordValue s

/-- AMOMIN (R66). -/
def execAmomin (d a b : BitVec 5) (z : BitVec 1) (o : BitVec 2) (sc : BitVec 3) (s : State) : Res :=
  amo .min d a b z o sc (Instr.amomin d a b z o sc).wordValue s

/-- AMOMAX (R66). -/
def execAmomax (d a b : BitVec 5) (z : BitVec 1) (o : BitVec 2) (sc : BitVec 3) (s : State) : Res :=
  amo .max d a b z o sc (Instr.amomax d a b z o sc).wordValue s

/-- AMOMINU (R66). -/
def execAmominu (d a b : BitVec 5) (z : BitVec 1) (o : BitVec 2) (sc : BitVec 3) (s : State) : Res :=
  amo .minu d a b z o sc (Instr.amominu d a b z o sc).wordValue s

/-- AMOMAXU (R66). -/
def execAmomaxu (d a b : BitVec 5) (z : BitVec 1) (o : BitVec 2) (sc : BitVec 3) (s : State) : Res :=
  amo .maxu d a b z o sc (Instr.amomaxu d a b z o sc).wordValue s

/-- AMOCAS (R66). -/
def execAmocas (d a b : BitVec 5) (z : BitVec 1) (o : BitVec 2) (sc : BitVec 3) (s : State) : Res :=
  amo .cas d a b z o sc (Instr.amocas d a b z o sc).wordValue s

end Sys2Proof.Machine
end

