-- ==== Sys2Proof/Machine/Branch.lean ====
section
/-!
DEFINITION. Branches, jumps and the hardware loops (R51 to R60).
-/

namespace Sys2Proof.Machine

/-- A word offset from the instruction at pc (R34). -/
def wordTarget {n : Nat} (pc : Word) (o : BitVec n) : Word := pc + o.signExtend 64 * 4

/-- One loop's LACT bit after a transfer out of its body (R57). -/
def leaves (active : Bool) (b e pc target : Word) : Bool :=
  active && b.toNat ≤ pc.toNat && pc.toNat ≤ e.toNat && !(b.toNat ≤ target.toNat && target.toNat ≤ e.toNat)

/-- LACT after a taken branch or a jump that links nothing (R57). -/
def Loops.exit (l : Loops) (pc target : Word) : Loops :=
  let k0 := leaves (l.lact.getLsbD 0) l.lb0 l.le0 pc target
  let k1 := leaves (l.lact.getLsbD 1) l.lb1 l.le1 pc target
  { l with lact := l.lact &&& ((if k1 then 0#1 else 1#1) ++ (if k0 then 0#1 else 1#1)) }

/-- A conditional branch (R51): taken or not. -/
def branch (taken : Bool) (o : BitVec 12) (s : State) : Res :=
  if taken then
    let t := wordTarget s.hart.pc o
    .next ((s.setLoops (s.hart.loops.exit s.hart.pc t)).transfer t)
  else .next (s.advance 4)

/-- BEQ (R51). -/
def execBeq (a b : BitVec 5) (o : BitVec 12) (s : State) : Res := branch (s.x a == s.x b) o s

/-- BNE (R51). -/
def execBne (a b : BitVec 5) (o : BitVec 12) (s : State) : Res := branch (s.x a != s.x b) o s

/-- BLT (R51). -/
def execBlt (a b : BitVec 5) (o : BitVec 12) (s : State) : Res := branch ((s.x a).slt (s.x b)) o s

/-- BGE (R51). -/
def execBge (a b : BitVec 5) (o : BitVec 12) (s : State) : Res := branch (!(s.x a).slt (s.x b)) o s

/-- BLTU (R51). -/
def execBltu (a b : BitVec 5) (o : BitVec 12) (s : State) : Res := branch ((s.x a).ult (s.x b)) o s

/-- BGEU (R51). -/
def execBgeu (a b : BitVec 5) (o : BitVec 12) (s : State) : Res := branch (!(s.x a).ult (s.x b)) o s

/-- The transfer of a jump (R52, R57): the link, and the loops left when nothing is linked. -/
def jump (d : BitVec 5) (target : Word) (s : State) : Res :=
  let l := if d = 0 then s.hart.loops.exit s.hart.pc target else s.hart.loops
  .next (((s.setX d (s.hart.pc + 4)).setLoops l).transfer target)

/-- JAL (R52). -/
def execJal (d : BitVec 5) (o : BitVec 20) (s : State) : Res := jump d (wordTarget s.hart.pc o) s

/-- JALR (R52): a target that is no multiple of 4 traps MISALIGNED with the frame of R386. -/
def execJalr (d a : BitVec 5) (i : BitVec 15) (s : State) : Res :=
  let t := s.x a + immI i
  if t.toNat % 4 ≠ 0 then
    .next (s.takeTrap { cause := .misaligned, val := t, info := .frame { kind := 4, acc := 3, size := 4, base := t } })
  else jump d t s

/-- The loop registers of loop `k` set up (R54, R55). -/
def Loops.setup (l : Loops) (k : BitVec 1) (b e count : Word) : Loops :=
  if k = 0 then { l with lb0 := b, le0 := e, lc0 := count, lact := if count = 0 then l.lact &&& 2#2 else l.lact ||| 1#2 }
  else { l with lb1 := b, le1 := e, lc1 := count, lact := if count = 0 then l.lact &&& 1#2 else l.lact ||| 2#2 }

/-- The frame of a fetch trap (R386). -/
def fetchFrame (pc : Word) (size : Nat) : Frame := { kind := 4, acc := 3, size := size, base := pc }

/-- One word read with the checks of an instruction fetch (R31 step 1, R54, R333): from the coherence point. -/
def fetchWord (s : State) (va : Nat) : Except (Failure × State) (Word32 × State) :=
  match s.locate va 4 .fetch with
  | .error f => .error f
  | .ok (pl, s) =>
    match s.dev.poisoned pl.key 4 with
    | some _ => .error ({ cause := .poison, info3 := word (physOf pl.key) }, s)
    | none => .ok (BitVec.ofNat 32 (s.dev.read pl.key 4), s)

/-- Setting up a loop (R54): with a zero count the word at the body's end is read, and control goes past it. -/
def loopStart (k : BitVec 1) (b e count : Word) (size : Nat) (s : State) : Res :=
  if count = 0 then
    match fetchWord s e.toNat with
    | .error (f, s) =>
      .next (s.takeTrap (accessTrap { f with cause := .pageFaultFetch } e 0 .fetch e (fetchFrame e 4)))
    | .ok (w, s) =>
      .next ((s.setLoops (s.hart.loops.setup k b e count)).transfer (e + (if isLong w then 8 else 4)))
  else .next ((s.setLoops (s.hart.loops.setup k b e count)).advance size)

/-- LOOP (R54). -/
def execLoop (k : BitVec 1) (a : BitVec 5) (i : BitVec 15) (s : State) : Res :=
  loopStart k (s.hart.pc + 4) (s.hart.pc + i.setWidth 64 * 4) (s.x a) 4 s

/-- LOOPI (R55). -/
def execLoopi (k : BitVec 1) (dist count : BitVec 16) (s : State) : Res :=
  loopStart k (s.hart.pc + 8) (s.hart.pc + dist.setWidth 64 * 4) (count.setWidth 64) 8 s

end Sys2Proof.Machine
end

