-- ==== Sys2Proof/Machine/Csr.lean ====
section
/-!
DEFINITION. The control and status registers and the instructions that access them (R41 to R43), with the layouts of R53,
R70, R78, R112, R126, R147, R203, R219, R224, R237, R244, R275 and R340.
-/

namespace Sys2Proof.Machine

/-- What a privilege level may do with a CSR (R41). -/
inductive CsrAccess where
  | none | ro | rw
  deriving DecidableEq, Repr

/-- The access table of R41. -/
def csrAccess (p : Priv) (c : Nat) : CsrAccess :=
  if c = 0x010 || c = 0x015 || c = 0x016 || c = 0x018 || c = 0xC00 || c = 0xC01 || (0xF10 ≤ c && c ≤ 0xF12) then .ro
  else if c = 0x001 || (0x011 ≤ c && c ≤ 0x014) || c = 0x017 || c = 0x019 || (0x020 ≤ c && c ≤ 0x026) ||
      (0x030 ≤ c && c ≤ 0x037) then .rw
  else if 0x100 ≤ c && c ≤ 0x102 then (if p = .s then .ro else .none)
  else if 0x140 ≤ c && c ≤ 0x14A then (if p = .s then .rw else .none)
  else .none

/-- The value of an assigned CSR (R41). CYCLE is the count at the retirement of the reading instruction (R43). -/
def csrRead (s : State) (c : Nat) : Word :=
  let h := s.hart
  match c with
  | 0x001 => word h.fcsr.pack
  | 0x010 => word h.vec.vl
  | 0x011 => word h.vec.vstart
  | 0x012 => word h.vec.vtype.pack
  | 0x013 => word h.vec.lslip
  | 0x014 => word h.vec.hdim
  | 0x015 => word h.mat.mvl
  | 0x016 => word h.mat.shape
  | 0x017 => word h.mat.lpart
  | 0x018 => word h.detm.pack
  | 0x019 => word h.taint.pack
  | 0x020 => h.loops.lb0
  | 0x021 => h.loops.le0
  | 0x022 => h.loops.lc0
  | 0x023 => h.loops.lb1
  | 0x024 => h.loops.le1
  | 0x025 => h.loops.lc1
  | 0x026 => h.loops.lact.setWidth 64
  | 0x030 => h.engine.hmargin
  | 0x031 => h.engine.hfidx[0]
  | 0x032 => h.engine.hfidx[1]
  | 0x033 => h.engine.hfidx[2]
  | 0x034 => h.engine.hfidx[3]
  | 0x035 => h.engine.hfstat
  | 0x036 => h.engine.vsstat
  | 0x037 => h.engine.estat
  | 0x100 => word s.core.pb0
  | 0x101 => word s.core.pb1
  | 0x102 => word s.core.pb2
  | 0x140 => h.trap.cause.setWidth 64
  | 0x141 => h.trap.tpc
  | 0x142 => h.trap.tval
  | 0x143 => word h.trap.tstart
  | 0x144 => h.trap.tinfo0
  | 0x145 => h.trap.tinfo1
  | 0x146 => h.trap.tinfo2
  | 0x147 => h.trap.tinfo3
  | 0x148 => h.trap.tvec
  | 0x149 => h.trap.tvtype
  | 0x14A => word h.trap.status.pack
  | 0xC00 => h.counts.cycle + word (Config.clocks s.dev.freeCount)
  | 0xC01 => h.counts.instret
  | 0xF10 => word h.ident.hartid
  | 0xF11 => word h.ident.coreid
  | 0xF12 => word h.ident.dieid
  | _ => 0

/-- A word with its two lowest bits reserved (R53, R78). -/
def wordAligned (v : Word) : Word := v &&& ~~~3#64

/-- The low `n` bits of a word. -/
def lowBits (n : Nat) (v : Word) : Word := word (v.toNat % 2 ^ n)

/-- MVL in matrix mode for a cap (R203). -/
def mvlFor (pavilions lpart : Nat) : Nat := 64 * (if lpart = 0 then pavilions else min pavilions lpart)

/-- MVL takes a new value (R204): when it changes, the shape, VL, the weight buffer and the tiles are cleared, and every
vector element at or above the new RB becomes zero. -/
def State.setMvl (s : State) (new : Nat) : State :=
  if new = s.hart.mat.mvl then s
  else
    let rb := if new = 0 then s.hart.rb0 else 32 * new
    { s with hart := { s.hart with
        mat := { s.hart.mat with mvl := new, m := 0, n := 0, k := 0, wbuf := none, tiles := Vector.replicate 4 {} }
        vec := { s.hart.vec with vl := 0 }
        v := s.hart.v.map fun r => { r with data := r.data % 2 ^ (8 * rb) } } }

/-- The state after a CSR takes a value, or none where a field holds a value its description does not allow (R42). -/
def csrWrite (s : State) (c : Nat) (v : Word) : Option State :=
  let h := s.hart
  let setLoops (l : Loops) : Option State := some (s.setLoops l)
  let setTrap (t : TrapRegs) : Option State := some (s.setTrap t)
  let setEngine (e : EngineCsrs) : Option State := some { s with hart := { h with engine := e } }
  match c with
  | 0x001 => (Fcsr.unpack v.toNat).map fun f => { s with hart := { h with fcsr := f } }
  | 0x011 => some (s.setVstart (v.toNat % 2 ^ 16))
  | 0x012 => (VType.unpack v.toNat).map fun t => s.setVType t
  | 0x013 => some (s.setVec { h.vec with lslip := v.toNat % 16 })
  | 0x014 =>
    let d := v.toNat % 2 ^ 17
    if d % 64 = 0 && 64 ≤ d && d ≤ 65536 then some (s.setVec { h.vec with hdim := d }) else none
  | 0x017 =>
    let p := v.toNat % 4
    if p = 3 then none
    else
      let s := s.setMat { h.mat with lpart := p }
      some (if h.mat.mvl = 0 then s else s.setMvl (mvlFor h.pavilions p))
  | 0x019 => some (s.setTaint (TaintBits.unpack v.toNat))
  | 0x020 => setLoops { h.loops with lb0 := wordAligned v }
  | 0x021 => setLoops { h.loops with le0 := wordAligned v }
  | 0x022 => setLoops { h.loops with lc0 := v }
  | 0x023 => setLoops { h.loops with lb1 := wordAligned v }
  | 0x024 => setLoops { h.loops with le1 := wordAligned v }
  | 0x025 => setLoops { h.loops with lc1 := v }
  | 0x026 => setLoops { h.loops with lact := v.setWidth 2 }
  | 0x030 => setEngine { h.engine with hmargin := lowBits 48 v }
  | 0x031 => setEngine { h.engine with hfidx := h.engine.hfidx.set 0 (lowBits 12 v) }
  | 0x032 => setEngine { h.engine with hfidx := h.engine.hfidx.set 1 (lowBits 12 v) }
  | 0x033 => setEngine { h.engine with hfidx := h.engine.hfidx.set 2 (lowBits 12 v) }
  | 0x034 => setEngine { h.engine with hfidx := h.engine.hfidx.set 3 (lowBits 12 v) }
  | 0x035 => setEngine { h.engine with hfstat := lowBits 20 v }
  | 0x036 => setEngine { h.engine with vsstat := lowBits 2 v }
  | 0x037 => setEngine { h.engine with estat := v &&& ~~~0xFC#64 }
  | 0x140 => setTrap { h.trap with cause := v.setWidth 8 }
  | 0x141 => setTrap { h.trap with tpc := wordAligned v }
  | 0x142 => setTrap { h.trap with tval := v }
  | 0x143 => setTrap { h.trap with tstart := v.toNat % 2 ^ 16 }
  | 0x144 => setTrap { h.trap with tinfo0 := v }
  | 0x145 => setTrap { h.trap with tinfo1 := v }
  | 0x146 => setTrap { h.trap with tinfo2 := v &&& ~~~0xFFFF#64 }
  | 0x147 => setTrap { h.trap with tinfo3 := v }
  | 0x148 => setTrap { h.trap with tvec := wordAligned v }
  | 0x149 => setTrap { h.trap with tvtype := v }
  | 0x14A => setTrap { h.trap with status := h.trap.status.write v.toNat }
  | _ => none

/-- The operations of R42. -/
inductive CsrOp where
  | write | set | clear
  deriving DecidableEq, Repr

/-- The new value of a CSR (R42). -/
def CsrOp.apply (op : CsrOp) (old src : Word) : Word :=
  match op with
  | .write => src
  | .set => old ||| src
  | .clear => old &&& ~~~src

/-- The trap of a CSR instruction that the register refuses (R42): ILLEGAL, TVAL the word. -/
def illegal (i : Instr) : Trap := { cause := .illegal, val := word i.wordValue }

/-- A CSR instruction (R42): the checks, the write, and the old value to X[D]. -/
def csr (op : CsrOp) (d : BitVec 5) (c : BitVec 12) (src : Word) (writes : Bool) (i : Instr) (s : State) : Res :=
  let acc := csrAccess s.hart.priv c.toNat
  if acc = .none || (writes && acc = .ro) then .next (s.takeTrap (illegal i))
  else
    let old := csrRead s c.toNat
    if writes then
      match csrWrite s c.toNat (op.apply old src) with
      | none => .next (s.takeTrap (illegal i))
      | some s' => .next ((s'.setX d old).advance 4)
    else .next ((s.setX d old).advance 4)

/-- CSRRW (R42). -/
def execCsrrw (d a : BitVec 5) (c : BitVec 12) (s : State) : Res := csr .write d c (s.x a) true (.csrrw d a c) s

/-- CSRRS (R42). -/
def execCsrrs (d a : BitVec 5) (c : BitVec 12) (s : State) : Res := csr .set d c (s.x a) (a != 0) (.csrrs d a c) s

/-- CSRRC (R42). -/
def execCsrrc (d a : BitVec 5) (c : BitVec 12) (s : State) : Res := csr .clear d c (s.x a) (a != 0) (.csrrc d a c) s

/-- CSRRWI (R42). -/
def execCsrrwi (d u : BitVec 5) (c : BitVec 12) (s : State) : Res :=
  csr .write d c (u.setWidth 64) true (.csrrwi d u c) s

/-- CSRRSI (R42). -/
def execCsrrsi (d u : BitVec 5) (c : BitVec 12) (s : State) : Res :=
  csr .set d c (u.setWidth 64) (u != 0) (.csrrsi d u c) s

/-- CSRRCI (R42). -/
def execCsrrci (d u : BitVec 5) (c : BitVec 12) (s : State) : Res :=
  csr .clear d c (u.setWidth 64) (u != 0) (.csrrci d u c) s

end Sys2Proof.Machine
end

