-- ==== Sys2Proof/Machine/Strips.lean ====
section
/-!
DEFINITION. Strips: the elements a bound register delivers to the instruction that reads it (R186 to R193).
-/

namespace Sys2Proof.Machine

/-- The VTYPE under which a stream decodes (R189): RNE, FZ 0, SAT 1. -/
def stripVType : VType := { sat := true }

/-- The exact value of an element of the I, W, F or RN class. -/
def exactValue (t : Tag) (k : Nat) : Fv :=
  match tagClass t with
  | .f => (fmtOf t).decode k
  | .rn => let z := (rnValue t k).1; .fin (decide (z < 0)) z.natAbs 0
  | _ => let z := elemInt t k; .fin (decide (z < 0)) z.natAbs 0

/-- One stream element decoded (R189): scaled with one rounding in SMODE 1, else converted. -/
def decodeStrip (b : Binding) (raw scale : Nat) : ElemRes :=
  if b.smode = 1 then
    let x := exactValue b.mtag raw
    let y := fmtF32.decode scale
    let nc := tagClass b.mtag = .rn && (rnValue b.mtag raw).2
    let (r, fl) := fpMul (fmtOf b.ttag) .rne false x y
    (r, { flags := fl, rninv := nc })
  else if tagClass b.mtag = .hb || tagClass b.mtag = .hc then (raw, {})
  else convert b.mtag b.ttag stripVType raw

/-- One engine read of `n` aligned bytes with the steps of R62: the number and its taint, or the failure with the
address TVAL takes. -/
def streamRead (s : State) (w : Viewer) (va n : Nat) : Except FetchFailure (Nat × Bool × State) :=
  if va % n ≠ 0 then .error { cause := .misaligned, val := word va, info3 := 0 }
  else
    match enginePiece s w va n with
    | .error f => .error { cause := f.cause, val := word va, info3 := f.info3, walkEntry := f.walkEntry }
    | .ok (bs, t, s) => .ok (ofBytes bs, t, s)

/-- The stream thread fetches element `e` (R189, R192): the data, and in SMODE 1 its scale. A data failure decides. -/
def fetchElem (s : State) (w : Viewer) (b : Binding) (e : Nat) : StreamElem × State :=
  let a := wrap 64 (b.base.toInt + b.stride.toInt * e)
  match streamRead s w a (tagWidth b.mtag) with
  | .error f => ({ e := e, raw := 0, scale := 0, taint := false, failure := some f, onScale := false }, s)
  | .ok (raw, t, s) =>
    if b.smode = 1 then
      match streamRead s w (wrap 64 (b.sbase.toInt + 4 * (e / b.group : Nat))) 4 with
      | .error f => ({ e := e, raw := raw, scale := 0, taint := t, failure := some f, onScale := true }, s)
      | .ok (sc, t', s) => ({ e := e, raw := raw, scale := sc, taint := t || t', failure := none, onScale := false }, s)
    else ({ e := e, raw := raw, scale := 0, taint := t, failure := none, onScale := false }, s)

/-- The engine's access rights of a stream thread. -/
def State.streamViewer (s : State) (b : Binding) : Viewer := { s.viewer with fork := b.fork, priv := b.priv }

/-- The stream elements `e` to `e + k - 1` below LENGTH, from the buffer or fetched now: each is read once (R191), and a
recorded failure stays recorded (R192). -/
def fetchStrip (w : Viewer) (b : Binding) : Nat → Nat → State → List StreamElem × State
  | 0, _, s => ([], s)
  | k + 1, e, s =>
    if b.length ≤ e then ([], s)
    else
      let (x, s) := match b.buffer.find? fun x => x.e == e with
        | some x => (x, s)
        | none => fetchElem s w b e
      let (xs, s) := fetchStrip w b k (e + 1) s
      (x :: xs, s)

/-- A source operand as the instruction reads it: the register or the strip it delivers, the position and trap of the
lowest element that cannot be delivered, and the slot with the length of its strip. -/
structure Src where
  reg : BitVec 6
  data : Nat
  tag : Tag
  taint : Nat
  fail : Option (Nat × Trap) := none
  strip : Option (Nat × Nat) := none

/-- Element `i` of a source. -/
def Src.elem (x : Src) (i : Nat) : Nat := item (8 * tagWidth x.tag) x.data i

/-- The frame of a failed stream fetch (R192). -/
def stripFrame (b : Binding) (n : Nat) (onScale : Bool) (info3 : Word) : Frame :=
  let r := min n (b.length - b.consumed)
  if onScale then
    { kind := 6, acc := 0, size := 4, stride := 4, info3 := info3
      base := b.sbase + word (4 * (b.consumed / b.group))
      remain := (b.consumed + r - 1) / b.group - b.consumed / b.group + 1 }
  else
    { kind := 6, acc := 0, size := tagWidth b.mtag, stride := b.stride, info3 := info3
      base := b.base + b.stride * word b.consumed, remain := r }

/-- The trap of a failed fetch at a position (R192), with the walk's frame when the failure is a walk's (R91). -/
def fetchTrap (f : FetchFailure) (elem : Nat) (fr : Frame) : Trap :=
  accessTrap { cause := f.cause, info3 := f.info3, walkEntry := f.walkEntry } f.val elem .load f.val fr

/-- The lowest element at or above `start` and below `n` whose fetch failed, with its trap (R192). The lower of the
element's addresses that fail is TVAL; `len` is the length of the strip. -/
def stripFailure (b : Binding) (len n start : Nat) (xs : List StreamElem) : Option (Nat × Trap) :=
  (xs.find? fun x => start ≤ x.e - b.consumed && x.e - b.consumed < n && x.failure.isSome).bind fun x =>
    x.failure.map fun f => (x.e - b.consumed, fetchTrap f (x.e - b.consumed) (stripFrame b len x.onScale 0))

/-- A slot replaced. -/
def State.setStream (s : State) (k : Nat) (b : Option Binding) : State :=
  { s with hart := { s.hart with streams := s.hart.streams.setIfInBounds k b } }

/-- The slot `k`. -/
def State.stream (s : State) (k : Nat) : Option Binding := (s.hart.streams[k]?).join

/-- VLMAX for elements of `w` bytes (R108). -/
def State.vlmax (s : State) (w : Nat) : Nat := s.rb / w

/-- The element range n of an instruction (R140, R225): `main` is the tag that fixes the range, `w` the widest element
width it reads or writes. -/
def State.range (s : State) (main : Tag) (w : Nat) : Nat :=
  if s.hart.vec.vl = 0 then 0
  else match tagClass main with
    | .hb => s.hart.vec.hdim / 32
    | .hc => s.hart.vec.hdim
    | _ => min s.hart.vec.vl (s.vlmax w)

/-- The length of the strip a bound register delivers (R189). -/
def State.stripLength (s : State) (b : Binding) : Nat := s.range b.ttag (tagWidth b.ttag)

/-- The strip of `len` elements a bound register delivers (R189) to an instruction that uses elements `start` to `n - 1`: a
spoiled buffer delivers free values (R191). -/
def readStrip (r : BitVec 6) (k : Nat) (b : Binding) (len n start : Nat) : M Src := fun s =>
  let (xs, s) := fetchStrip (s.streamViewer b) b len b.consumed s
  let s := s.setStream k (some { b with
    buffer := xs ++ b.buffer.filter fun y => y.e < b.consumed || b.consumed + len ≤ y.e })
  let c := s.dev.freeCount
  let val (x : StreamElem) : Nat :=
    if b.spoiled then Config.free (c + x.e) % 2 ^ (8 * tagWidth b.ttag) else (decodeStrip b x.raw x.scale).1
  let s := if b.spoiled then { s with dev := { s.dev with freeCount := c + b.consumed + len } } else s
  let data := xs.foldl (fun d x => setItem (8 * tagWidth b.ttag) d (x.e - b.consumed) (val x)) 0
  let taint := xs.foldl (fun t x => if x.taint then setBit t ((x.e - b.consumed) / 16) true else t) 0
  .ok ({ reg := r, data := data, tag := b.ttag, taint := taint, fail := stripFailure b len n start xs
         strip := some (k, len) }, s)

/-- Are the element groups that hold elements `lo` to `hi - 1` present? -/
def VReg.present (v : VReg) (lo hi : Nat) : Bool :=
  hi ≤ lo || (v.absent >>> (lo / 16)) % 2 ^ ((hi - 1) / 16 - lo / 16 + 1) = 0

/-- The slot a register is bound to, with its number. -/
def State.boundSlot (s : State) (r : BitVec 6) : Option (Nat × Binding) :=
  (s.v r).bound.bind fun k => (s.stream k).map fun b => (k, b)

/-- A vector source read over elements `lo` to `n - 1`, as a strip of `len` elements if it is bound (R142, R189): it waits
for the groups it reads. -/
def readSrcOf (len : Option Nat) (r : BitVec 6) (lo n : Nat) : M Src := fun s =>
  match s.boundSlot r with
  | some (k, b) => readStrip r k b (len.getD (s.stripLength b)) n lo s
  | none =>
    let v := s.v r
    if v.present lo n then .ok ({ reg := r, data := v.data, tag := v.tag, taint := v.taint }, s) else waitHere s

/-- A vector source read over elements `lo` to `n - 1` (R142, R189). -/
def readSrc (r : BitVec 6) (lo n : Nat) : M Src := readSrcOf none r lo n

/-- What the decoding of the elements of a strip raises (R189), and whether a tainted one raises something. -/
def Binding.raised (b : Binding) (len : Nat) : Raised × Bool :=
  if b.spoiled then ({}, false)
  else (b.buffer.filter fun x => b.consumed ≤ x.e && x.e < b.consumed + len && x.failure.isNone).foldl
    (fun (r, t) x => let m := (decodeStrip b x.raw x.scale).2; (r.or m, t || (x.taint && m != {}))) ({}, false)

/-- A strip is consumed at the completion of its instruction (R86, R189): its elements' decoding raises what it raises, and
the slot moves on. The slot counts without a limit; its image holds the low 32 bits of CONSUMED and STRIPS, and what R186
does beyond 2^32 is left open (a DESIGN CHOICE). -/
def consumeStrip (x : Nat × Nat) (s : State) : State :=
  match s.stream x.1 with
  | none => s
  | some b =>
    let (r, t) := b.raised x.2
    ((s.raise r).markEscape t).setStream x.1 (some { b with
      consumed := b.consumed + x.2
      streamEnd := b.streamEnd || decide (b.length < b.consumed + x.2)
      buffer := b.buffer.filter fun y => b.consumed + x.2 ≤ y.e })

/-- The strip of a source is consumed, if it is bound. -/
def consume (x : Src) (s : State) : State :=
  match x.strip with
  | none => s
  | some k => consumeStrip k s

/-- A strip of `n` elements of a register is consumed, if it is bound. -/
def consumeReg (r : BitVec 6) (n : Nat) (s : State) : State :=
  match s.boundSlot r with
  | none => s
  | some (k, _) => consumeStrip (k, n) s

/-- Every source's strip is consumed; an instruction that names a register twice reads one strip (R189). -/
def consumeAll (xs : List Src) (s : State) : State :=
  (xs.filterMap fun x => x.strip).eraseDups.foldl (fun s k => consumeStrip k s) s

end Sys2Proof.Machine
end

