-- ==== Sys2Proof/Machine/Operands.lean ====
section
/-!
DEFINITION. How a vector instruction reads its operands and writes its destination: element ranges, the checks of R142,
and the element-wise run of R141.
-/

namespace Sys2Proof.Machine

/-- The TVAL of a TAGMISMATCH (R387). -/
def tagPair (a b : Nat) : Word := word (a + b * 2 ^ 8)

/-- The TAGMISMATCH trap of two tags (R387). -/
def tagTrap (a b : Tag) : Trap := { cause := .tagMismatch, val := tagPair (tagCode a) (tagCode b) }

/-- A hypervector register holds HDIM components only if they fit (R226). -/
def fits (s : State) (t : Tag) : Bool :=
  match t with
  | .hb => s.hart.vec.hdim / 8 ≤ s.rb
  | .hc => s.hart.vec.hdim ≤ s.rb
  | _ => true

/-- The check of R226, after check 2 of R142. -/
def needFits (t : Tag) : M Unit := fun s => need (fits s t) (tagTrap t .none) s

/-- The STREAM trap of a bound register (R80). -/
def streamTrap (r : BitVec 6) : Trap := { cause := .stream, val := word r.toNat }

/-- Check 3 of R142: the destination is not bound. -/
def needUnbound (d : BitVec 6) : M Unit := fun s => need (s.v d).bound.isNone (streamTrap d) s

/-- Elements `i` to `i + k - 1` of a destination with items of `n` bits, those the mask selects computed by `f`: the data
and what they raise. -/
def elems (n mask : Nat) (f : Nat → ElemRes) : Nat → Nat → Nat × Raised → Nat × Raised
  | 0, _, acc => acc
  | k + 1, i, (d, r) =>
    elems n mask f k (i + 1) (if mask.testBit i then let (v, r') := f i; (setItem n d i v, r.or r') else (d, r))

/-- The mask cut to elements `lo` to `hi - 1`. -/
def maskFrom (mask lo hi : Nat) : Nat := mask % 2 ^ hi / 2 ^ lo * 2 ^ lo

/-- The element groups that hold a selected element. -/
def groupsOf (mask n : Nat) : Nat :=
  (List.range ((n + 15) / 16)).foldl (fun g j => if bits (16 * j) 16 mask != 0 then g + 2 ^ j else g) 0

/-- The element groups all of whose elements are selected. -/
def fullGroups (mask n : Nat) : Nat :=
  (List.range ((n + 15) / 16)).foldl (fun g j => if bits (16 * j) 16 mask = 2 ^ 16 - 1 then g + 2 ^ j else g) 0

/-- The taint bits of a destination whose selected elements are written from sources with the taint bits `src` (R144): a
group keeps its own taint unless all of it is overwritten. -/
def taintAfter (old src mask n : Nat) : Nat :=
  let g := groupsOf mask n
  let f := fullGroups mask n
  (old ^^^ (old &&& f)) ||| (src &&& g)

/-- The destination's tail zeroed (R130): elements `lo` to `hi - 1` of `n` bits. -/
def zeroTail (n d lo hi : Nat) : Nat :=
  if hi ≤ lo then d else d % 2 ^ (n * lo) + d / 2 ^ (n * hi) * 2 ^ (n * hi)

/-- Where an interruptible instruction stops (R83, R145): at the first group boundary the agenda names above the start. -/
def State.stopAt (s : State) (start n : Nat) : Option Nat :=
  s.pause.bind fun p => let q := p / 16 * 16; if start < q && q < n then some q else none

/-- An instruction stopped inside at unit `n`: it runs on from there when its hart's turn comes again. -/
def stopInside {α : Type} (n : Nat) : M α := fun s =>
  let s := s.setVstart n
  .error ({ s with hart := { s.hart with stopped := true }, pause := none }, .wait)

/-- One element-wise run (R141): `f` computes the element result, `srcs` are the vector sources, `once` is raised with
the first performed element, `wmax` the width that clips the tail. -/
structure Run where
  d : BitVec 6
  tag : Tag
  n : Nat
  wmax : Nat
  mask : Nat
  f : Nat → ElemRes
  srcs : List Src
  once : Raised := {}
  /-- The instruction may stop at a group boundary (R145). -/
  stops : Bool := true

/-- The lowest position at which a source cannot deliver (R192). -/
def lowestFail (xs : List Src) : Option (Nat × Trap) :=
  xs.foldl (fun b x => match b, x.fail with
    | none, f => f
    | some b, none => some b
    | some b, some f => if f.1 < b.1 then some f else some b) none

/-- The elements below `n` that lie in the element groups of a set. -/
def inGroups (g n : Nat) : Nat :=
  (List.range n).foldl (fun m i => if g.testBit (i / 16) then m + 2 ^ i else m) 0

/-- The taint bits of several sources together. -/
def srcTaint (xs : List Src) : Nat := xs.foldl (fun t x => t ||| x.taint) 0

/-- The destination after the elements from VSTART to `stop - 1`, what they raise, and whether any was performed. The tag is
written with the first element that is performed (R122): when the element at VSTART is inactive, R122 names no step for
it, and the model takes the first active element's (a DESIGN CHOICE). -/
def Run.write (r : Run) (s : State) (stop : Nat) : VReg × Raised × Bool :=
  let start := s.hart.vec.vstart
  let v := s.v r.d
  let w := 8 * tagWidth r.tag
  let m := maskFrom r.mask start stop
  let (data, raised) := elems w m r.f (stop - start) start (v.data, {})
  let src := srcTaint r.srcs
  let any := m != 0
  ({ v with data := data, taint := taintAfter v.taint src m r.n, tag := if any then r.tag else v.tag },
   if any then raised.or r.once else raised, any)

/-- Does an element computed from a tainted source raise a sticky bit of VTYPE (R339)? -/
def Run.escapes (r : Run) (s : State) (stop : Nat) : Bool :=
  let start := s.hart.vec.vstart
  let src := srcTaint r.srcs
  src != 0 && (elems 0 (maskFrom r.mask start stop &&& inGroups src r.n) r.f (stop - start) start (0, {})).2 != {}

/-- The element-wise run of R141: to the end, to a stop, or to a trap at the element that a source cannot deliver. -/
def Run.go (r : Run) : M Unit := fun s =>
  let start := s.hart.vec.vstart
  let vl := s.hart.vec.vl
  let pauseAt := if r.stops then s.stopAt start r.n else none
  let failAt := if start < r.n then lowestFail r.srcs else none
  let stop := min (pauseAt.getD r.n) ((failAt.map (·.1)).getD r.n)
  let (v, raised, any) := r.write s stop
  let tainted := srcTaint r.srcs &&& groupsOf (maskFrom r.mask start stop) r.n != 0
  let s := ((s.raise raised).markSeen (any && tainted)).markEscape (r.escapes s stop)
  match failAt with
  | some (f, t) =>
    if f = stop then .error (s.setV r.d v, .trap { t with elem := f })
    else stopInside stop (s.setV r.d v)
  | none =>
    if stop < r.n then stopInside stop (s.setV r.d v)
    else
      let hyper := tagClass r.tag = .hb || tagClass r.tag = .hc
      let v := { v with tag := r.tag
                        data := if s.hart.vec.vtype.tail && !hyper
                          then zeroTail (8 * tagWidth r.tag) v.data vl (s.vlmax r.wmax) else v.data }
      .ok ((), (consumeAll r.srcs (s.setV r.d v)).setVstart 0)

end Sys2Proof.Machine
end

