-- ==== Sys2Proof/Machine/VecArith.lean ====
section
/-!
DEFINITION. Element-wise vector arithmetic, logic, fused forms, unary forms, VIOTA and the compares (R153 to R158).
-/

namespace Sys2Proof.Machine

/-- The second of two sources, read once when both fields name one register (R189). -/
def readSecond (xa : Src) (a b : BitVec 6) (lo n : Nat) : M Src := if a = b then pure xa else readSrc b lo n

/-- The sources of two fields, each register once. -/
def bothSrcs (xa xb : Src) (a b : BitVec 6) : List Src := if a = b then [xa] else [xa, xb]

/-- Checks 1 and 2 of R142 for two sources, and R226. -/
def needPair (ta tb : Tag) (defined : TagClass → Bool) : M Unit := do
  need (ta != .none && tb != .none) (tagTrap ta tb)
  need (ta = tb && defined (tagClass ta)) (tagTrap ta tb)
  needFits ta

/-- Checks 1 and 2 of R142 for one source, and R226. -/
def needOne (ta : Tag) (defined : TagClass → Bool) : M Unit := do
  need (ta != .none) (tagTrap ta .none)
  need (defined (tagClass ta)) (tagTrap ta .none)
  needFits ta

/-- A two-source form (R141, R153). -/
def vecBin (op : VecOp) (d a b : BitVec 6) (g : BitVec 4) : M Unit := do
  let s ← get
  let t := (s.v a).tag
  needPair t (s.v b).tag op.defined
  needUnbound d
  let n := s.range t (tagWidth t)
  let xa ← readSrc a s.hart.vec.vstart n
  let xb ← readSecond xa a b s.hart.vec.vstart n
  let vt := s.hart.vec.vtype
  Run.go { d := d, tag := t, n := n, wmax := tagWidth t, mask := s.p g n, srcs := bothSrcs xa xb a b
           f := fun i => op.elem t vt (xa.elem i) (xb.elem i) }

/-- A form with a scalar operand (R139, R141, R153). -/
def vecBinX (op : VecOp) (d a : BitVec 6) (x : BitVec 5) (g : BitVec 4) : M Unit := do
  let s ← get
  let t := (s.v a).tag
  needOne t op.defined
  needUnbound d
  let n := s.range t (tagWidth t)
  let xa ← readSrc a s.hart.vec.vstart n
  let vt := s.hart.vec.vtype
  let (k, once) := convertScalar t vt (s.x x)
  Run.go { d := d, tag := t, n := n, wmax := tagWidth t, mask := s.p g n, srcs := [xa], once := once
           f := fun i => op.elem t vt (xa.elem i) k }

/-- Checks of a fused form: its sources `ta`, `tb` and the destination `td` have one tag (R138, R155); TVAL reports the
first two. -/
def needFused (ta tb td : Tag) : M Unit := do
  need (ta != .none && tb != .none && td != .none) (tagTrap ta tb)
  need (ta = tb && ta = td && fusedDefined (tagClass ta)) (tagTrap ta tb)

/-- A fused form of three vectors (R155). -/
def vecFused (negP negC : Bool) (d a b : BitVec 6) (g : BitVec 4) : M Unit := do
  let s ← get
  let t := (s.v a).tag
  needFused t (s.v b).tag (s.v d).tag
  needUnbound d
  let n := s.range t (tagWidth t)
  let xa ← readSrc a s.hart.vec.vstart n
  let xb ← readSecond xa a b s.hart.vec.vstart n
  let xd ← readSrc d s.hart.vec.vstart n
  let vt := s.hart.vec.vtype
  Run.go { d := d, tag := t, n := n, wmax := tagWidth t, mask := s.p g n, srcs := bothSrcs xa xb a b ++ [xd]
           f := fun i => fusedElem negP negC t vt (xa.elem i) (xb.elem i) (xd.elem i) }

/-- A fused form with a scalar operand (R155). -/
def vecFusedX (negP negC : Bool) (d a : BitVec 6) (x : BitVec 5) (g : BitVec 4) : M Unit := do
  let s ← get
  let t := (s.v a).tag
  needFused t (s.v d).tag (s.v d).tag
  needUnbound d
  let n := s.range t (tagWidth t)
  let xa ← readSrc a s.hart.vec.vstart n
  let xd ← readSrc d s.hart.vec.vstart n
  let vt := s.hart.vec.vtype
  let (k, once) := convertScalar t vt (s.x x)
  Run.go { d := d, tag := t, n := n, wmax := tagWidth t, mask := s.p g n, srcs := [xa, xd], once := once
           f := fun i => fusedElem negP negC t vt (xa.elem i) k (xd.elem i) }

/-- A unary form (R156). -/
def vecUn (op : UnOp) (d a : BitVec 6) (g : BitVec 4) : M Unit := do
  let s ← get
  let t := (s.v a).tag
  needOne t op.defined
  needUnbound d
  let n := s.range t (tagWidth t)
  let xa ← readSrc a s.hart.vec.vstart n
  let vt := s.hart.vec.vtype
  Run.go { d := d, tag := t, n := n, wmax := tagWidth t, mask := s.p g n, srcs := [xa]
           f := fun i => op.elem t vt (xa.elem i) }

/-- The predicate a compare writes, element by element, with what the elements raise (R158). -/
def cmpElems (mask : Nat) (f : Nat → Bool × Raised) : Nat → Nat → Nat × Raised → Nat × Raised
  | 0, _, acc => acc
  | k + 1, i, (p, r) =>
    cmpElems mask f k (i + 1) (if mask.testBit i then let (b, r') := f i; (setBit p i b, r.or r') else (p, r))

/-- The old bits of a predicate destination (R33): those of p0 are all ones and never change. -/
def State.predData (s : State) (d : BitVec 4) : Nat := s.hart.p[d.toNat]'(by simpa using d.isLt)

/-- One run of a compare (R141, R158): to the end, to a stop, or to a trap at an element a source cannot deliver. -/
def cmpRun (d : BitVec 4) (t : Tag) (n mask : Nat) (f : Nat → Bool × Raised) (srcs : List Src) (once : Raised) : M Unit :=
  fun s =>
    let start := s.hart.vec.vstart
    let pauseAt := s.stopAt start n
    let failAt := if start < n then lowestFail srcs else none
    let stop := min (pauseAt.getD n) ((failAt.map (·.1)).getD n)
    let m := maskFrom mask start stop
    let (p, raised) := cmpElems m f (stop - start) start (s.predData d, {})
    let raised := if m != 0 then raised.or once else raised
    let tainted := srcTaint srcs &&& groupsOf m n != 0
    let s := (s.raise raised).markEscape tainted
    match failAt with
    | some (e, tr) =>
      if e = stop then .error (s.setP d p, .trap { tr with elem := e }) else stopInside stop (s.setP d p)
    | none =>
      if stop < n then stopInside stop (s.setP d p)
      else
        let hyper := tagClass t = .hb || tagClass t = .hc
        let p := if s.hart.vec.vtype.tail && !hyper then p % 2 ^ s.hart.vec.vl else p
        .ok ((), (consumeAll srcs (s.setP d p)).setVstart 0)

/-- A compare of two vectors (R158). -/
def vecCmp (r : Rel) (d : BitVec 4) (a b : BitVec 6) (g : BitVec 4) : M Unit := do
  let s ← get
  let t := (s.v a).tag
  needPair t (s.v b).tag (relDefined r)
  let n := s.range t (tagWidth t)
  let xa ← readSrc a s.hart.vec.vstart n
  let xb ← readSecond xa a b s.hart.vec.vstart n
  let vt := s.hart.vec.vtype
  cmpRun d t n (s.p g n) (fun i => relElem r t vt (xa.elem i) (xb.elem i)) (bothSrcs xa xb a b) {}

/-- A compare with a scalar operand (R158). -/
def vecCmpX (r : Rel) (d : BitVec 4) (a : BitVec 6) (x : BitVec 5) (g : BitVec 4) : M Unit := do
  let s ← get
  let t := (s.v a).tag
  needOne t (relDefined r)
  let n := s.range t (tagWidth t)
  let xa ← readSrc a s.hart.vec.vstart n
  let vt := s.hart.vec.vtype
  let (k, once) := convertScalar t vt (s.x x)
  cmpRun d t n (s.p g n) (fun i => relElem r t vt (xa.elem i) k) [xa] once

/-- VADD_V (R153). -/
def execVaddV (d : BitVec 6) (a : BitVec 6) (b : BitVec 6) (g : BitVec 4) (s : State) : Res := complete4 (vecBin .add d a b g) s

/-- VADD_W (R153). -/
def execVaddW (d : BitVec 6) (a : BitVec 6) (x : BitVec 5) (g : BitVec 4) (s : State) : Res := complete4 (vecBinX .add d a x g) s

/-- VSUB_V (R153). -/
def execVsubV (d : BitVec 6) (a : BitVec 6) (b : BitVec 6) (g : BitVec 4) (s : State) : Res := complete4 (vecBin .sub d a b g) s

/-- VSUB_W (R153). -/
def execVsubW (d : BitVec 6) (a : BitVec 6) (x : BitVec 5) (g : BitVec 4) (s : State) : Res := complete4 (vecBinX .sub d a x g) s

/-- VMUL_V (R153). -/
def execVmulV (d : BitVec 6) (a : BitVec 6) (b : BitVec 6) (g : BitVec 4) (s : State) : Res := complete4 (vecBin .mul d a b g) s

/-- VMUL_W (R153). -/
def execVmulW (d : BitVec 6) (a : BitVec 6) (x : BitVec 5) (g : BitVec 4) (s : State) : Res := complete4 (vecBinX .mul d a x g) s

/-- VMULH_V (R153). -/
def execVmulhV (d : BitVec 6) (a : BitVec 6) (b : BitVec 6) (g : BitVec 4) (s : State) : Res := complete4 (vecBin .mulh d a b g) s

/-- VMULH_W (R153). -/
def execVmulhW (d : BitVec 6) (a : BitVec 6) (x : BitVec 5) (g : BitVec 4) (s : State) : Res := complete4 (vecBinX .mulh d a x g) s

/-- VMIN_V (R153). -/
def execVminV (d : BitVec 6) (a : BitVec 6) (b : BitVec 6) (g : BitVec 4) (s : State) : Res := complete4 (vecBin .min d a b g) s

/-- VMIN_W (R153). -/
def execVminW (d : BitVec 6) (a : BitVec 6) (x : BitVec 5) (g : BitVec 4) (s : State) : Res := complete4 (vecBinX .min d a x g) s

/-- VMAX_V (R153). -/
def execVmaxV (d : BitVec 6) (a : BitVec 6) (b : BitVec 6) (g : BitVec 4) (s : State) : Res := complete4 (vecBin .max d a b g) s

/-- VMAX_W (R153). -/
def execVmaxW (d : BitVec 6) (a : BitVec 6) (x : BitVec 5) (g : BitVec 4) (s : State) : Res := complete4 (vecBinX .max d a x g) s

/-- VDIV_V (R153). -/
def execVdivV (d : BitVec 6) (a : BitVec 6) (b : BitVec 6) (g : BitVec 4) (s : State) : Res := complete4 (vecBin .div d a b g) s

/-- VDIV_W (R153). -/
def execVdivW (d : BitVec 6) (a : BitVec 6) (x : BitVec 5) (g : BitVec 4) (s : State) : Res := complete4 (vecBinX .div d a x g) s

/-- VREM_V (R153). -/
def execVremV (d : BitVec 6) (a : BitVec 6) (b : BitVec 6) (g : BitVec 4) (s : State) : Res := complete4 (vecBin .rem d a b g) s

/-- VREM_W (R153). -/
def execVremW (d : BitVec 6) (a : BitVec 6) (x : BitVec 5) (g : BitVec 4) (s : State) : Res := complete4 (vecBinX .rem d a x g) s

/-- VAND_V (R153). -/
def execVandV (d : BitVec 6) (a : BitVec 6) (b : BitVec 6) (g : BitVec 4) (s : State) : Res := complete4 (vecBin .and d a b g) s

/-- VAND_W (R153). -/
def execVandW (d : BitVec 6) (a : BitVec 6) (x : BitVec 5) (g : BitVec 4) (s : State) : Res := complete4 (vecBinX .and d a x g) s

/-- VOR_V (R153). -/
def execVorV (d : BitVec 6) (a : BitVec 6) (b : BitVec 6) (g : BitVec 4) (s : State) : Res := complete4 (vecBin .or d a b g) s

/-- VOR_W (R153). -/
def execVorW (d : BitVec 6) (a : BitVec 6) (x : BitVec 5) (g : BitVec 4) (s : State) : Res := complete4 (vecBinX .or d a x g) s

/-- VXOR_V (R153). -/
def execVxorV (d : BitVec 6) (a : BitVec 6) (b : BitVec 6) (g : BitVec 4) (s : State) : Res := complete4 (vecBin .xor d a b g) s

/-- VXOR_W (R153). -/
def execVxorW (d : BitVec 6) (a : BitVec 6) (x : BitVec 5) (g : BitVec 4) (s : State) : Res := complete4 (vecBinX .xor d a x g) s

/-- VANDN_V (R153). -/
def execVandnV (d : BitVec 6) (a : BitVec 6) (b : BitVec 6) (g : BitVec 4) (s : State) : Res := complete4 (vecBin .andn d a b g) s

/-- VANDN_W (R153). -/
def execVandnW (d : BitVec 6) (a : BitVec 6) (x : BitVec 5) (g : BitVec 4) (s : State) : Res := complete4 (vecBinX .andn d a x g) s

/-- VSLL_V (R153). -/
def execVsllV (d : BitVec 6) (a : BitVec 6) (b : BitVec 6) (g : BitVec 4) (s : State) : Res := complete4 (vecBin .sll d a b g) s

/-- VSLL_W (R153). -/
def execVsllW (d : BitVec 6) (a : BitVec 6) (x : BitVec 5) (g : BitVec 4) (s : State) : Res := complete4 (vecBinX .sll d a x g) s

/-- VSRL_V (R153). -/
def execVsrlV (d : BitVec 6) (a : BitVec 6) (b : BitVec 6) (g : BitVec 4) (s : State) : Res := complete4 (vecBin .srl d a b g) s

/-- VSRL_W (R153). -/
def execVsrlW (d : BitVec 6) (a : BitVec 6) (x : BitVec 5) (g : BitVec 4) (s : State) : Res := complete4 (vecBinX .srl d a x g) s

/-- VSRA_V (R153). -/
def execVsraV (d : BitVec 6) (a : BitVec 6) (b : BitVec 6) (g : BitVec 4) (s : State) : Res := complete4 (vecBin .sra d a b g) s

/-- VSRA_W (R153). -/
def execVsraW (d : BitVec 6) (a : BitVec 6) (x : BitVec 5) (g : BitVec 4) (s : State) : Res := complete4 (vecBinX .sra d a x g) s

/-- VMULHU_V (R153). -/
def execVmulhuV (d : BitVec 6) (a : BitVec 6) (b : BitVec 6) (g : BitVec 4) (s : State) : Res := complete4 (vecBin .mulhu d a b g) s

/-- VMULHU_W (R153). -/
def execVmulhuW (d : BitVec 6) (a : BitVec 6) (x : BitVec 5) (g : BitVec 4) (s : State) : Res := complete4 (vecBinX .mulhu d a x g) s

/-- VFMA_V (R155). -/
def execVfmaV (d : BitVec 6) (a : BitVec 6) (b : BitVec 6) (g : BitVec 4) (s : State) : Res := complete4 (vecFused false false d a b g) s

/-- VFMA_W (R155). -/
def execVfmaW (d : BitVec 6) (a : BitVec 6) (x : BitVec 5) (g : BitVec 4) (s : State) : Res := complete4 (vecFusedX false false d a x g) s

/-- VFMS_V (R155). -/
def execVfmsV (d : BitVec 6) (a : BitVec 6) (b : BitVec 6) (g : BitVec 4) (s : State) : Res := complete4 (vecFused false true d a b g) s

/-- VFMS_W (R155). -/
def execVfmsW (d : BitVec 6) (a : BitVec 6) (x : BitVec 5) (g : BitVec 4) (s : State) : Res := complete4 (vecFusedX false true d a x g) s

/-- VFNMA_V (R155). -/
def execVfnmaV (d : BitVec 6) (a : BitVec 6) (b : BitVec 6) (g : BitVec 4) (s : State) : Res := complete4 (vecFused true true d a b g) s

/-- VFNMA_W (R155). -/
def execVfnmaW (d : BitVec 6) (a : BitVec 6) (x : BitVec 5) (g : BitVec 4) (s : State) : Res := complete4 (vecFusedX true true d a x g) s

/-- VFNMS_V (R155). -/
def execVfnmsV (d : BitVec 6) (a : BitVec 6) (b : BitVec 6) (g : BitVec 4) (s : State) : Res := complete4 (vecFused true false d a b g) s

/-- VFNMS_W (R155). -/
def execVfnmsW (d : BitVec 6) (a : BitVec 6) (x : BitVec 5) (g : BitVec 4) (s : State) : Res := complete4 (vecFusedX true false d a x g) s

/-- VNEG (R156). -/
def execVneg (d : BitVec 6) (a : BitVec 6) (g : BitVec 4) (s : State) : Res := complete4 (vecUn .neg d a g) s

/-- VABS (R156). -/
def execVabs (d : BitVec 6) (a : BitVec 6) (g : BitVec 4) (s : State) : Res := complete4 (vecUn .abs d a g) s

/-- VSQRT (R156). -/
def execVsqrt (d : BitVec 6) (a : BitVec 6) (g : BitVec 4) (s : State) : Res := complete4 (vecUn .sqrt d a g) s

/-- VEXP2 (R156). -/
def execVexp2 (d : BitVec 6) (a : BitVec 6) (g : BitVec 4) (s : State) : Res := complete4 (vecUn .exp2 d a g) s

/-- VLOG2 (R156). -/
def execVlog2 (d : BitVec 6) (a : BitVec 6) (g : BitVec 4) (s : State) : Res := complete4 (vecUn .log2 d a g) s

/-- VRCP (R156). -/
def execVrcp (d : BitVec 6) (a : BitVec 6) (g : BitVec 4) (s : State) : Res := complete4 (vecUn .rcp d a g) s

/-- VNOT (R156). -/
def execVnot (d : BitVec 6) (a : BitVec 6) (g : BitVec 4) (s : State) : Res := complete4 (vecUn .not d a g) s

/-- VCMPEQ_V (R158). -/
def execVcmpeqV (d : BitVec 4) (a : BitVec 6) (b : BitVec 6) (g : BitVec 4) (s : State) : Res := complete4 (vecCmp .eq d a b g) s

/-- VCMPEQ_W (R158). -/
def execVcmpeqW (d : BitVec 4) (a : BitVec 6) (x : BitVec 5) (g : BitVec 4) (s : State) : Res := complete4 (vecCmpX .eq d a x g) s

/-- VCMPNE_V (R158). -/
def execVcmpneV (d : BitVec 4) (a : BitVec 6) (b : BitVec 6) (g : BitVec 4) (s : State) : Res := complete4 (vecCmp .ne d a b g) s

/-- VCMPNE_W (R158). -/
def execVcmpneW (d : BitVec 4) (a : BitVec 6) (x : BitVec 5) (g : BitVec 4) (s : State) : Res := complete4 (vecCmpX .ne d a x g) s

/-- VCMPLT_V (R158). -/
def execVcmpltV (d : BitVec 4) (a : BitVec 6) (b : BitVec 6) (g : BitVec 4) (s : State) : Res := complete4 (vecCmp .lt d a b g) s

/-- VCMPLT_W (R158). -/
def execVcmpltW (d : BitVec 4) (a : BitVec 6) (x : BitVec 5) (g : BitVec 4) (s : State) : Res := complete4 (vecCmpX .lt d a x g) s

/-- VCMPLE_V (R158). -/
def execVcmpleV (d : BitVec 4) (a : BitVec 6) (b : BitVec 6) (g : BitVec 4) (s : State) : Res := complete4 (vecCmp .le d a b g) s

/-- VCMPLE_W (R158). -/
def execVcmpleW (d : BitVec 4) (a : BitVec 6) (x : BitVec 5) (g : BitVec 4) (s : State) : Res := complete4 (vecCmpX .le d a x g) s

/-- VCMPGT_V (R158). -/
def execVcmpgtV (d : BitVec 4) (a : BitVec 6) (b : BitVec 6) (g : BitVec 4) (s : State) : Res := complete4 (vecCmp .gt d a b g) s

/-- VCMPGT_W (R158). -/
def execVcmpgtW (d : BitVec 4) (a : BitVec 6) (x : BitVec 5) (g : BitVec 4) (s : State) : Res := complete4 (vecCmpX .gt d a x g) s

/-- VCMPGE_V (R158). -/
def execVcmpgeV (d : BitVec 4) (a : BitVec 6) (b : BitVec 6) (g : BitVec 4) (s : State) : Res := complete4 (vecCmp .ge d a b g) s

/-- VCMPGE_W (R158). -/
def execVcmpgeW (d : BitVec 4) (a : BitVec 6) (x : BitVec 5) (g : BitVec 4) (s : State) : Res := complete4 (vecCmpX .ge d a x g) s

/-- VCMPUN_V (R158). -/
def execVcmpunV (d : BitVec 4) (a : BitVec 6) (b : BitVec 6) (g : BitVec 4) (s : State) : Res := complete4 (vecCmp .un d a b g) s

/-- VCMPUN_W (R158). -/
def execVcmpunW (d : BitVec 4) (a : BitVec 6) (x : BitVec 5) (g : BitVec 4) (s : State) : Res := complete4 (vecCmpX .un d a x g) s

/-- VIOTA (R157): the number of set bits of pa below each element; a lane barrier, never stopped inside. -/
def execViota (d : BitVec 6) (a : BitVec 4) (g : BitVec 4) (s : State) : Res :=
  complete4 (do
    let s ← get
    let t := s.hart.vec.vtype.etag
    need (t != .none) (tagTrap .none .none)
    need (tagClass t = .i || tagClass t = .w) (tagTrap t .none)
    needUnbound d
    let n := s.range t (tagWidth t)
    let vt := s.hart.vec.vtype
    let p := s.p a n
    Run.go { d := d, tag := t, n := n, wmax := tagWidth t, mask := s.p g n, srcs := [], stops := false
             f := fun i => intResult t vt.sat (popCount i p) }) s

end Sys2Proof.Machine
end

