-- ==== Sys2Proof/Machine/VecMove.lean ====
section
/-!
DEFINITION. Vector configuration, moves and conversion (R147 to R152, R159, R204, R205).
-/

namespace Sys2Proof.Machine

/-- A slack lowered by one, stopping at zero, for each of the hart's pending copies (R199). A copy that waits behind the SETVL in the
VIQ keeps its slack, which R199 leaves open (a DESIGN CHOICE). -/
def State.lowerSlack (s : State) : State :=
  { s with core := { s.core with copies := s.core.copies.map fun c =>
      if c.owner = s.hart.ident.uid then { c with slack := c.slack - 1 } else c } }

/-- SETVL (R149). -/
def execSetvl (d b : BitVec 5) (s : State) : Res :=
  let n := min (s.x b).toNat (s.vlmax (tagWidth s.hart.vec.vtype.etag))
  .next ((((s.setVec { s.hart.vec with vl := n, vstart := 0 }).lowerSlack).setX d (word n)).advance 4)

/-- VCFG (R150): the fields of VTYPE but the sticky ones; VSTART stays. -/
def execVcfg (e : BitVec 5) (sc : BitVec 1) (r : BitVec 3) (f : BitVec 2) (t : BitVec 1) (s : State) : Res :=
  let vt := s.hart.vec.vtype
  .next ((s.setVType { vt with
    etag := tagField e, sat := sc = 1, rm := (rmOfCode r.toNat).getD .rne, fz := (fzOfCode f.toNat).getD .keep
    tail := t = 1 }).advance 4)

/-- VTAG (R150). -/
def execVtag (e : BitVec 5) (s : State) : Res :=
  .next ((s.setVType { s.hart.vec.vtype with etag := tagField e }).advance 4)

/-- VRETAG (R151): every group of vd is to be present; one taint bit makes all of them. -/
def execVretag (d : BitVec 6) (t : BitVec 5) (s : State) : Res :=
  complete4 (do
    needUnbound d
    let v := s.v d
    if v.absent ≠ 0 then waitHere
    else modify fun s => (s.setV d { v with
      tag := tagField t, taint := if v.taint = 0 then 0 else ones (s.rb / 16 + 1) }).setVstart 0) s

/-- MMODE (R204). -/
def execMmode (d b : BitVec 5) (s : State) : Res :=
  complete4 (do
    let on := (s.x b).getLsbD 0
    need (!on || s.hart.mat.granted) { cause := .matrix }
    modify fun s =>
      let s := s.setMvl (if on then mvlFor s.hart.pavilions s.hart.mat.lpart else 0)
      (s.setX d (word s.hart.mat.mvl)).setVstart 0) s

/-- SETTILE (R205). -/
def execSettile (d b : BitVec 5) (s : State) : Res :=
  complete4 (do
    need (s.hart.mat.mvl != 0) { cause := .matrix }
    modify fun s =>
      let q := (s.x b).toNat
      let m := { s.hart.mat with
        m := min (bits 0 16 q) (2 * s.hart.mat.mvl), n := min (bits 16 16 q) (2 * s.hart.mat.mvl)
        k := min (bits 32 32 q) 65535 }
      ((s.setMat m).setX d (word m.shape)).setVstart 0) s

/-- VMV (R159): every tag but NONE. -/
def execVmv (d a : BitVec 6) (g : BitVec 4) (s : State) : Res :=
  complete4 (do
    let t := (s.v a).tag
    needOne t fun _ => true
    needUnbound d
    let n := s.range t (tagWidth t)
    let xa ← readSrc a s.hart.vec.vstart n
    Run.go { d := d, tag := t, n := n, wmax := tagWidth t, mask := s.p g n, srcs := [xa]
             f := fun i => canonElem t (xa.elem i) }) s

/-- The checks of an instruction that takes its tag from ETAG (R121, R226). -/
def needEtag : M Tag := do
  let t := (← get).hart.vec.vtype.etag
  need (t != .none) (tagTrap .none .none)
  needFits t
  pure t

/-- VSPLAT (R159). -/
def execVsplat (d : BitVec 6) (x : BitVec 5) (g : BitVec 4) (s : State) : Res :=
  complete4 (do
    let t ← needEtag
    needUnbound d
    let n := s.range t (tagWidth t)
    let (k, once) := convertScalar t s.hart.vec.vtype (s.x x)
    Run.go { d := d, tag := t, n := n, wmax := tagWidth t, mask := s.p g n, srcs := [], once := once
             f := fun _ => (k, {}) }) s

/-- VSEL (R159): every element in range is written, and only the element it takes is read (a DESIGN CHOICE: R159 does not say
whether the other one's RNINV or taint counts; the model takes RNINV from the element taken and taint from both). -/
def execVsel (d a b : BitVec 6) (g : BitVec 4) (s : State) : Res :=
  complete4 (do
    let t := (s.v a).tag
    needPair t (s.v b).tag fun _ => true
    needUnbound d
    let n := s.range t (tagWidth t)
    let xa ← readSrc a s.hart.vec.vstart n
    let xb ← readSecond xa a b s.hart.vec.vstart n
    let sel := s.p g n
    Run.go { d := d, tag := t, n := n, wmax := tagWidth t, mask := ones n, srcs := bothSrcs xa xb a b
             f := fun i => canonElem t (if sel.testBit i then xa.elem i else xb.elem i) }) s

/-- A source that cannot deliver its strip, for an instruction that is not element-wise: it traps at VSTART. -/
def needStrip (xs : List Src) : M Unit := fun s =>
  match lowestFail xs with
  | some (_, t) => trapNow { t with elem := s.hart.vec.vstart } s
  | none => .ok ((), s)

/-- VMVX (R159): one element to X[D], whatever VL, VSTART and the predicate are; a bound source consumes a strip of
min(VL, VLMAX_w) elements, whatever class its tag is of. HDIM is not checked against RB: R226 leaves open whether it is for an
instruction whose range HDIM does not fix (a DESIGN CHOICE). -/
def execVmvx (d : BitVec 5) (a : BitVec 6) (x : BitVec 5) (s : State) : Res :=
  complete4 (do
    let v := s.v a
    need (v.tag != .none) (tagTrap .none .none)
    let w := s.vlmax (tagWidth v.tag)
    let lim := if v.bound.isSome then min s.hart.vec.vl w else w
    let i := (s.x x).toNat
    let xa ← if v.bound.isSome then readSrcOf (some lim) a 0 lim
      else if i < lim then readSrc a i (i + 1) else pure { reg := a, data := 0, tag := v.tag, taint := 0 }
    needStrip [xa]
    modify fun s =>
      let (k, r) := if i < lim then canonElem v.tag (xa.elem i) else (0, {})
      let s := ((consume xa s).raise r).setVstart 0
      let s := s.markEscape (i < lim && xa.taint.testBit (i / 16))
      s.setX d (extendElem v.tag k)) s

/-- VINS (R159): one element of vd, whatever VL is; HDIM is not checked, as for VMVX (a DESIGN CHOICE). -/
def execVins (d : BitVec 6) (a x : BitVec 5) (s : State) : Res :=
  complete4 (do
    let v := s.v d
    need (v.tag != .none) (tagTrap .none .none)
    needUnbound d
    let i := (s.x a).toNat
    modify fun s =>
      let (k, once) := convertScalar v.tag s.hart.vec.vtype (s.x x)
      let s := if i < s.vlmax (tagWidth v.tag) then
          (s.raise once).setV d { v with data := setItem (8 * tagWidth v.tag) v.data i k }
        else s
      s.setVstart 0) s

/-- VCVT (R137, R159): the range uses the wider of the two widths. Its one source tagged NONE reports a second tag of 0 in
TVAL (R121 and R387 name two tags; a DESIGN CHOICE). -/
def execVcvt (d a : BitVec 6) (t : BitVec 5) (g : BitVec 4) (s : State) : Res :=
  complete4 (do
    let ta := (s.v a).tag
    let tb := tagField t
    need (ta != .none) (tagTrap .none .none)
    need (convertible ta tb) (tagTrap ta tb)
    needUnbound d
    let w := max (tagWidth ta) (tagWidth tb)
    let n := s.range ta w
    let xa ← readSrc a s.hart.vec.vstart n
    let vt := s.hart.vec.vtype
    Run.go { d := d, tag := tb, n := n, wmax := w, mask := s.p g n, srcs := [xa]
             f := fun i => convert ta tb vt (xa.elem i) }) s

end Sys2Proof.Machine
end

