-- ==== Sys2Proof/Machine/VecPred.lean ====
section
/-!
DEFINITION. The predicate instructions (R160).
-/

namespace Sys2Proof.Machine

/-- The elements that are active under pg (R5): from VSTART to VL − 1. -/
def State.active (s : State) (g : BitVec 4) : Nat :=
  maskFrom (s.p g s.hart.vec.vl) s.hart.vec.vstart s.hart.vec.vl

/-- A predicate destination (R160): active bits from `r`, inactive bits kept, the tail cleared under TAIL. -/
def predWrite (d : BitVec 4) (act r : Nat) (s : State) : State :=
  let old := s.predData d
  let new := (old ^^^ (old &&& act)) ||| (r &&& act)
  (s.setP d (if s.hart.vec.vtype.tail then new % 2 ^ s.hart.vec.vl else new)).setVstart 0

/-- A form that writes a predicate from the bits of its sources below VL, element-wise (R284): it may stop at a group
boundary (R145), where the bits below are written. -/
def predOp (f : Nat → Nat → Nat → Nat) (d a b g : BitVec 4) (s : State) : Res :=
  let n := s.hart.vec.vl
  let r := f (ones n) (s.p a n) (s.p b n)
  complete4 (match s.stopAt s.hart.vec.vstart n with
    | some q => do
      modify fun s =>
        let act := s.active g % 2 ^ q
        s.setP d ((s.predData d ^^^ (s.predData d &&& act)) ||| (r &&& act))
      stopInside q
    | none => modify (predWrite d (s.active g) r)) s

/-- PAND (R160). -/
def execPand (d a b g : BitVec 4) (s : State) : Res := predOp (fun _ x y => x &&& y) d a b g s

/-- POR (R160). -/
def execPor (d a b g : BitVec 4) (s : State) : Res := predOp (fun _ x y => x ||| y) d a b g s

/-- PXOR (R160). -/
def execPxor (d a b g : BitVec 4) (s : State) : Res := predOp (fun _ x y => x ^^^ y) d a b g s

/-- PANDN (R160): and not. -/
def execPandn (d a b g : BitVec 4) (s : State) : Res := predOp (fun o x y => x &&& (y ^^^ o)) d a b g s

/-- PNOT (R160). -/
def execPnot (d a g : BitVec 4) (s : State) : Res := predOp (fun o x _ => x ^^^ o) d a a g s

/-- The lowest set bit's position below `n`, or none. -/
def lowestBit (k n : Nat) : Option Nat := (List.range n).find? fun i => k.testBit i

/-- PFIRST (R160). -/
def execPfirst (d a g : BitVec 4) (s : State) : Res :=
  let n := s.hart.vec.vl
  let act := s.active g
  let r := match lowestBit (s.p a n &&& act) n with
    | some i => 2 ^ i
    | none => 0
  .next ((predWrite d act r s).advance 4)

/-- PCNT (R160). -/
def execPcnt (d : BitVec 5) (a g : BitVec 4) (s : State) : Res :=
  let n := s.hart.vec.vl
  .next (((s.setX d (word (popCount n (s.p a n &&& s.active g)))).setVstart 0).advance 4)

/-- PSETVL (R160): VL falls to the lowest active element whose bit is 0. -/
def execPsetvl (d : BitVec 5) (a g : BitVec 4) (s : State) : Res :=
  let n := s.hart.vec.vl
  let new := (lowestBit ((s.p a n ^^^ ones n) &&& s.active g) n).getD n
  .next (((s.setVec { s.hart.vec with vl := new, vstart := 0 }).setX d (word new)).advance 4)

end Sys2Proof.Machine
end

