-- ==== Sys2Proof/Machine/VecCross.lean ====
section
/-!
DEFINITION. Across lanes: slides, permutes, compress and expand, scans and reductions (R135, R161, R162). Each reads all
of its sources before it writes and is never stopped inside.
-/

namespace Sys2Proof.Machine

/-- The positions of the active elements in ascending order. -/
def activeList (n act : Nat) : List Nat := (List.range n).filter fun i => act.testBit i

/-- A set of element positions as a mask. -/
def positions (js : List Nat) : Nat := js.foldl (fun m j => setBit m j true) 0

/-- Is an element of a source tainted among those of a mask (R144)? -/
def Src.hits (x : Src) (read n : Nat) : Bool := x.taint &&& groupsOf read n != 0

/-- The taint every written element takes when any element read is tainted (R144). -/
def spreadTaint (hit : Bool) (x : Src) : Src := { x with taint := if hit then ones 4096 else 0, fail := none }

/-- A form that moves elements of one source (R161): `f` gives the position element i comes from (some none: zero bits), or
none where it keeps. -/
def crossMove (d a : BitVec 6) (g : BitVec 4) (f : State → Nat → Nat → Nat → Option (Option Nat)) : M Unit := do
  let s ← get
  let t := (s.v a).tag
  needOne t fun _ => true
  needUnbound d
  let n := s.range t (tagWidth t)
  let xa ← readSrc a 0 n
  needStrip [xa]
  let from' := f s n (maskFrom (s.p g n) s.hart.vec.vstart n)
  let w := positions ((List.range n).filter fun i => (from' i).isSome)
  let hit := xa.hits (positions ((List.range n).filterMap fun i => (from' i).join)) n
  Run.go { d := d, tag := t, n := n, wmax := tagWidth t, mask := w, srcs := [spreadTaint hit xa], stops := false
           f := fun i => match (from' i).join with
             | some j => canonElem t (xa.elem j)
             | none => (0, {}) }

/-- VSLIDEUP (R161). -/
def execVslideup (d a : BitVec 6) (x : BitVec 5) (g : BitVec 4) (s : State) : Res :=
  let k := (s.x x).toNat
  complete4 (crossMove d a g fun _ _ act i => if act.testBit i && k ≤ i then some (some (i - k)) else none) s

/-- VSLIDEDN (R161). -/
def execVslidedn (d a : BitVec 6) (x : BitVec 5) (g : BitVec 4) (s : State) : Res :=
  let k := (s.x x).toNat
  complete4 (crossMove d a g fun _ n act i =>
    if act.testBit i then some (if i + k < n then some (i + k) else none) else none) s

/-- VBFLY (R161). -/
def execVbfly (d a : BitVec 6) (k g : BitVec 4) (s : State) : Res :=
  complete4 (crossMove d a g fun _ n act i =>
    let j := i ^^^ 2 ^ k.toNat
    if act.testBit i then some (some (if j < n then j else i)) else none) s

/-- VREV (R161). -/
def execVrev (d a : BitVec 6) (g : BitVec 4) (s : State) : Res :=
  complete4 (crossMove d a g fun _ n act i => if act.testBit i then some (some (n - 1 - i)) else none) s

/-- VCOMPRESS (R161). -/
def execVcompress (d a : BitVec 6) (g : BitVec 4) (s : State) : Res :=
  complete4 (crossMove d a g fun s n act =>
    let js := activeList n act
    fun i => if s.hart.vec.vstart ≤ i then (js[i - s.hart.vec.vstart]?).map some else none) s

/-- VEXPAND (R161). -/
def execVexpand (d a : BitVec 6) (g : BitVec 4) (s : State) : Res :=
  complete4 (crossMove d a g fun s _ act i =>
    if act.testBit i then some (some (s.hart.vec.vstart + popCount i act)) else none) s

/-- VPERM (R161): the index register's tag is of class I or W, its elements unsigned. Of HB or HC data the range is HDIM's, and an
index that lies beyond the index register reads as 0, which R161 leaves open (a DESIGN CHOICE). -/
def execVperm (d a vi : BitVec 6) (g : BitVec 4) (s : State) : Res :=
  complete4 (do
    let t := (s.v a).tag
    let ti := (s.v vi).tag
    need (t != .none) (tagTrap t .none)
    need (tagClass ti = .i || tagClass ti = .w) (tagTrap ti .none)
    needFits t
    needUnbound d
    let w := max (tagWidth t) (tagWidth ti)
    let n := s.range t w
    let xa ← readSrc a 0 n
    let xi ← readSecond xa a vi 0 n
    needStrip (bothSrcs xa xi a vi)
    let act := activeList n (maskFrom (s.p g n) s.hart.vec.vstart n)
    let hit := xi.hits (positions act) n || xa.hits (positions ((act.map xi.elem).filter fun j => j < n)) n
    Run.go { d := d, tag := t, n := n, wmax := w, mask := s.p g n, stops := false
             srcs := (bothSrcs xa xi a vi).map (spreadTaint hit)
             f := fun i => if xi.elem i < n then canonElem t (xa.elem (xi.elem i)) else (0, {}) }) s

/-- A single element as a result (R125, R128, R131): a NaN canonical, a residue canonical, FZ applied. -/
def soleElem (t : Tag) (vt : VType) (k : Nat) : ElemRes :=
  match tagClass t with
  | .f => ofFp ((fmtOf t).roundFv vt.rm vt.flush ((fmtOf t).source vt.fz k))
  | _ => canonElem t k

/-- The running sums of a list of elements (R135): each step rounded, clamped or reduced once. -/
def scanSums (t : Tag) (vt : VType) : Option Nat → List Nat → List ElemRes
  | _, [] => []
  | none, k :: ks => let r := soleElem t vt k; r :: scanSums t vt (some r.1) ks
  | some a, k :: ks => let r := VecOp.add.elem t vt a k; r :: scanSums t vt (some r.1) ks

/-- VSCAN (R161, R135). -/
def execVscan (d a : BitVec 6) (g : BitVec 4) (s : State) : Res :=
  complete4 (do
    let t := (s.v a).tag
    needOne t fun c => c = .i || c = .w || c = .f || c = .rn
    needUnbound d
    let n := s.range t (tagWidth t)
    let xa ← readSrc a 0 n
    needStrip [xa]
    let act := maskFrom (s.p g n) s.hart.vec.vstart n
    let sums := scanSums t s.hart.vec.vtype none ((activeList n act).map xa.elem)
    Run.go { d := d, tag := t, n := n, wmax := tagWidth t, mask := act, stops := false
             srcs := [spreadTaint (xa.hits act n) xa]
             f := fun i => sums.getD (popCount i act) (0, {}) }) s

/-- One level of the pairwise tree (R135). -/
def pairUp (op : Nat → Nat → ElemRes) : List Nat → List Nat × Raised
  | x :: y :: t =>
    let (v, r) := op x y
    let (vs, r') := pairUp op t
    (v :: vs, r.or r')
  | l => (l, {})

/-- The pairwise tree of R135 over a list: `fuel` levels at most. -/
def tree (op : Nat → Nat → ElemRes) : Nat → List Nat → Raised → List Nat × Raised
  | 0, l, r => (l, r)
  | fuel + 1, l, r =>
    match l with
    | _ :: _ :: _ => let (l', r') := pairUp op l; tree op fuel l' (r.or r')
    | _ => (l, r)

/-- The pairwise combination of elements (R135); one element alone is itself a result. -/
def reduce (t : Tag) (vt : VType) (op : Nat → Nat → ElemRes) (l : List Nat) : Option ElemRes :=
  match l with
  | [] => none
  | [k] => some (soleElem t vt k)
  | l => let (r, m) := tree op l.length l {}; some (r.headD 0, m)

/-- The reductions of R162 that keep the source tag. -/
inductive RedOp where
  | sum | min | max | and | or | xor
  deriving DecidableEq, Repr

/-- The combination of a reduction. -/
def RedOp.op : RedOp → VecOp
  | .sum => .add | .min => .min | .max => .max | .and => .and | .or => .or | .xor => .xor

/-- Is the reduction defined for the class (R162)? -/
def RedOp.defined (r : RedOp) (c : TagClass) : Bool :=
  match r, c with
  | .sum, .rn => true
  | .sum, .f | .min, .f | .max, .f => true
  | _, .i | _, .w => true
  | _, _ => false

/-- The identity of a reduction (R162). -/
def RedOp.identity (r : RedOp) (t : Tag) : Nat :=
  let n := 8 * tagWidth t
  match r with
  | .sum | .or | .xor => 0
  | .and => ones n
  | .min => if tagClass t = .f then (fmtOf t).nan else wrap n (intRange t).2
  | .max => if tagClass t = .f then (fmtOf t).nan else wrap n (intRange t).1

/-- Element 0 of a destination written and nothing else of it but the tag; nothing but the tag when VL = 0 (R162). `act` are
the elements of the source that are read. -/
def writeFirst (d : BitVec 6) (t : Tag) (r : ElemRes) (x : Src) (n act : Nat) (s : State) : State :=
  let v := s.v d
  let tainted := x.hits act n
  let s' := consume x s
  if s.hart.vec.vl = 0 then (s'.setV d { v with tag := t }).setVstart 0
  else
    ((((s'.raise r.2).markSeen tainted).markEscape (tainted && r.2 != {})).setV d { v with
      tag := t, data := setItem (8 * tagWidth t) v.data 0 r.1
      taint := if tainted then setBit v.taint 0 true else v.taint }).setVstart 0

/-- A reduction that keeps the source tag (R162). -/
def vecRed (r : RedOp) (d a : BitVec 6) (g : BitVec 4) : M Unit := do
  let s ← get
  let t := (s.v a).tag
  needOne t r.defined
  needUnbound d
  let n := s.range t (tagWidth t)
  let xa ← readSrc a 0 n
  needStrip [xa]
  let vt := s.hart.vec.vtype
  let act := maskFrom (s.p g n) s.hart.vec.vstart n
  let res := (reduce t vt (r.op.elem t vt) ((activeList n act).map xa.elem)).getD (r.identity t, {})
  modify (writeFirst d t res xa n act)

/-- Does element `k` come before element `j` as the smallest (or largest) active one (R162)? NaNs are passed over. -/
def better (t : Tag) (vt : VType) (big : Bool) (k j : Nat) : Bool :=
  match tagClass t with
  | .f =>
    let f := fmtOf t
    let x := f.source vt.fz k
    let y := f.source vt.fz j
    if x.isNan then false
    else if y.isNan then true
    else
      let c := x.compare y
      let below := c < 0 || (c = 0 && x.isZero && x.neg && !y.neg)
      let above := 0 < c || (c = 0 && y.isZero && y.neg && !x.neg)
      if big then above else below
  | _ =>
    let x := elemInt t k
    let y := elemInt t j
    if big then decide (y < x) else decide (x < y)

/-- The index of the smallest or largest active element, the lowest of equals, with NV for a signalling NaN (R162). -/
def redIndex (t : Tag) (vt : VType) (big : Bool) (xa : Src) (act : List Nat) : ElemRes :=
  let best := act.foldl (fun b i => match b with
    | none => some i
    | some j => if better t vt big (xa.elem i) (xa.elem j) then some i else some j) none
  let snan := tagClass t = .f && act.any fun i => ((fmtOf t).decode (xa.elem i)).isSnan
  (match best with
   | some i => i
   | none => ones 32, { flags := if snan then flagNV else 0 })

/-- VREDMINI and VREDMAXI (R162): the index as an I32. -/
def vecRedIndex (big : Bool) (d a : BitVec 6) (g : BitVec 4) : M Unit := do
  let s ← get
  let t := (s.v a).tag
  needOne t fun c => c = .i || c = .w || c = .f
  needUnbound d
  let n := s.range t (max 4 (tagWidth t))
  let xa ← readSrc a 0 n
  needStrip [xa]
  let act := maskFrom (s.p g n) s.hart.vec.vstart n
  modify (writeFirst d .i32 (redIndex t s.hart.vec.vtype big xa (activeList n act)) xa n act)

/-- VREDSUM (R162). -/
def execVredsum (d a : BitVec 6) (g : BitVec 4) (s : State) : Res := complete4 (vecRed .sum d a g) s

/-- VREDMIN (R162). -/
def execVredmin (d a : BitVec 6) (g : BitVec 4) (s : State) : Res := complete4 (vecRed .min d a g) s

/-- VREDMAX (R162). -/
def execVredmax (d a : BitVec 6) (g : BitVec 4) (s : State) : Res := complete4 (vecRed .max d a g) s

/-- VREDAND (R162). -/
def execVredand (d a : BitVec 6) (g : BitVec 4) (s : State) : Res := complete4 (vecRed .and d a g) s

/-- VREDOR (R162). -/
def execVredor (d a : BitVec 6) (g : BitVec 4) (s : State) : Res := complete4 (vecRed .or d a g) s

/-- VREDXOR (R162). -/
def execVredxor (d a : BitVec 6) (g : BitVec 4) (s : State) : Res := complete4 (vecRed .xor d a g) s

/-- VREDMINI (R162). -/
def execVredmini (d a : BitVec 6) (g : BitVec 4) (s : State) : Res := complete4 (vecRedIndex false d a g) s

/-- VREDMAXI (R162). -/
def execVredmaxi (d a : BitVec 6) (g : BitVec 4) (s : State) : Res := complete4 (vecRedIndex true d a g) s

end Sys2Proof.Machine
end

