-- ==== Sys2Proof/Machine/VecMem.lean ====
section
/-!
DEFINITION. Vector memory: loads with presence, stores, combining scatters and vector atomics (R163 to R180, R183).
-/

namespace Sys2Proof.Machine

/-- How a form computes its element addresses (R163, R164). -/
inductive AddrForm where
  | unit
  | strided (xs : BitVec 5)
  | indexed (vi : BitVec 6)
  deriving DecidableEq, Repr

/-- Idx of R164: an index element, sign-extended for class I, zero-extended for class W. -/
def indexValue (t : Tag) (k : Nat) : Int := if tagClass t = .i then signed (8 * tagWidth t) k else k

/-- The operands of one vector memory instruction, as it reads them before any element (R164). -/
structure VMem where
  base : Word
  form : AddrForm
  w : Nat
  n : Nat
  act : Nat
  stride : Word
  index : Nat → Int
  indexBits : Nat := 0
  /-- The index register's tainted groups. -/
  indexTaint : Nat := 0

/-- The address of element i (R164). -/
def VMem.addr (m : VMem) (i : Nat) : Word :=
  match m.form with
  | .unit => m.base + word (m.w * i)
  | .strided _ => m.base + m.stride * word i
  | .indexed _ => m.base + wordI (m.w * m.index i)

/-- What TINFO3 holds of element f's index (R87). -/
def VMem.info3 (m : VMem) (f : Nat) : Word :=
  match m.form with
  | .indexed _ => (BitVec.ofInt m.indexBits (m.index f)).signExtend 64
  | _ => 0

/-- The fault frame from element f on (R87, R169). -/
def VMem.frame (m : VMem) (acc : Acc) (f : Nat) : Frame :=
  { kind := match m.form with | .unit => 1 | .strided _ => 2 | .indexed _ => 3
    acc := acc.code, size := m.w, base := m.base
    stride := match m.form with | .unit => word m.w | .strided _ => m.stride | .indexed _ => 0
    remain := m.n - f
    ixreg := match m.form with | .indexed vi => vi.toNat | _ => 0
    info3 := m.info3 f }

/-- The trap of element f (R169). -/
def VMem.trap (m : VMem) (acc : Acc) (f : Nat) (e : Failure) : Trap :=
  accessTrap e (m.addr f) f acc (m.addr f) (m.frame acc f)

/-- Check 2 of R167 for the index register. -/
def needIndex (form : AddrForm) : M Unit := fun s =>
  match form with
  | .indexed vi =>
    let t := (s.v vi).tag
    need (tagClass t = .i || tagClass t = .w) (tagTrap t .none) s
  | _ => .ok ((), s)

/-- The width of an index register's elements. -/
def State.indexWidth (s : State) : AddrForm → Nat
  | .indexed vi => tagWidth (s.v vi).tag
  | _ => 1

/-- Does the class refuse the form (R178)? Combines and atomics may not reach host memory. -/
def formAllowed (rmw : Bool) : Class → Bool
  | .host => !rmw
  | _ => true

/-- Steps 1 to 4 of R168 for element i, and the wait of R179 on its page. -/
def VMem.pin (m : VMem) (acc : Acc) (rmw : Bool) (i : Nat) (s : State) : Except (Failure × State) (Place × State) :=
  let va := (m.addr i).toNat
  if va % m.w ≠ 0 then .error ({ cause := .misaligned }, s)
  else
    match s.locate va m.w acc with
    | .error e => .error e
    | .ok (pl, s) =>
      if !formAllowed rmw pl.cls then .error ({ cause := .access }, s)
      else match s.watchHit va m.w acc with
        | none => .ok (pl, s)
        | some a =>
          -- a fault of the same element is taken (R346): step 5 of R168
          match (if acc = .store then none else s.viewPoison s.hart.ident.uid .vector pl.key m.w) with
          | some _ => .error ({ cause := .poison, info3 := word (physOf pl.key) }, s)
          | none => .error ({ cause := .watch, info3 := word a }, s)

/-- The pages of the active elements pinned from element i on, up to the first failure (R168, R169). -/
def VMem.pinAll (m : VMem) (acc : Acc) (rmw : Bool) (mask : Nat) :
    Nat → Nat → State → List (Nat × Place) × Option (Nat × Failure) × State
  | 0, _, s => ([], none, s)
  | k + 1, i, s =>
    if mask.testBit i then
      match m.pin acc rmw i s with
      | .error (e, s) => ([], some (i, e), s)
      | .ok (pl, s) => let (l, f, s) := m.pinAll acc rmw mask k (i + 1) s; ((i, pl) :: l, f, s)
    else m.pinAll acc rmw mask k (i + 1) s

/-- The place of an element of a load, or of an instruction that keeps its pins. -/
def LoadItem.place (x : LoadItem) : Place :=
  { key := x.key, win := x.window.getD 0
    cls := if x.window.isSome then .remote else if isHostKey x.key then .host else if isScratchKey x.key then .scratch
      else .device }

/-- An element as an instruction that has pinned its page keeps it. -/
def VMem.item (m : VMem) (ip : Nat × Place) : LoadItem :=
  { i := ip.1, va := m.addr ip.1, key := ip.2.key, window := if ip.2.cls = .remote then some ip.2.win else none
    index := m.info3 ip.1 }

/-- The pages of the elements that the mask selects from VSTART on (R92): as the instruction has pinned them before it stopped
inside, or pinned now. -/
def VMem.pins (m : VMem) (acc : Acc) (rmw : Bool) (mask : Nat) : M (List (Nat × Place) × Option (Nat × Failure)) := fun s =>
  let start := s.hart.vec.vstart
  match s.hart.pinned with
  | some p =>
    .ok (((p.items.filter fun x => start ≤ x.i && mask.testBit x.i).map fun x => (x.i, x.place), p.fail), s)
  | none =>
    let (l, f, s) := m.pinAll acc rmw mask (m.n - start) start s
    .ok ((l, f), s)

/-- The instruction stops inside and keeps its pins (R92). -/
def VMem.keepPins (m : VMem) (l : List (Nat × Place)) (pf : Option (Nat × Failure)) (s : State) : State :=
  let stale := s.hart.pinned.any Pinned.stale
  { s with hart := { s.hart with pinned := some { items := l.map m.item, fail := pf, stale := stale } } }

/-- The bytes of the page that maps an address for the hart: the first, and how many (R88, R90). -/
def State.pageBytes (s : State) (va : Nat) : Nat × Nat :=
  match s.hart.tlb.find? fun e => e.vpn == va / 4096 with
  | some e => (va / (4096 * e.pages) * (4096 * e.pages), 4096 * e.pages)
  | none => (va / 4096 * 4096, 4096)

/-- The wait of R179: one of the pages holds bytes of a copy's range. -/
def awaitPages (vas : List Nat) : M Unit := fun s =>
  if vas.any fun va => s.held (s.pageBytes va).1 (s.pageBytes va).2 then
    let s := s.engineProgress
    .error ({ s with hart := { s.hart with fetchPin := none } }, .wait)
  else .ok ((), s)

/-- The wait of R179 on the pages of `n` bytes. -/
def awaitSpan (va n : Nat) : M Unit :=
  awaitPages ((List.range (if n = 0 then 0 else (va % 4096 + n + 4095) / 4096)).map fun i => va + 4096 * i)

/-- The operands read (R164); an indexed form waits for its index register's groups. A resumed VLDX whose index register is its
destination so waits for groups that it would itself complete: R142 has it wait, R173 has it perform them, and which holds is
left open (a DESIGN CHOICE). -/
def readVMem (xa : BitVec 5) (form : AddrForm) (t : Tag) (g : BitVec 4) : M (VMem × List Src) := do
  let s ← get
  let n := s.range t (max (tagWidth t) (s.indexWidth form))
  let act := maskFrom (s.p g n) s.hart.vec.vstart n
  let base := s.x xa
  match form with
  | .unit => pure ({ base := base, form := form, w := tagWidth t, n := n, act := act, stride := 0, index := fun _ => 0 }, [])
  | .strided xs =>
    pure ({ base := base, form := form, w := tagWidth t, n := n, act := act, stride := s.x xs, index := fun _ => 0 }, [])
  | .indexed vi =>
    let x ← readSrc vi s.hart.vec.vstart n
    pure ({ base := base, form := form, w := tagWidth t, n := n, act := act, stride := 0
            index := fun i => indexValue x.tag (x.elem i), indexBits := 8 * tagWidth x.tag, indexTaint := x.taint }, [x])

/-! ### Combines at their slices -/

/-- The combining operations (R175), by the function value's order. -/
inductive CombineOp where
  | add | min | max | or
  deriving DecidableEq, Repr

/-- The number a pending combine carries for its operation. -/
def CombineOp.code : CombineOp → Nat
  | .add => 0 | .min => 1 | .max => 2 | .or => 3

/-- The operation of a number. -/
def CombineOp.ofCode : Nat → CombineOp
  | 0 => .add | 1 => .min | 2 => .max | _ => .or

/-- Is the combine defined for the tag (R175)? -/
def CombineOp.defined (op : CombineOp) (t : Tag) : Bool :=
  let int := t = .i32 || t = .i64 || t = .w32 || t = .w64
  let fl := t = .f32 || t = .f64
  match op with
  | .add => int || fl || t = .rn24
  | .min | .max => int || fl
  | .or => int || t = .hb

/-- The VTYPE at memory (R175): RNE, subnormals kept, results wrap. -/
def memoryVType : VType := {}

/-- What a combine writes (R175). -/
def CombineOp.apply (op : CombineOp) (t : Tag) (old x : Nat) : Nat :=
  match op with
  | .add => (VecOp.add.elem t memoryVType old x).1
  | .min => (VecOp.min.elem t memoryVType old x).1
  | .max => (VecOp.max.elem t memoryVType old x).1
  | .or => old ||| x

/-- Is the combine inexact, so that it taints its block (R175, R337)? -/
def inexactCombine (op : CombineOp) (t : Tag) : Bool := op = .add && (t = .f32 || t = .f64)

/-- The combine waits for a port that reaches its peer (R378). -/
def Dev.cutCombine (d : Dev) (c : PendingCombine) : Bool := c.window.any fun w => (d.window w.1 w.2).any Window.isCut

/-- Must combine `c` be applied before the later `d`: ordered elements of one instruction (R175), or the same bytes of one
hart (R180)? -/
def PendingCombine.before (c d : PendingCombine) : Bool :=
  (c.hart == d.hart && c.group.isSome && (c.group == d.group || (d.resumed && d.group.isSome))) ||
    (c.hart == d.hart && overlaps c.key (tagWidth c.tag) d.key (tagWidth d.tag))

/-- Does combine `d` go before `c` at its slice under DETM.ARB (R335): of a lower logical hart, for the same block? -/
def State.outranks (s : State) (d c : PendingCombine) : Bool :=
  s.arb c.hart && d.key / 64 == c.key / 64 && !s.dev.cutCombine d && lexLt (s.logical d.hart) (s.logical c.hart)

/-- A combine applied at its coherence point (R175, R325). -/
def State.applyCombine (s : State) (c : PendingCombine) : State :=
  let w := tagWidth c.tag
  let op := CombineOp.ofCode c.op
  let s := if c.core = s.core.id then s.drainRange c.key w else s
  let put (s : State) : State := s.apply c.hart c.key (bytesOf w (op.apply c.tag (s.dev.read c.key w) c.value))
    { tainted := c.tainted || inexactCombine op c.tag }
  match c.window with
  | none => put s
  | some (x, n) =>
    if (s.dev.window x n).any Window.carries then put (s.flushWindow x n)
    else { s with dev := s.dev.updateWindow x n (Window.drop 1) }

/-- The place of a combine that has to be applied before the one at place `k`: an earlier one, or one that outranks it. -/
def State.combineFirst (s : State) (k : Nat) : Option Nat :=
  let l := s.dev.combines
  l[k]?.bind fun c =>
    ((List.range k).find? fun j => l[j]?.any fun d => d.before c).or
      ((List.range l.length).find? fun j => l[j]?.any fun d => s.outranks d c)

/-- The place of the combine that can be applied now on the way to the one at place `k`: none while a window holds one of them up
(R378). -/
def State.combineNext (s : State) : Nat → Nat → Option Nat
  | 0, _ => none
  | fuel + 1, k =>
    match s.combineFirst k with
    | some j => s.combineNext fuel j
    | none => if s.dev.combines[k]?.any s.dev.cutCombine then none else some k

/-- The pending combines that the test selects are applied, each after those that must be before it, at most `fuel` of them. -/
def applyCombinesUpTo (p : PendingCombine → Bool) : Nat → State → State
  | 0, s => s
  | fuel + 1, s =>
    let n := s.dev.combines.length
    match (List.range n).findSome? fun k => if s.dev.combines[k]?.any p then s.combineNext n k else none with
    | none => s
    | some k =>
      match s.dev.combines[k]? with
      | none => s
      | some c =>
        let s := { s with dev := { s.dev with combines := s.dev.combines.eraseIdx k } }
        applyCombinesUpTo p fuel (s.atCore c.core fun s => s.applyCombine c)

/-- Every pending combine that the test selects and that can be applied now is applied (R176, R325). -/
def State.applyCombines (s : State) (p : PendingCombine → Bool) : State := applyCombinesUpTo p s.dev.combines.length s

/-- The hart's combines are applied (R181, R336). -/
def State.applyOwnCombines (s : State) : State := s.applyCombines fun c => c.hart = s.hart.ident.uid

/-- A combine of the hart is pending. -/
def State.combining (s : State) : Bool := s.dev.combines.any fun c => c.hart = s.hart.ident.uid

/-- A combine of the hart that a window without a port holds up is waited for (R181, R378). -/
def awaitCombines : M Unit := fun s => if s.combining then waitHere s else .ok ((), s)

/-- The hart's pending combines that touch a range are applied before a later access of its own to it (R176, R180). -/
def State.settleCombines (s : State) (key n : Nat) : State :=
  s.applyCombines fun c => c.hart = s.hart.ident.uid && overlaps c.key (tagWidth c.tag) key n

/-- The hart's earlier vector accesses to a range are performed before a later one (R180): its stores still to be performed, unless
the later access joins them, and its combines. -/
def State.settleVector (s : State) (key n : Nat) : State :=
  let s := if s.defers then s else s.landLate s.hart.ident.uid fun l => !l.isScalar && l.touches key n
  s.settleCombines key n

/-- A combine of the hart to the bytes is held up. -/
def State.combineHeld (s : State) (key n : Nat) : Bool :=
  s.dev.combines.any fun c => c.hart = s.hart.ident.uid && overlaps c.key (tagWidth c.tag) key n

/-- The hart's earlier vector accesses to the bytes are performed first; while a window holds one of them up, the access waits. -/
def settleFirst (key n : Nat) : M Unit := fun s =>
  let s := s.settleVector key n
  if s.combineHeld key n then waitHere s else .ok ((), s)

/-- The waits before the pinned elements are performed: on their pages (R179), on windows that no port serves, and on combines of
the hart's own that one holds up (R378). -/
def VMem.await (m : VMem) (l : List (Nat × Place)) : M Unit := do
  if (← get).hart.pinned.isNone then awaitPages (l.map fun ip => (m.addr ip.1).toNat)
  modify fun s => l.foldl (fun s ip => s.settleVector ip.2.key m.w) s
  let s ← get
  if l.any fun ip => (s.windowOf ip.2).any Window.isCut || s.combineHeld ip.2.key m.w then waitHere else pure ()

/-! ### Loads -/

/-- Element `i` returns (R168 step 5, R170): the value, its taint, or the failure. -/
def returnElem (w i : Nat) (pl : Place) (s : State) : Except Failure (Nat × Bool × State) :=
  match (s.windowOf pl).filter fun w => !w.carries with
  | some w => .error (linkFailure w)
  | none =>
    let s := s.settleVector pl.key w
    let s := if pl.cls = .remote then s.flushWindow s.hart.ctx pl.win else s
    match (if (s.earlyAt i pl.key).isSome then none else s.viewPoison s.hart.ident.uid .vector pl.key w) with
    | some _ => .error { cause := .poison, info3 := word (physOf pl.key) }
    | none => .ok (s.loadValue true i pl w)

/-- What a load's returning elements have done so far. -/
structure Returned where
  v : VReg
  /-- Elements that have returned, and those that read a tainted block. -/
  done : Nat := 0
  tainted : Nat := 0
  fail : Option (Nat × Failure) := none
  s : State

/-- The elements return (R170, R172): under order=elem none above a failed one returns. -/
def returnAll (w : Nat) (ordered : Bool) : List (Nat × Place) → Returned → Returned
  | [], r => r
  | (i, pl) :: t, r =>
    match returnElem w i pl r.s with
    | .error e =>
      let r := { r with fail := match r.fail with | none => some (i, e) | f => f }
      if ordered then r else returnAll w ordered t r
    | .ok (v, tn, s) =>
      returnAll w ordered t { r with
        v := { r.v with data := setItem (8 * w) r.v.data i v }
        done := setBit r.done i true, tainted := if tn then setBit r.tainted i true else r.tainted, s := s }

/-- The load at pc has stopped before and left groups absent (R173). -/
def State.resumes (s : State) : Bool := s.hart.reload.contains (s.hart.pc, s.hart.priv)

/-- The load at pc stops with groups absent, or completes (R172, R173). -/
def State.setResumes (s : State) (b : Bool) : State :=
  let rest := s.hart.reload.filter fun r => r != (s.hart.pc, s.hart.priv)
  { s with hart := { s.hart with reload := if b then (s.hart.pc, s.hart.priv) :: rest else rest } }

/-- The elements a load is to perform (R165, R173): all active ones, or, of one that has stopped and left groups absent, those in
absent groups. -/
def loadMask (resumes : Bool) (v : VReg) (act n : Nat) : Nat :=
  if !resumes then act
  else (List.range n).foldl (fun m i => if act.testBit i && v.absent.testBit (i / 16) then setBit m i true else m) 0

/-- The lowest element of a mask below `n`. -/
def lowestOf (mask n : Nat) : Option Nat := (List.range n).find? fun i => mask.testBit i

/-- The tag of a load's register once the elements `done` of those it performs have returned (R122): the new one as soon as
the lowest of them has. -/
def loadTag (old t : Tag) (mask done n : Nat) : Tag :=
  if (lowestOf mask n).any fun i => done.testBit i then t else old

/-- The element groups of a load that are complete (R170). -/
def completeGroups (mask done n : Nat) : Nat :=
  let g := groupsOf mask n
  let open' := groupsOf (mask ^^^ (mask &&& done)) n
  g ^^^ (g &&& open')

/-- The presence bits after elements have returned (R170, R172): a load that has left the VIQ leaves the groups it has not
completed absent; one whose pinning failed never left it, and only completes groups. -/
def absentAfter (old mask done n : Nat) (left : Bool) : Nat :=
  let g := if left then old ||| groupsOf mask n else old
  g ^^^ (g &&& completeGroups mask done n)

/-- The register of a load of tag `t` after elements have returned: presence, taint of the data and of the indices (R183,
R337), tag. -/
def Returned.reg (r : Returned) (t : Tag) (mask n indexTaint : Nat) (left : Bool) : VReg :=
  let src := groupsOf r.tainted n ||| indexTaint
  { r.v with
    absent := absentAfter r.v.absent mask r.done n left
    taint := taintAfter r.v.taint src r.done n
    tag := loadTag r.v.tag t mask r.done n }

/-- TAINT after elements have returned (R340). -/
def Returned.state (r : Returned) (n indexTaint : Nat) : State :=
  (r.s.markRead (r.tainted != 0)).markSeen (r.tainted != 0 || indexTaint &&& groupsOf r.done n != 0)

/-- A load leaves for memory (R170): its elements are outstanding and their groups absent. -/
def launchLoad (d : BitVec 6) (t : Tag) (ordered : Bool) (m : VMem) (mask : Nat) (l : List (Nat × Place)) (xs : List Src)
    (s : State) : State :=
  let v := s.v d
  let s := s.setV d { v with absent := v.absent ||| groupsOf mask m.n }
  let o : OutstandingLoad :=
    { reg := d.toNat, tag := t, width := m.w, n := m.n, frame := m.frame .load 0, ordered := ordered
      strip := (xs.filterMap fun x => x.strip).head?, indexTaint := m.indexTaint, items := l.map m.item, act := mask }
  { s with hart := { s.hart with fetchPin := none, load := some o } }

/-- The lowest failed element. -/
def OutstandingLoad.failure (o : OutstandingLoad) : Option (LoadItem × Failure) :=
  o.fails.foldl (fun b x => match b with
    | none => some x
    | some y => if x.1.i < y.1.i then some x else some y) none

/-- The trap of a failed element of an outstanding load (R169). -/
def OutstandingLoad.trap (o : OutstandingLoad) (x : LoadItem) (e : Failure) : Trap :=
  accessTrap e x.va x.i .load x.va { o.frame with remain := o.n - x.i, info3 := x.index }

/-- An outstanding load waits for its data, traps once every element below the failed one has returned, or completes
(R170, R172). -/
def awaitLoad (o : OutstandingLoad) : M Unit := fun s =>
  let landed := { s with hart := { s.hart with load := none } }
  match o.failure with
  | some (x, e) => if o.items.any fun y => y.i < x.i then waitHere s else .error (landed.setResumes true, .trap (o.trap x e))
  | none =>
    if o.items.isEmpty then
      let r := BitVec.ofNat 6 o.reg
      .ok ((), (((o.strip.toList.foldl (fun s k => consumeStrip k s) landed).setV r { s.v r with tag := o.tag }).setResumes false).setVstart 0)
    else waitHere s

/-- The element of an outstanding load at a place in its list returns (R170): it is written, with its presence when it
completes its group, or it has failed. -/
def OutstandingLoad.land (o : OutstandingLoad) (k : Nat) (s : State) : Option State :=
  match (if o.ordered && k != 0 then none else o.items[k]?) with
  | none => none
  | some x =>
    let items := o.items.eraseIdx k
    let put (s : State) (o : OutstandingLoad) : State := { s with hart := { s.hart with load := some o } }
    let held : Bool := (s.settleVector x.key o.width).combineHeld x.key o.width
    if held || (s.windowOf x.place).any Window.isCut then none
    else match returnElem o.width x.i x.place s with
    | .error e => some (put s { o with items := if o.ordered then [] else items, fails := o.fails ++ [(x, e)] })
    | .ok (val, tn, s) =>
      let r := BitVec.ofNat 6 o.reg
      let v := s.v r
      let o := { o with
        items := items, done := setBit o.done x.i true
        tainted := if tn then setBit o.tainted x.i true else o.tainted }
      let src := groupsOf o.tainted o.n ||| o.indexTaint
      let v := { v with
        data := setItem (8 * o.width) v.data x.i val
        tag := loadTag v.tag o.tag o.act o.done o.n
        taint := taintAfter v.taint src o.done o.n
        absent := v.absent ^^^ (v.absent &&& completeGroups o.act o.done o.n) }
      some (put (((s.markRead tn).markSeen (tn || o.indexTaint.testBit (x.i / 16))).setV r v) o)

/-- The element group at which an interrupt stops an outstanding load (R172): 16 times the lowest that is not complete. -/
def OutstandingLoad.stopAt (o : OutstandingLoad) : Nat :=
  let left := o.items.map (fun x => x.i / 16) ++ o.fails.map fun x => x.1.i / 16
  16 * left.foldl Nat.min (left.headD 0)

/-- Where an instruction of vector memory ends: its own end, a pin failure, a strip that cannot deliver, or a stop. -/
structure Span where
  stop : Nat
  trap : Option Trap
  paused : Bool

/-- The span of an instruction from VSTART (R86, R169, R192). -/
def spanOf (m : VMem) (acc : Acc) (pf : Option (Nat × Failure)) (fs : Option (Nat × Trap)) (pause : Option Nat) : Span :=
  let a := (pf.map (·.1)).getD m.n
  let b := (fs.map (·.1)).getD m.n
  let c := pause.getD m.n
  if c < a && c < b then { stop := c, trap := none, paused := true }
  else if b ≤ a then { stop := b, trap := fs.map (·.2), paused := false }
  else { stop := a, trap := pf.map fun (f, e) => m.trap acc f e, paused := false }

/-- A load that has pinned what it can of its pages runs to its end, its stop or its trap, or leaves for memory (R165, R169
to R173, R192). Its interrupt leaves it at the lowest group that is not complete. -/
def runLoad (d : BitVec 6) (t : Tag) (ordered : Bool) (m : VMem) (xs : List Src) : M Unit := do
  let s ← get
  let start := s.hart.vec.vstart
  let v := s.v d
  let mask := loadMask s.resumes v m.act m.n
  let (l, pf) ← m.pins .load false mask
  m.await l
  let s ← get
  let fs := lowestFail xs
  let left := pf.isNone && fs.isNone
  if s.core.flying && left then (fun s => .error (launchLoad d t ordered m mask l xs s, .wait) : M Unit)
  else
    let rest (i : Nat) : Option Nat := lowestOf (maskFrom mask i m.n) m.n
    let pause := (s.stopAt start m.n).bind fun q => (rest q).map fun i => i / 16 * 16
    let sp := spanOf m .load pf fs (pause.filter fun q => start < q)
    let r := returnAll m.w ordered (l.filter fun ip => ip.1 < sp.stop) { v := v, s := s }
    let left := left || r.fail.isSome
    set ((r.state m.n m.indexTaint).setV d (r.reg t mask m.n m.indexTaint left))
    match r.fail, sp.trap with
    | some (f, e), _ =>
      modify fun s => s.setResumes true
      trapNow (m.trap .load f e)
    | none, some t => trapNow t
    | none, none =>
      if sp.paused then
        modify fun s => m.keepPins l pf (s.setResumes true)
        stopInside sp.stop
      else modify fun s => ((consumeAll xs (s.setV d { s.v d with tag := t })).setResumes false).setVstart 0

/-- A load (R165 to R173): one that is outstanding has read its operands already. -/
def vecLoad (d : BitVec 6) (xa : BitVec 5) (form : AddrForm) (o : BitVec 1) (g : BitVec 4) : M Unit := do
  let s ← get
  match s.hart.load with
  | some l => awaitLoad l
  | none =>
    let t := s.hart.vec.vtype.etag
    need (t != .none) (tagTrap .none .none)
    needIndex form
    needFits t
    needUnbound d
    let (m, xs) ← readVMem xa form t g
    if m.n ≤ s.hart.vec.vstart then
      modify fun s => ((consumeAll xs (s.setV d { s.v d with tag := t })).setResumes false).setVstart 0
    else runLoad d t (o = 1) m xs

/-- Element `i` of a load that has issued and waits behind older instructions, read now (R64, R171, R180): what it reads. Under
order=elem every lower one is among the `read` ones. The page holds no byte of the ranges `avoid` (R179). -/
def earlyElem (xa : BitVec 5) (form : AddrForm) (ordered : Bool) (g : BitVec 4) (read : List Early) (avoid : List (Int × Nat))
    (i : Nat) (s : State) : Option (Early × State) :=
  let t := s.hart.vec.vtype.etag
  let bound := match form with | .indexed vi => (s.v vi).bound.isSome | _ => false
  if t = .none || bound || !fits s t then none
  else match (needIndex form >>= fun _ => readVMem xa form t g) s with
  | .error _ => none
  | .ok ((m, _), s) =>
    let below := (List.range i).all fun j => !m.act.testBit j || read.any fun e => e.elem == j
    if !(decide (i < m.n) && m.act.testBit i) || (ordered && !below) then none
    else match m.pin .load false i s with
    | .error _ => none
    | .ok (pl, s) =>
      let (a, k) := s.pageBytes (m.addr i).toNat
      if avoid.any fun r => spansMeet a k r.1 r.2 then none
      else match m.await [(i, pl)] s with
      | .error _ => none
      | .ok (_, s) =>
        match returnElem m.w i pl s with
        | .error _ => none
        | .ok (v, tn, s) => some ({ elem := i, key := pl.key, size := m.w, vector := true, value := v, tainted := tn }, s)

/-- VLD (R165). -/
def execVld (d : BitVec 6) (x : BitVec 5) (o : BitVec 1) (g : BitVec 4) (s : State) : Res :=
  complete4 (vecLoad d x .unit o g) s

/-- VLDS (R165). -/
def execVlds (d : BitVec 6) (x xs : BitVec 5) (o : BitVec 1) (g : BitVec 4) (s : State) : Res :=
  complete4 (vecLoad d x (.strided xs) o g) s

/-- VLDX (R165). -/
def execVldx (d : BitVec 6) (x : BitVec 5) (vi : BitVec 6) (o : BitVec 1) (g : BitVec 4) (s : State) : Res :=
  complete4 (vecLoad d x (.indexed vi) o g) s

/-- LOAD_DATA_RETURN (R170): the data of an outstanding element return, under order=elem the lowest. -/
def execLoadDataReturn (k : BitVec 16) (s : State) : Res :=
  match s.hart.load.bind fun o => o.land k.toNat s with
  | some s' => .next s'
  | none => .next s

/-! ### Stores, combines and atomics -/

/-- A source register of data, from VSTART upward (R165, R167). -/
def dataChecks (d : BitVec 6) (form : AddrForm) (accepted : Tag → Bool) (written : Bool) : M Tag := do
  let s ← get
  let t := (s.v d).tag
  need (t != .none) (tagTrap .none .none)
  needIndex form
  need (accepted t) (tagTrap t .none)
  needFits t
  if written then needUnbound d
  pure t

/-- What follows the performed elements of a span, with the pins that the instruction keeps when it stops inside (R92). -/
def endSpan (m : VMem) (l : List (Nat × Place)) (pf : Option (Nat × Failure)) (sp : Span) (xs : List Src) : M Unit := fun s =>
  match sp.trap with
  | some t => .error (s, .trap t)
  | none => if sp.paused then stopInside sp.stop (m.keepPins l pf s) else .ok ((), (consumeAll xs s).setVstart 0)

/-- The numbers of an ordered instruction's elements: its group, and whether it had been stopped before (R322). -/
structure Order where
  group : Option Nat
  resumed : Bool

/-- A number for the elements of an ordered instruction. -/
def orderOf (o : BitVec 1) : M Order := fun s =>
  if o = 1 then
    .ok ({ group := some s.dev.nextId, resumed := s.hart.vec.vstart != 0 },
      { s with dev := { s.dev with nextId := s.dev.nextId + 1 } })
  else .ok ({ group := none, resumed := false }, s)

/-- The number of the store instruction at pc (R339): the same when it runs on after a trap or an interrupt, which shift the
U count by nothing (R342). -/
def Hart.storeId (h : Hart) : Nat :=
  2 * (((h.ident.gang * 256 + h.ident.lhart) * 2 ^ 64 + h.counts.ucount.toNat) * 2 ^ 65 +
    match h.priv with | .u => 0 | .s => h.counts.instret.toNat + 1)

/-- One element of a store performed (R174, R322); its block is tainted from a tainted group of its data or its indices
(R183, R337). -/
def storeElem (x : Src) (m : VMem) (o : Order) (s : State) (ip : Nat × Place) : State :=
  let (i, pl) := ip
  let tn := (x.taint ||| m.indexTaint).testBit (i / 16)
  let s := (s.settleVector pl.key m.w).markSeen tn
  s.perform { s.entry .vector pl (bytesOf m.w (x.elem i)) with
    group := o.group, resumed := o.resumed, tainted := tn, whole := some s.hart.storeId
    writer := some (s.hart.ident.gang, s.hart.ident.lhart, s.hart.counts.epoch), after := s.hart.ordered }

/-- A store (R165, R174): the elements in ascending order, so that the highest of equal addresses stays. -/
def vecStore (d : BitVec 6) (xa : BitVec 5) (form : AddrForm) (o : BitVec 1) (g : BitVec 4) : M Unit := do
  let t ← dataChecks d form (fun _ => true) false
  let (m, xs) ← readVMem xa form t g
  let s ← get
  let start := s.hart.vec.vstart
  let x ← readSrc d start m.n
  let (l, pf) ← m.pins .store false m.act
  m.await l
  let sp := spanOf m .store pf (if start < m.n then lowestFail (x :: xs) else none) (s.stopAt start m.n)
  let ord ← orderOf o
  modify fun s => (l.filter fun ip => ip.1 < sp.stop).foldl (storeElem x m ord) s.openEpoch
  endSpan m l pf sp (x :: xs)

/-- A list in a free order. -/
def shuffle {α : Type} : Nat → Nat → List α → List α
  | 0, _, l => l
  | k + 1, c, l =>
    match l with
    | [] => []
    | a :: t =>
      let j := Config.free c % l.length
      match l[j]? with
      | none => a :: t
      | some b => b :: shuffle k (c + 1) (l.eraseIdx j)

/-- Do two elements name one address? -/
def collide (l : List (Nat × Place)) : Bool :=
  match l with
  | [] => false
  | (_, p) :: t => t.any (fun q => q.2.key = p.key) || collide t

/-- The order in which elements are performed (R175, R177): free where two of them name one
address, unless DETM.ARB grants by entry age (R335). -/
def elementOrder (o : BitVec 1) (l : List (Nat × Place)) : M (List (Nat × Place)) := fun s =>
  if o = 1 || s.hart.detm.arb || !collide l then .ok (l, s)
  else .ok (shuffle l.length s.dev.freeCount l, { s with dev := { s.dev with freeCount := s.dev.freeCount + l.length } })

/-- One combine element issued (R175, R176): applied at once in an eager core, else left to its slice. -/
def combineElem (op : CombineOp) (t : Tag) (x : Src) (m : VMem) (o : Order) (s : State) (ip : Nat × Place) : State :=
  let (i, pl) := ip
  let tn := (x.taint ||| m.indexTaint).testBit (i / 16)
  let inexact := inexactCombine op t
  let s := ((s.settleVector pl.key (tagWidth t)).drainRange pl.key (tagWidth t)).markSeen (tn || inexact)
  let s := if inexact then s.setTaint { s.hart.taint with combine := true } else s
  let c : PendingCombine :=
    { hart := s.hart.ident.uid, core := s.core.id, key := pl.key, op := op.code, tag := t, value := x.elem i, tainted := tn
      group := o.group, resumed := o.resumed, window := if pl.cls = .remote then some (s.hart.ctx, pl.win) else none }
  if s.core.eager && !s.combineHeld pl.key (tagWidth t) && !s.dev.cutCombine c then s.applyCombine c
  else { s with dev := { s.dev with combines := s.dev.combines ++ [c] } }

/-- A combining scatter (R175). -/
def vecCombine (op : CombineOp) (d : BitVec 6) (xa : BitVec 5) (vi : BitVec 6) (o : BitVec 1) (g : BitVec 4) : M Unit := do
  let t ← dataChecks d (.indexed vi) op.defined false
  let (m, xs) ← readVMem xa (.indexed vi) t g
  let s ← get
  let start := s.hart.vec.vstart
  let x ← readSrc d start m.n
  let (l, pf) ← m.pins .atomic true m.act
  m.await l
  let sp := spanOf m .atomic pf (if start < m.n then lowestFail (x :: xs) else none) (s.stopAt start m.n)
  let ord ← orderOf o
  let now ← elementOrder o (l.filter fun ip => ip.1 < sp.stop)
  modify fun s => now.foldl (combineElem op t x m ord) s
  endSpan m l pf sp (x :: xs)

/-- VST (R165). -/
def execVst (d : BitVec 6) (x : BitVec 5) (o : BitVec 1) (g : BitVec 4) (s : State) : Res :=
  complete4 (vecStore d x .unit o g) s

/-- VSTS (R165). -/
def execVsts (d : BitVec 6) (x xs : BitVec 5) (o : BitVec 1) (g : BitVec 4) (s : State) : Res :=
  complete4 (vecStore d x (.strided xs) o g) s

/-- VSTX (R174). -/
def execVstx (d : BitVec 6) (x : BitVec 5) (vi : BitVec 6) (o : BitVec 1) (g : BitVec 4) (s : State) : Res :=
  complete4 (vecStore d x (.indexed vi) o g) s

/-- VCADD (R175). -/
def execVcadd (d : BitVec 6) (x : BitVec 5) (vi : BitVec 6) (o : BitVec 1) (g : BitVec 4) (s : State) : Res :=
  complete4 (vecCombine .add d x vi o g) s

/-- VCMIN (R175). -/
def execVcmin (d : BitVec 6) (x : BitVec 5) (vi : BitVec 6) (o : BitVec 1) (g : BitVec 4) (s : State) : Res :=
  complete4 (vecCombine .min d x vi o g) s

/-- VCMAX (R175). -/
def execVcmax (d : BitVec 6) (x : BitVec 5) (vi : BitVec 6) (o : BitVec 1) (g : BitVec 4) (s : State) : Res :=
  complete4 (vecCombine .max d x vi o g) s

/-- VCOR (R175). -/
def execVcor (d : BitVec 6) (x : BitVec 5) (vi : BitVec 6) (o : BitVec 1) (g : BitVec 4) (s : State) : Res :=
  complete4 (vecCombine .or d x vi o g) s

/-- The tags a vector atomic accepts (R177). -/
def vamoTag (op : AmoOp) (t : Tag) : Bool :=
  t = .i32 || t = .i64 || t = .w32 || t = .w64 || (op = .swap && (t = .f32 || t = .f64))

/-- The operation of a vector atomic on a tag (R177): min and max are unsigned on W. -/
def vamoOp (op : AmoOp) (t : Tag) : AmoOp :=
  match op with
  | .min => if tagClass t = .w then .minu else .min
  | .max => if tagClass t = .w then .maxu else .max
  | op => op

/-- The entries and combines that an atomic element has to follow are performed (R180, R325). -/
def settleElem (w : Nat) (s : State) (ip : Nat × Place) : State := (s.settleVector ip.2.key w).settle ip.2 w

/-- The element atomics one after another (R177). -/
def vamoElems (op : AmoOp) (t : Tag) (x : Src) (m : VMem) : List (Nat × Place) → VReg → State → VReg × State
  | [], v, s => (v, s)
  | (i, pl) :: l, v, s =>
    let w := tagWidth t
    let s := settleElem w s (i, pl)
    let old := s.dev.read pl.key w
    let s := s.markRead (s.dev.rangeTainted pl.key w)
    let s := s.apply s.hart.ident.uid pl.key (bytesOf w ((vamoOp op t).apply w old (x.elem i)))
      { tainted := (x.taint ||| m.indexTaint).testBit (i / 16) }
    vamoElems op t x m l { v with data := setItem (8 * w) v.data i old, taint := setBit v.taint (i / 16) true } s

/-- Step 5 of R168 for an atomic element: a link that has been lost since its page was pinned, or an error in its data. -/
def atomicFailure (w : Nat) (pl : Place) (s : State) : Option Failure :=
  match (s.windowOf pl).filter fun w => !w.carries with
  | some w => some (linkFailure w)
  | none => if (s.dev.poisoned pl.key w).isSome then some { cause := .poison, info3 := word (physOf pl.key) } else none

/-- A vector atomic (R177): under DETM.ATOM it traps DETERM before every other check. An element that fails at its return
stops it: those below are performed, in the order of the instruction, and none above (R86, R169). -/
def vecAmo (op : AmoOp) (d : BitVec 6) (xa : BitVec 5) (vi : BitVec 6) (o : BitVec 1) (g : BitVec 4) (tval : Nat) :
    M Unit := do
  need (!(← get).hart.detm.atom) { cause := .determ, val := word tval }
  let t ← dataChecks d (.indexed vi) (vamoTag op) true
  let (m, xs) ← readVMem xa (.indexed vi) t g
  let s ← get
  let start := s.hart.vec.vstart
  let x ← readSrc d start m.n
  let (l, pf) ← m.pins .atomic true m.act
  m.await l
  let sp := spanOf m .atomic pf (if start < m.n then lowestFail xs else none) (s.stopAt start m.n)
  let now := l.filter fun ip => ip.1 < sp.stop
  modify fun s => now.foldl (settleElem m.w) s
  let s ← get
  let bad := now.findSome? fun ip => (atomicFailure m.w ip.2 s).map fun f => (ip.1, f)
  let now ← elementOrder o (match bad with | some (f, _) => now.filter fun ip => ip.1 < f | none => now)
  modify fun s =>
    let (v, s) := vamoElems op t x m now (s.v d) s
    (if now.isEmpty then s else (s.setTaint { s.hart.taint with atom := true }).markSeen true).setV d v
  match bad with
  | some (f, e) => trapNow (m.trap .atomic f e)
  | none => endSpan m l pf sp xs

/-- The word of a vector atomic (R32, R163): the TVAL of its DETERM trap. -/
def vamoWord (fn : Nat) (d : BitVec 6) (x : BitVec 5) (vi : BitVec 6) (o : BitVec 1) (g : BitVec 4) : Nat :=
  0x42 + fn * 2 ^ 29 + slot 7 d + slot 13 x + slot 18 vi + slot 24 o + slot 25 g

/-- VAADD (R177). -/
def execVaadd (d : BitVec 6) (x : BitVec 5) (vi : BitVec 6) (o : BitVec 1) (g : BitVec 4) (s : State) : Res :=
  complete4 (vecAmo .add d x vi o g (vamoWord 0 d x vi o g)) s

/-- VAMIN (R177). -/
def execVamin (d : BitVec 6) (x : BitVec 5) (vi : BitVec 6) (o : BitVec 1) (g : BitVec 4) (s : State) : Res :=
  complete4 (vecAmo .min d x vi o g (vamoWord 1 d x vi o g)) s

/-- VAMAX (R177). -/
def execVamax (d : BitVec 6) (x : BitVec 5) (vi : BitVec 6) (o : BitVec 1) (g : BitVec 4) (s : State) : Res :=
  complete4 (vecAmo .max d x vi o g (vamoWord 2 d x vi o g)) s

/-- VAAND (R177). -/
def execVaand (d : BitVec 6) (x : BitVec 5) (vi : BitVec 6) (o : BitVec 1) (g : BitVec 4) (s : State) : Res :=
  complete4 (vecAmo .and d x vi o g (vamoWord 3 d x vi o g)) s

/-- VAOR (R177). -/
def execVaor (d : BitVec 6) (x : BitVec 5) (vi : BitVec 6) (o : BitVec 1) (g : BitVec 4) (s : State) : Res :=
  complete4 (vecAmo .or d x vi o g (vamoWord 4 d x vi o g)) s

/-- VAXOR (R177). -/
def execVaxor (d : BitVec 6) (x : BitVec 5) (vi : BitVec 6) (o : BitVec 1) (g : BitVec 4) (s : State) : Res :=
  complete4 (vecAmo .xor d x vi o g (vamoWord 5 d x vi o g)) s

/-- VASWAP (R177). -/
def execVaswap (d : BitVec 6) (x : BitVec 5) (vi : BitVec 6) (o : BitVec 1) (g : BitVec 4) (s : State) : Res :=
  complete4 (vecAmo .swap d x vi o g (vamoWord 6 d x vi o g)) s

end Sys2Proof.Machine
end

