-- ==== Sys2Proof/Machine/Streams.lean ====
section
/-!
DEFINITION. Stream binding: VBIND, VUNBIND, VBSTAT and the stream thread's fetching ahead (R186 to R194).
-/

namespace Sys2Proof.Machine

/-- A read of `n` bytes on one page that a vector instruction makes as a vector load of its hart (steps 2 to 5 of R62, R179,
R180, R346): the number and whether its blocks are tainted; a failure traps with the frame given and TVAL the address. -/
def readAt (va n : Nat) (fr : Frame) (elem : Nat) : M (Nat × Bool) := fun s =>
  match s.locate va n .load with
  | .error (f, s) => .error (s, .trap (accessTrap f (word va) elem .load (word va) fr))
  | .ok (pl, s) =>
    (awaitPages [va] >>= fun _ => awaitWindow pl >>= fun _ => settleFirst pl.key n >>= fun _ => fun s =>
      match returnElem n elem pl s with
      | .error f => .error (s, .trap (accessTrap f (word va) elem .load (word va) fr))
      | .ok (v, t, s) =>
        match s.watchHit va n .load with
        | some a => .error (s, .trap (watchTrap a elem))
        | none => .ok ((v, t), s)) s

/-- `k` doublewords read from an address on, and whether one was tainted. -/
def readWords (va : Nat) (fr : Frame) (elem : Nat) : Nat → M (List Nat × Bool)
  | 0 => pure ([], false)
  | k + 1 => do
    let (v, t) ← readAt va 8 fr elem
    let (vs, t') ← readWords (va + 8) fr elem k
    pure (v :: vs, t || t')

/-- The field rules of a binding record (R186): the doublewords, the scratchpad's size, RB. -/
def recordValid (q : Nat → Nat) (scratch rb : Nat) : Bool :=
  let length := bits 0 32 (q 2)
  let smode := bits 16 2 (q 3)
  let tt := tagOfCode (bits 8 5 (q 3))
  let mt := tagOfCode (bits 0 5 (q 3))
  let group := bits 0 13 (q 5)
  let sbuf := bits 0 23 (q 6)
  let depth := bits 0 4 (q 7)
  canonical (q 0) && bits 32 32 (q 2) == 0 && 1 ≤ length
    && bits 18 46 (q 3) == 0 && bits 13 3 (q 3) == 0 && bits 5 3 (q 3) == 0
    && bits 13 51 (q 5) == 0 && bits 23 9 (q 6) == 0 && bits 4 28 (q 7) == 0
    && sbuf % 64 == 0 && 1 ≤ depth && depth ≤ 8 && sbuf + depth * rb ≤ scratch
    && (if smode = 0 then q 4 == 0 && group == 0 else q 4 % 4 == 0 && 16 ≤ group && group ≤ 4096)
    && (match tt, mt with
        | some t, some m =>
          t != .none && m != .none && (convertible m t || (m == t && (tagClass m = .hb || tagClass m = .hc)))
            && (smode != 1 || tagClass t = .f)
        | _, _ => false)

/-- The slot a valid record gives (R186, R188): its position starts at zero. -/
def bindingOf (q : Nat → Nat) (reg : Nat) : Binding :=
  { reg := reg, base := word (q 0), stride := word (q 1), length := bits 0 32 (q 2), smode := bits 16 2 (q 3)
    ttag := (tagOfCode (bits 8 5 (q 3))).getD .none, mtag := (tagOfCode (bits 0 5 (q 3))).getD .none
    sbase := word (q 4), group := bits 0 13 (q 5), strips := 0, sbuf := bits 0 23 (q 6), consumed := 0
    depth := bits 0 4 (q 7), streamEnd := false, buffer := [], spoiled := false }

/-- The frame of a binding record that cannot be read (R188). -/
def recordReadFrame (va : Word) : Frame := { kind := 6, acc := 0, size := 8, base := va, stride := 8, remain := 8 }

/-- VBIND (R188). -/
def execVbind (d : BitVec 6) (k : BitVec 3) (x : BitVec 5) (s : State) : Res :=
  complete4 (do
    let va := s.x x
    need ((s.stream k.toNat).isNone && (s.v d).bound.isNone) (streamTrap d)
    need (va.toNat % 64 = 0) { cause := .misaligned, val := va, info := .frame (recordReadFrame va) }
    let (q, t) ← readWords va.toNat (recordReadFrame va) 0 8
    let f (i : Nat) : Nat := q.getD i 0
    need (recordValid f s.core.scratchSize s.rb) (streamTrap d)
    modify fun s =>
      let b := { bindingOf f d.toNat with fork := s.dev.nextId, rb := s.rb, priv := s.hart.priv }
      let s := { s with dev := { s.dev with nextId := s.dev.nextId + 1 } }
      let s := ((s.markRead t).markEscape t).setStream k.toNat (some b)
      (s.setV d { s.v d with bound := some k.toNat, tag := b.ttag }).setVstart 0) s

/-- VUNBIND (R193): the register keeps its tag and holds zero bits; a free slot is left alone. -/
def execVunbind (k : BitVec 3) (s : State) : Res :=
  complete4 (do
    modify fun s =>
      match s.stream k.toNat with
      | none => s.setVstart 0
      | some b =>
        let s := s.setStream k.toNat none
        let r := BitVec.ofNat 6 b.reg
        (s.setV r { s.v r with bound := none, data := 0, taint := 0, absent := 0 }).setVstart 0) s

/-- The word of VBSTAT (R193). -/
def Binding.status (b : Binding) : Word :=
  word (b.consumed % 2 ^ 32 + b.streamEnd.toNat * 2 ^ 32 + 2 ^ 33 + b.reg % 64 * 2 ^ 34)

/-- VBSTAT (R193). -/
def execVbstat (d : BitVec 5) (k : BitVec 3) (s : State) : Res :=
  complete4 (modify fun s => ((s.setX d (((s.stream k.toNat).map Binding.status).getD 0))).setVstart 0) s

/-- The lowest of the `n` elements from `e` on that the strip buffer does not hold. -/
def Binding.missing (b : Binding) : Nat → Nat → Option Nat
  | 0, _ => none
  | n + 1, e => if b.length ≤ e then none else if b.buffer.any fun x => x.e == e then b.missing n (e + 1) else some e

/-- STREAM_FETCH (R191): the thread of slot `k` fetches the next element, up to DEPTH strips beyond CONSUMED. -/
def execStreamFetch (k : BitVec 3) (s : State) : Res :=
  match s.stream k.toNat with
  | none => .next s
  | some b =>
    match b.missing (b.depth * s.stripLength b) b.consumed with
    | none => .next s
    | some e =>
      let (x, s) := fetchElem s (s.streamViewer b) b e
      .next (s.setStream k.toNat (some { b with buffer := b.buffer ++ [x] }))

end Sys2Proof.Machine
end

