-- ==== Sys2Proof/Machine/Sync.lean ====
section
/-!
DEFINITION. The SY instructions (R306 to R314), the iteration ring (R316) and the task queue (R116 to R118, R317).
-/

namespace Sys2Proof.Machine

/-! ### Synchronisation registers -/

/-- The release part of an order (R310, R327): at scope system it waits for posted accesses that a window holds up (R321,
R378). -/
def releasePart (o : BitVec 2) (sc : Scope) : M Unit :=
  if orderReleases o then do
    modify fun s => s.release sc
    awaitPosted sc
  else pure ()

/-- The acquire part of an order on a version of a register (R310, R328): it is performed before anything later issues, bars
merges (R324) and observes the inputs that the log holds (R343). -/
def State.acquirePart (s : State) (o : BitVec 2) (i version : Nat) : State :=
  if orderAcquires o then s.closeEntries.observeSrf i version else s

/-- The trap of an index outside the gang's window (R307). -/
def indexTrap (i : Word) (acc : Nat) : Trap :=
  { cause := .access, val := i, info := .frame { kind := 6, acc := acc, size := 8, base := i } }

/-- The index check of R307: below 16,384 and inside the gang's window. -/
def needIndexIn (i : Word) (acc : Nat) : M Nat := fun s =>
  let g := s.gang
  let k := i.toNat
  if k < Config.srfSize && g.srfBase ≤ k && k < g.srfBase + g.srfLen then .ok (k, s)
  else .error (s, .trap (indexTrap i acc))

/-- The check of DETM.ATOM of R310, and the atomic summary of a form that returns a value. -/
def needNoAtom (d : BitVec 5) (tval : Nat) : M Unit := do
  need (!((← get).hart.detm.atom && d != 0)) { cause := .determ, val := word tval }

/-- A form that returns a value has been executed (R310, R340). -/
def State.markAtom (s : State) (d : BitVec 5) : State := if d = 0 then s else s.setTaint { s.hart.taint with atom := true }

/-- SYLD (R311). -/
def execSyld (d a : BitVec 5) (o _sc : BitVec 2) (s : State) : Res :=
  complete4 (do
    let i ← needIndexIn (s.x a) 0
    modify fun s =>
      let (r, s) := s.readSrf i
      (s.acquirePart o i r.version).setX d r.value) s

/-- SYST (R311). -/
def execSyst (a b : BitVec 5) (o sc : BitVec 2) (s : State) : Res :=
  complete4 (do
    let i ← needIndexIn (s.x a) 1
    releasePart o (syScopeOf sc)
    modify fun s => s.writeSrf i (s.x b)) s

/-- SYTAS (R311). -/
def execSytas (d a : BitVec 5) (o sc : BitVec 2) (s : State) : Res :=
  complete4 (do
    needNoAtom d (Instr.sytas d a o sc).wordValue
    let i ← needIndexIn (s.x a) 2
    releasePart o (syScopeOf sc)
    modify fun s =>
      let r := s.dev.srfHome i
      (((s.writeSrf i (r.value ||| 1)).acquirePart o i r.version).markAtom d).setX d r.value) s

/-- SYFAA (R311). -/
def execSyfaa (d a b : BitVec 5) (o sc : BitVec 2) (s : State) : Res :=
  complete4 (do
    needNoAtom d (Instr.syfaa d a b o sc).wordValue
    let i ← needIndexIn (s.x a) 2
    releasePart o (syScopeOf sc)
    modify fun s =>
      let r := s.dev.srfHome i
      (((s.writeSrf i (r.value + s.x b)).acquirePart o i r.version).markAtom d).setX d r.value) s

/-- SYCAS (R311): a comparison that fails writes nothing and releases nothing (R310). -/
def execSycas (d a b : BitVec 5) (o sc : BitVec 2) (s : State) : Res :=
  complete4 (do
    needNoAtom d (Instr.sycas d a b o sc).wordValue
    let i ← needIndexIn (s.x a) 2
    if (s.dev.srfHome i).value = s.x d then releasePart o (syScopeOf sc)
    modify fun s =>
      let r := s.dev.srfHome i
      let s := if r.value = s.x d then s.writeSrf i (s.x b) else s.sawSrf i r.version
      ((s.acquirePart o i r.version).markAtom d).setX d r.value) s

/-- The comparisons of SYWAIT (R311). -/
def syCompare (c : BitVec 3) (v w : Word) : Bool :=
  match c.toNat with
  | 0 => v == w
  | 1 => v != w
  | 2 => !(v.ult w)
  | 3 => v.ult w
  | 4 => !(v.slt w)
  | _ => v.slt w

/-- SYWAIT (R311): it reads the mirror until the comparison holds. -/
def execSywait (d a b : BitVec 5) (o _sc : BitVec 2) (c : BitVec 3) (s : State) : Res :=
  complete4 (do
    let i ← needIndexIn (s.x a) 0
    let (r, s') := s.readSrf i
    set s'
    if syCompare c r.value (s.x b) then modify fun s => (s.acquirePart o i r.version).setX d r.value
    else
      modify fun s => s.pollMirror.engineProgress
      waitHere) s

/-- GEN of a barrier register (R312). -/
def barGen (v : Word) : Nat := bits 32 32 v.toNat

/-- COUNT of a barrier register (R312). -/
def barCount (v : Word) : Nat := bits 0 32 v.toNat

/-- A barrier register of its fields (R312). -/
def barWord (gen count : Nat) : Word := word (gen % 2 ^ 32 * 2 ^ 32 + count % 2 ^ 32)

/-- A SYBAR returns (R312, R338) from its register as it finds it: the status, what it orders, the epoch, VSTART. -/
def State.barReturn (s : State) (d : BitVec 5) (o : BitVec 2) (i : Nat) (r : SrfReg) (status : Word) : State :=
  let s := (s.acquirePart o i r.version).setX d status
  let s := if orderAcquires o then { s with hart := { s.hart with ordered := mergeOrder s.hart.ordered r.passed } } else s
  ({ s with hart := { s.hart with counts := { s.hart.counts with epoch := s.hart.counts.epoch + 1 } } }).setVstart 0

/-- The arrival of SYBAR at the home (R312): the status when it returns at once. -/
def State.barArrive (s : State) (o : BitVec 2) (i : Nat) (p : Nat) : State × Option Word :=
  let r := s.dev.srfHome i
  let g := barGen r.value
  let arrived := if orderReleases o then mergeOrder r.arrived s.hart.ordered else r.arrived
  if r.set.testBit s.hart.ident.lhart then (s.sawSrf i r.version, some (word (g * 2 ^ 32 + 2)))
  else if p ≤ barCount r.value + 1 then
    (s.writeReg i { value := barWord (g + 1) 0, passed := mergeOrder r.passed arrived }, some (word (g * 2 ^ 32 + 1)))
  else
    (s.writeReg i { value := barWord g (barCount r.value + 1), set := setBit r.set s.hart.ident.lhart true
                    arrived := arrived, passed := r.passed }, none)

/-- The wait of SYBAR after its arrival (R312, R313): its position is (PC, 1). -/
def barWait (d : BitVec 5) (o : BitVec 2) (i : Nat) : M Unit := fun s =>
  let s := s.setVstart 1
  let (r, s) := s.readSrf i
  if r.set.testBit s.hart.ident.lhart then
    let s := s.pollMirror.engineProgress
    waitHere { s with hart := { s.hart with stopped := true } }
  else .ok ((), s.barReturn d o i r (word ((barGen r.value + (2 ^ 32 - 1)) % 2 ^ 32 * 2 ^ 32)))

/-- SYBAR (R312). -/
def execSybar (d a b : BitVec 5) (o sc : BitVec 2) (s : State) : Res :=
  complete4 (do
    let i ← needIndexIn (s.x a) 2
    if s.hart.vec.vstart = 0 then
      releasePart o (syScopeOf sc)
      let (s', st) := (← get).barArrive o i (bits 0 32 (s.x b).toNat)
      set s'
      match st with
      | some w => modify fun s => s.barReturn d o i (s.dev.srfHome i) w
      | none => barWait d o i
    else barWait d o i) s

/-! ### The iteration ring -/

/-- A post reaches the gang's cores (R316): posts combine by maximum. -/
def Gang.deliver (g : Gang) (ch : Nat) (v : Word) : Gang :=
  { g with ring := g.ring.setIfInBounds ch (if (g.ring[ch]?.getD 0).ult v then v else g.ring[ch]?.getD 0) }

/-- The oldest post on its way is delivered (R316). -/
def Gang.deliverNext (g : Gang) : Gang :=
  match g.posts with
  | [] => g
  | (ch, v) :: t => { g with posts := t }.deliver ch v

/-- IPOST (R316). -/
def execIpost (a b : BitVec 5) (s : State) : Res :=
  complete4 (do
    let ch := (s.x a).toNat % 16
    modify fun s =>
      let s := s.release .device
      s.mapGang fun g => if s.dev.prompt then g.deliver ch (s.x b) else { g with posts := g.posts ++ [(ch, s.x b)] }) s

/-- IWAIT (R316). -/
def execIwait (d a b : BitVec 5) (s : State) : Res :=
  complete4 (do
    let v := s.gang.ring[(s.x a).toNat % 16]?.getD 0
    if v.ult (s.x b) then
      modify fun s => s.mapGang Gang.deliverNext
      waitHere
    else modify fun s => (s.closeEntries).setX d v) s

/-! ### Tasks -/

/-- The frame of a trap at a task record (R386). -/
def recordFrame (va : Word) : Frame := { kind := 0, acc := 1, size := 8, base := va }

/-- The place of the join word of a task record, whose translation is checked as a store (R117). -/
def joinPlace (va : Word) : M Place := fun s =>
  if va.toNat % 64 ≠ 0 then .error (s, .trap (accessTrap { cause := .misaligned } va 0 .store va (recordFrame va)))
  else
    match s.locate (va.toNat + 8) 8 .store with
    | .error (f, s) => .error (s, .trap (accessTrap f va 0 .store va (recordFrame va)))
    | .ok (pl, s) => .ok (pl, s)

/-- The checks of a task instruction at its record (R117, R65). -/
def joinWord (va : Word) : M Place := do
  awaitRange (va.toNat + 8) 8
  joinPlace va

/-- A store to the join word (R117). -/
def State.storeJoin (s : State) (pl : Place) (v : Nat) (rel : Option Scope) : State :=
  s.perform { s.entry .scalar pl (bytesOf 8 v) with release := rel }

/-- TSPAWN (R117). -/
def execTspawn (d a : BitVec 5) (s : State) : Res :=
  complete4 (do
    let va := s.x a
    let pl ← joinWord va
    needUnwatched (va + 8) 8 .store
    modify fun s =>
      let s := (s.release .core).storeJoin pl 0 none
      if s.core.tasks.length < Config.taskQueueSize then
        ({ s with core := { s.core with tasks := s.core.tasks ++ [(va, s.hart.ident.gang)] } }).setX d 1
      else s.setX d 0) s

/-- TTAKE (R117, R317): with D = 0 it removes nothing. -/
def execTtake (d : BitVec 5) (s : State) : Res :=
  complete4 (do
    modify fun s =>
      let s := s.closeEntries
      if d = 0 then s
      else
        let s := s.markAtom d
        match s.core.tasks.findIdx? fun e => e.2 = s.hart.ident.gang with
        | none => s.setX d 0
        | some j =>
          ({ s with core := { s.core with tasks := s.core.tasks.eraseIdx j } }).setX d ((s.core.tasks[j]?.map Prod.fst).getD 0)) s

/-- TJOIN (R117, R118). Of two entries of one record it removes the oldest, which R117 leaves open (a DESIGN CHOICE). -/
def execTjoin (d a : BitVec 5) (s : State) : Res :=
  complete4 (do
    let va := s.x a
    let pl ← joinWord va
    let s ← get
    match (if d = 0 then none else s.core.tasks.findIdx? fun e => e.1 = va && e.2 = s.hart.ident.gang) with
    | some j =>
      modify fun s =>
        (({ s with core := { s.core with tasks := s.core.tasks.eraseIdx j } }).closeEntries.markAtom d).setX d va
    | none =>
      need (s.viewPoison s.hart.ident.uid .scalar pl.key 8).isNone
        (accessTrap { cause := .poison, info3 := word (physOf pl.key) } va 0 .store va (recordFrame va))
      let v ← scalarValue pl (va + 8) 8 .load
      if v = 0 then waitHere
      else modify fun s => (s.closeEntries.markAtom d).setX d 0) s

/-- TDONE (R117). -/
def execTdone (a : BitVec 5) (s : State) : Res :=
  complete4 (do
    let va := s.x a
    let pl ← joinWord va
    needUnwatched (va + 8) 8 .store
    modify fun s => (s.release .core).storeJoin pl 1 (some .core)) s

end Sys2Proof.Machine
end

