-- ==== Sys2Proof/Machine/Copies.lean ====
section
/-!
DEFINITION. The copy instructions (R195 to R202).
-/

namespace Sys2Proof.Machine

/-- Is the register the pending scalar target of a copy of the hart (R65, R198)? A copy that waits in the VIQ has its target
pending for the instructions behind it. -/
def State.pending (s : State) (r : BitVec 5) : Bool :=
  r != 0 && ((s.core.copies.any fun c => c.owner == s.hart.ident.uid && c.target == .scalar r) ||
    (s.hart.prov.isSome && s.hart.issued.any fun i => i.copyReg == some r))

/-- The target a copy names (R195, R198): a register, or an SRF index inside the gang's window. -/
def copyTarget (tk : BitVec 1) (treg : BitVec 5) : M CopyTarget := fun s =>
  if tk = 0 then .ok (.scalar treg, s)
  else (needIndexIn (s.x treg) 2 >>= fun i => pure (.srf i)) s

/-- A copy whose target register is already pending waits at issue (R198). -/
def awaitTarget (t : CopyTarget) : M Unit := fun s =>
  match t with
  | .scalar r =>
    if s.pending r then waitHere s.engineProgress else .ok ((), s)
  | .srf _ => .ok ((), s)

/-- A copy waits at the head of the VIQ while the engine's queue is full (R198). -/
def awaitEngine : M Unit := fun s => if Config.copyQueueSize ≤ s.core.copies.length then waitHere s.engineProgress else .ok ((), s)

/-- A copy is issued and forked (R198); one of length zero completes at once (R197). -/
def issueThread (dst src : Word) (slack : Nat) (t : CopyTarget) (shape : CopyShape) (zero : Bool) : M Unit := do
  awaitTarget t
  if !zero then awaitEngine
  modify fun s =>
    let c : Copy :=
      { id := s.dev.nextId, owner := s.hart.ident.uid, gang := s.hart.ident.gang, ctx := s.hart.ctx, root := s.hart.root
        priv := s.hart.priv, dst := dst, src := src, shape := shape, target := t, slack := slack
        pc := s.hart.pc, slot := s.hart.ident.slot, convoy := s.hart.counts.convoy.toNat }
    let s := { s with dev := { s.dev with nextId := s.dev.nextId + 1 } }
    let s := if zero then (s.notify c 0 0).endRecord c else { s with core := { s.core with copies := s.core.copies ++ [c] } }
    s.setVstart 0

/-- A copy from X[A] to X[D] is issued. -/
def issueCopy (d a : BitVec 5) (slack : BitVec 4) (t : CopyTarget) (shape : CopyShape) (zero : Bool) : M Unit := do
  let s ← get
  issueThread (s.x d) (s.x a) slack.toNat t shape zero

/-- CPY (R196): X[B] mod 2^48 bytes. -/
def execCpy (d a b : BitVec 5) (slack : BitVec 4) (tk : BitVec 1) (treg : BitVec 5) (s : State) : Res :=
  complete8 (do
    let t ← copyTarget tk treg
    let len := (s.x b).toNat % 2 ^ 48
    issueCopy d a slack t (.whole len) (len = 0)) s

/-- CPYS (R196): X[B] elements by the stride X[xs]. -/
def execCpys (d a b : BitVec 5) (slack : BitVec 4) (tk : BitVec 1) (treg : BitVec 5) (sz : BitVec 3) (xs : BitVec 5)
    (s : State) : Res :=
  complete8 (do
    let t ← copyTarget tk treg
    let cnt := (s.x b).toNat
    issueCopy d a slack t (.strided cnt (2 ^ sz.toNat) (s.x xs).toInt) (cnt = 0)) s

/-- CPYX (R196): at most VLMAX elements by the indices of vi. Of a bound vi whose strip is shorter than the count, the indices
beyond the strip read as zero, which R196 leaves open (a DESIGN CHOICE). -/
def execCpyx (d a b : BitVec 5) (slack : BitVec 4) (tk : BitVec 1) (treg : BitVec 5) (sz : BitVec 3) (vi : BitVec 6)
    (s : State) : Res :=
  complete8 (do
    needIndex (.indexed vi)
    let t ← copyTarget tk treg
    awaitTarget t
    let ti := (s.v vi).tag
    let cnt := min (s.x b).toNat (s.vlmax (tagWidth ti))
    let x ← readSrc vi 0 (if (s.v vi).bound.isSome then s.range ti (tagWidth ti) else cnt)
    needStrip [x]
    let z := 2 ^ sz.toNat
    modify fun s => s.markEscape (x.taint % 2 ^ ((cnt + 15) / 16) != 0)
    issueCopy d a slack t (.indexed z ((List.range cnt).map fun i => z * indexValue ti (x.elem i))) (cnt = 0)
    modify (consumeAll [x])) s

/-- CPYT (R198). -/
def execCpyt (d a : BitVec 5) (s : State) : Res := .next ((s.setX d (if s.pending a then 0 else 1)).advance 8)

/-- COPY_COMPLETE (R197, R199): the copy that the core's engine serves finishes. -/
def execCopyComplete (s : State) : Res :=
  match s.ready with
  | none => .next s
  | some c => .next (s.finishCopy c)

end Sys2Proof.Machine
end

