-- ==== Sys2Proof/Machine/EdgeBody.lean ====
section
/-!
DEFINITION. The instructions of an edge program's body (R284): which forms they are, the registers they name, what each
does on the private copies, and how a body word is read.
-/

namespace Sys2Proof.Machine

/-- The registers that an instruction of a body names (R284): vector registers, predicates read, predicates written. -/
structure BodyForm where
  v : List (BitVec 6)
  reads : List (BitVec 4)
  writes : List (BitVec 4)
  deriving DecidableEq, Repr

/-- The forms a body may hold (R284). -/
def bodyForm : Instr → Option BodyForm
  | .vaddV d a b g => some { v := [d, a, b], reads := [g], writes := [] }
  | .vsubV d a b g => some { v := [d, a, b], reads := [g], writes := [] }
  | .vmulV d a b g => some { v := [d, a, b], reads := [g], writes := [] }
  | .vmulhV d a b g => some { v := [d, a, b], reads := [g], writes := [] }
  | .vminV d a b g => some { v := [d, a, b], reads := [g], writes := [] }
  | .vmaxV d a b g => some { v := [d, a, b], reads := [g], writes := [] }
  | .vdivV d a b g => some { v := [d, a, b], reads := [g], writes := [] }
  | .vremV d a b g => some { v := [d, a, b], reads := [g], writes := [] }
  | .vaddW d a _ g => some { v := [d, a], reads := [g], writes := [] }
  | .vsubW d a _ g => some { v := [d, a], reads := [g], writes := [] }
  | .vmulW d a _ g => some { v := [d, a], reads := [g], writes := [] }
  | .vmulhW d a _ g => some { v := [d, a], reads := [g], writes := [] }
  | .vminW d a _ g => some { v := [d, a], reads := [g], writes := [] }
  | .vmaxW d a _ g => some { v := [d, a], reads := [g], writes := [] }
  | .vdivW d a _ g => some { v := [d, a], reads := [g], writes := [] }
  | .vremW d a _ g => some { v := [d, a], reads := [g], writes := [] }
  | .vandV d a b g => some { v := [d, a, b], reads := [g], writes := [] }
  | .vorV d a b g => some { v := [d, a, b], reads := [g], writes := [] }
  | .vxorV d a b g => some { v := [d, a, b], reads := [g], writes := [] }
  | .vandnV d a b g => some { v := [d, a, b], reads := [g], writes := [] }
  | .vsllV d a b g => some { v := [d, a, b], reads := [g], writes := [] }
  | .vsrlV d a b g => some { v := [d, a, b], reads := [g], writes := [] }
  | .vsraV d a b g => some { v := [d, a, b], reads := [g], writes := [] }
  | .vmulhuV d a b g => some { v := [d, a, b], reads := [g], writes := [] }
  | .vandW d a _ g => some { v := [d, a], reads := [g], writes := [] }
  | .vorW d a _ g => some { v := [d, a], reads := [g], writes := [] }
  | .vxorW d a _ g => some { v := [d, a], reads := [g], writes := [] }
  | .vandnW d a _ g => some { v := [d, a], reads := [g], writes := [] }
  | .vsllW d a _ g => some { v := [d, a], reads := [g], writes := [] }
  | .vsrlW d a _ g => some { v := [d, a], reads := [g], writes := [] }
  | .vsraW d a _ g => some { v := [d, a], reads := [g], writes := [] }
  | .vmulhuW d a _ g => some { v := [d, a], reads := [g], writes := [] }
  | .vfmaV d a b g => some { v := [d, a, b], reads := [g], writes := [] }
  | .vfmsV d a b g => some { v := [d, a, b], reads := [g], writes := [] }
  | .vfnmaV d a b g => some { v := [d, a, b], reads := [g], writes := [] }
  | .vfnmsV d a b g => some { v := [d, a, b], reads := [g], writes := [] }
  | .vfmaW d a _ g => some { v := [d, a], reads := [g], writes := [] }
  | .vfmsW d a _ g => some { v := [d, a], reads := [g], writes := [] }
  | .vfnmaW d a _ g => some { v := [d, a], reads := [g], writes := [] }
  | .vfnmsW d a _ g => some { v := [d, a], reads := [g], writes := [] }
  | .vneg d a g => some { v := [d, a], reads := [g], writes := [] }
  | .vabs d a g => some { v := [d, a], reads := [g], writes := [] }
  | .vsqrt d a g => some { v := [d, a], reads := [g], writes := [] }
  | .vexp2 d a g => some { v := [d, a], reads := [g], writes := [] }
  | .vlog2 d a g => some { v := [d, a], reads := [g], writes := [] }
  | .vrcp d a g => some { v := [d, a], reads := [g], writes := [] }
  | .vnot d a g => some { v := [d, a], reads := [g], writes := [] }
  | .vcmpeqV d a b g => some { v := [a, b], reads := [g], writes := [d] }
  | .vcmpneV d a b g => some { v := [a, b], reads := [g], writes := [d] }
  | .vcmpltV d a b g => some { v := [a, b], reads := [g], writes := [d] }
  | .vcmpleV d a b g => some { v := [a, b], reads := [g], writes := [d] }
  | .vcmpgtV d a b g => some { v := [a, b], reads := [g], writes := [d] }
  | .vcmpgeV d a b g => some { v := [a, b], reads := [g], writes := [d] }
  | .vcmpunV d a b g => some { v := [a, b], reads := [g], writes := [d] }
  | .vcmpeqW d a _ g => some { v := [a], reads := [g], writes := [d] }
  | .vcmpneW d a _ g => some { v := [a], reads := [g], writes := [d] }
  | .vcmpltW d a _ g => some { v := [a], reads := [g], writes := [d] }
  | .vcmpleW d a _ g => some { v := [a], reads := [g], writes := [d] }
  | .vcmpgtW d a _ g => some { v := [a], reads := [g], writes := [d] }
  | .vcmpgeW d a _ g => some { v := [a], reads := [g], writes := [d] }
  | .vcmpunW d a _ g => some { v := [a], reads := [g], writes := [d] }
  | .vmv d a g => some { v := [d, a], reads := [g], writes := [] }
  | .vsel d a b g => some { v := [d, a, b], reads := [g], writes := [] }
  | .vcvt d a _ g => some { v := [d, a], reads := [g], writes := [] }
  | .pand d a b g => some { v := [], reads := [a, b, g], writes := [d] }
  | .por d a b g => some { v := [], reads := [a, b, g], writes := [d] }
  | .pxor d a b g => some { v := [], reads := [a, b, g], writes := [d] }
  | .pandn d a b g => some { v := [], reads := [a, b, g], writes := [d] }
  | .pnot d a g => some { v := [], reads := [a, g], writes := [d] }
  | _ => none

/-- The instruction may stand in a body (R284): v48 to v63, p0, and p8 to p15; p0 is not written. -/
def allowedInBody (i : Instr) : Bool :=
  match bodyForm i with
  | none => false
  | some f => (f.v.all fun r => 48 ≤ r.toNat) && (f.reads.all fun r => r.toNat = 0 || 8 ≤ r.toNat)
      && f.writes.all fun r => 8 ≤ r.toNat

/-- What an instruction of a body does to the private state (R284). -/
def runBodyInstr (i : Instr) (s : State) : Res :=
  match i with
  | .vaddV d a b g => execVaddV d a b g s
  | .vsubV d a b g => execVsubV d a b g s
  | .vmulV d a b g => execVmulV d a b g s
  | .vmulhV d a b g => execVmulhV d a b g s
  | .vminV d a b g => execVminV d a b g s
  | .vmaxV d a b g => execVmaxV d a b g s
  | .vdivV d a b g => execVdivV d a b g s
  | .vremV d a b g => execVremV d a b g s
  | .vaddW d a x g => execVaddW d a x g s
  | .vsubW d a x g => execVsubW d a x g s
  | .vmulW d a x g => execVmulW d a x g s
  | .vmulhW d a x g => execVmulhW d a x g s
  | .vminW d a x g => execVminW d a x g s
  | .vmaxW d a x g => execVmaxW d a x g s
  | .vdivW d a x g => execVdivW d a x g s
  | .vremW d a x g => execVremW d a x g s
  | .vandV d a b g => execVandV d a b g s
  | .vorV d a b g => execVorV d a b g s
  | .vxorV d a b g => execVxorV d a b g s
  | .vandnV d a b g => execVandnV d a b g s
  | .vsllV d a b g => execVsllV d a b g s
  | .vsrlV d a b g => execVsrlV d a b g s
  | .vsraV d a b g => execVsraV d a b g s
  | .vmulhuV d a b g => execVmulhuV d a b g s
  | .vandW d a x g => execVandW d a x g s
  | .vorW d a x g => execVorW d a x g s
  | .vxorW d a x g => execVxorW d a x g s
  | .vandnW d a x g => execVandnW d a x g s
  | .vsllW d a x g => execVsllW d a x g s
  | .vsrlW d a x g => execVsrlW d a x g s
  | .vsraW d a x g => execVsraW d a x g s
  | .vmulhuW d a x g => execVmulhuW d a x g s
  | .vfmaV d a b g => execVfmaV d a b g s
  | .vfmsV d a b g => execVfmsV d a b g s
  | .vfnmaV d a b g => execVfnmaV d a b g s
  | .vfnmsV d a b g => execVfnmsV d a b g s
  | .vfmaW d a x g => execVfmaW d a x g s
  | .vfmsW d a x g => execVfmsW d a x g s
  | .vfnmaW d a x g => execVfnmaW d a x g s
  | .vfnmsW d a x g => execVfnmsW d a x g s
  | .vneg d a g => execVneg d a g s
  | .vabs d a g => execVabs d a g s
  | .vsqrt d a g => execVsqrt d a g s
  | .vexp2 d a g => execVexp2 d a g s
  | .vlog2 d a g => execVlog2 d a g s
  | .vrcp d a g => execVrcp d a g s
  | .vnot d a g => execVnot d a g s
  | .vcmpeqV d a b g => execVcmpeqV d a b g s
  | .vcmpneV d a b g => execVcmpneV d a b g s
  | .vcmpltV d a b g => execVcmpltV d a b g s
  | .vcmpleV d a b g => execVcmpleV d a b g s
  | .vcmpgtV d a b g => execVcmpgtV d a b g s
  | .vcmpgeV d a b g => execVcmpgeV d a b g s
  | .vcmpunV d a b g => execVcmpunV d a b g s
  | .vcmpeqW d a x g => execVcmpeqW d a x g s
  | .vcmpneW d a x g => execVcmpneW d a x g s
  | .vcmpltW d a x g => execVcmpltW d a x g s
  | .vcmpleW d a x g => execVcmpleW d a x g s
  | .vcmpgtW d a x g => execVcmpgtW d a x g s
  | .vcmpgeW d a x g => execVcmpgeW d a x g s
  | .vcmpunW d a x g => execVcmpunW d a x g s
  | .vmv d a g => execVmv d a g s
  | .vsel d a b g => execVsel d a b g s
  | .vcvt d a t g => execVcvt d a t g s
  | .pand d a b g => execPand d a b g s
  | .por d a b g => execPor d a b g s
  | .pxor d a b g => execPxor d a b g s
  | .pandn d a b g => execPandn d a b g s
  | .pnot d a g => execPnot d a g s
  | _ => .next s

/-- The instruction that a body word holds, if its major has forms of R284. -/
def decodeBodyWord (w : Word32) : Option Instr :=
  match (fld 0 7 w).toNat with
  | 0x31 => (decodeMajor31 w).toOption
  | 0x32 => (decodeMajor32 w).toOption
  | 0x33 => (decodeMajor33 w).toOption
  | 0x34 => (decodeMajor34 w).toOption
  | 0x35 => (decodeMajor35 w).toOption
  | 0x36 => (decodeMajor36 w).toOption
  | 0x37 => (decodeMajor37 w).toOption
  | 0x38 => (decodeMajor38 w).toOption
  | 0x39 => (decodeMajor39 w).toOption
  | 0x3a => (decodeMajor3A w).toOption
  | 0x3b => (decodeMajor3B w).toOption
  | _ => none

end Sys2Proof.Machine
end

