-- ==== Sys2Proof/Machine/Edges.lean ====
section
/-!
DEFINITION. Edge programs: EDEF, ERUN, EEND, ESTAT and EFRONT (R275 to R299). An ERUN or EFRONT is a thread of pieces of work,
each done in one go (R289, R296): the agenda lets single pieces take place, and a step of its hart does all that are left.
-/

namespace Sys2Proof.Machine

/-! ### The descriptor -/

/-- The operator of a number (R281, R288). -/
def edgeOpOf : Nat → Option EdgeOp
  | 0 => some .min | 1 => some .max | 2 => some .add | 3 => some .or | 4 => some .first | _ => none

/-- The value tags of an operator (R288). -/
def EdgeOp.allows (op : EdgeOp) (t : Tag) : Bool :=
  let int := t = .i32 || t = .i64 || t = .w32 || t = .w64
  let fl := t = .f32 || t = .f64
  match op with
  | .min | .max => int || fl
  | .add => int || fl || t = .rn24
  | .or => int
  | .first => 1 ≤ tagCode t && tagCode t ≤ 16

/-- The operator gives a result that the order of combines may change (R288). -/
def EdgeOp.inexact (op : EdgeOp) (t : Tag) : Bool := op = .first || (op = .add && tagClass t = .f)

/-- The bytes of a bitmap (R281). -/
def bitmapSize (nv : Nat) : Nat := (nv + 63) / 64 * 8

/-- The binding that a descriptor and a share give, if no field breaks R281, R283 or R288. -/
def edgeBinding (desc : Word) (q : Nat → Nat) (share : Nat) : Option EdgeBinding :=
  let wcode := bits 16 5 (q 12)
  match edgeOpOf (bits 0 3 (q 12)), tagOfCode (bits 8 5 (q 12)), tagOfCode wcode with
  | some op, some vt, some wt =>
    let nv := bits 0 32 (q 0)
    let ne := bits 32 32 (q 0)
    let lo := bits 0 32 share
    let hi := bits 32 32 share
    let alpha := bits 0 16 (q 13)
    let beta := bits 16 16 (q 13)
    let ok := bits 21 43 (q 12) == 0 && bits 13 3 (q 12) == 0 && bits 3 5 (q 12) == 0 && bits 32 32 (q 13) == 0
      && q 14 == 0 && q 15 == 0 && 1 ≤ nv && 1 ≤ ne && op.allows vt && beta < alpha && wcode ≤ 16
      && (q 5 == 0) == (q 6 == 0) && (q 5 == 0) == (wcode == 0)
      && q 1 % 4 == 0 && q 2 % 4 == 0 && q 3 % 4 == 0 && q 4 % 4 == 0
      && q 5 % tagWidth wt == 0 && q 6 % tagWidth wt == 0 && q 7 % tagWidth vt == 0 && q 8 % tagWidth vt == 0
      && q 9 % 8 == 0 && q 10 % 8 == 0 && q 11 % 8 == 0
      && lo ≤ hi && hi ≤ nv && lo % 8 == 0 && (hi % 8 == 0 || hi == nv)
    let b : EdgeBinding :=
      { desc := desc, lo := lo, hi := hi, nv := nv, ne := ne, outptr := q 1, outidx := q 2, inptr := q 3, inidx := q 4
        outw := q 5, inw := q 6, val0 := q 7, val1 := q 8, fr0 := q 9, fr1 := q 10, fin := q 11, wtag := wt, vtag := vt
        op := op, beta := beta, alpha := alpha, shareWord := word share, bodyAt := 0
        body := [], pages := [] }
    if ok then some b else none
  | _, _, _ => none

/-- The arrays of a binding (R281): base, size in bytes, and whether they need W (R287). -/
def EdgeBinding.arrays (b : EdgeBinding) : List (Nat × Nat × Bool) :=
  let weights := if b.outw = 0 then [] else
    [(b.outw, tagWidth b.wtag * b.ne, false), (b.inw, tagWidth b.wtag * b.ne, false)]
  [(b.outptr, 4 * b.nv + 4, false), (b.outidx, 4 * b.ne, false), (b.inptr, 4 * b.nv + 4, false), (b.inidx, 4 * b.ne, false)]
    ++ weights ++
  [(b.val0, tagWidth b.vtag * b.nv, true), (b.val1, tagWidth b.vtag * b.nv, true), (b.fr0, bitmapSize b.nv, true),
   (b.fr1, bitmapSize b.nv, true), (b.fin, bitmapSize b.nv, true)]

/-- The frame of a trap of EDEF (R287). -/
def edefFrame (desc : Word) (acc : Acc) (info3 : Word) : Frame :=
  { kind := 6, acc := acc.code, size := 8, base := desc, info3 := info3 }

/-- The page that maps a 4 KiB page (R88, R90): its first page, its size and its frame. -/
def TlbEntry.edgePage (e : TlbEntry) : EdgePage :=
  { vpn := e.vpn / e.pages * e.pages, span := e.pages, frame := e.frame - e.vpn % e.pages * 4096 }

/-- Check 4 of R287 for the pages `p` to `last`, by at most `k` leaves: each page is pinned once, whatever its size (R92). -/
def pinPages (desc : Word) (acc : Acc) (last : Nat) : Nat → Nat → List EdgePage → M (List EdgePage)
  | 0, _, pages => pure pages
  | k + 1, p, pages => if last < p then pure pages else do
    let s ← get
    let va := 4096 * p
    let fail (f : Failure) : Trap := accessTrap f (word va) 0 acc (word va) (edefFrame desc acc 0)
    if inWindow va then trapNow (fail { cause := .access })
    else
      match s.page va acc with
      | .error f => trapNow (fail f)
      | .ok (e, s') =>
        set s'
        let x := e.edgePage
        match (List.range (min (last + 1) (x.vpn + x.span) - p)).find? fun i =>
            e.cls ≠ .device || !s.dev.plainPage (e.frame / 4096 + i) with
        | some i => trapNow { fail { cause := .access } with val := word (4096 * (p + i)) }
        | none => pinPages desc acc last k (x.vpn + x.span) (if pages.contains x then pages else pages ++ [x])

/-- Check 4 of R287 for every array in the descriptor's order. -/
def pinArrays (desc : Word) : List (Nat × Nat × Bool) → List EdgePage → M (List EdgePage)
  | [], pages => pure pages
  | (base, size, w) :: rest, pages => do
    let first := base / 4096
    let last := (base + size - 1) / 4096
    let pages ← pinPages desc (if w then .store else .load) last (last + 1 - first) first pages
    pinArrays desc rest pages

/-! ### The body -/

/-- The word of EEND (R286): its second word is zero. -/
def eendWord : Word32 := 0x04000075

/-- Check 6 of R287: one body word fetched as step 1 of R31 does. -/
def bodyWord (va : Word) : M Word32 := fun s =>
  match fetchWord s va.toNat with
  | .error (f, s) => .error (s, .trap (accessTrap f va 0 .fetch va (fetchFrame va 4)))
  | .ok (w, s) => .ok (w, s)

/-- Checks 6 and 7 of R287, word by word: at most `k` instructions before EEND. -/
def readBody : Nat → Word → M (List Instr)
  | k, va => do
    let bad : Trap := { cause := .access, val := va, info := .frame (fetchFrame va 4) }
    let w ← bodyWord va
    if w = eendWord then
      let v ← bodyWord (va + 4)
      need (v = 0) bad
      pure []
    else
      match k, decodeBodyWord w with
      | k + 1, some i =>
        need (allowedInBody i) bad
        let rest ← readBody k (va + 4)
        pure (i :: rest)
      | _, _ => trapNow bad

/-- The private registers of a batch of one edge (R284, R285), and the x registers that the body reads (R276). -/
def bodyState (b : EdgeBinding) (x : Vector Word 32) (src wt dst : Nat × Bool) (s : State) : State :=
  let s := { s with hart := { s.hart with x := x } }
  let reg (t : Tag) (x : Nat × Bool) : VReg := { data := x.1, tag := t, taint := x.2.toNat }
  let wtag := if b.wtag = .none then b.vtag else b.wtag
  let s := (List.range 12).foldl (fun s i => s.setV (BitVec.ofNat 6 (48 + i)) {}) s
  let s := (((s.setV 60 (reg b.vtag src)).setV 61 (reg wtag wt)).setV 62 (reg b.vtag dst)).setV 63 (reg b.vtag (0, false))
  let s := (List.range 7).foldl (fun s i => s.setP (BitVec.ofNat 4 (8 + i)) 0) s
  let s := (s.setP 15 (ones s.rb)).setVec { s.hart.vec with vl := 1, vstart := 0 }
  let s := s.setTrap { s.hart.trap with status := { s.hart.trap.status with eip := false } }
  ({ s with pause := none }).setTaint {}

/-- The body run on the private registers; it stops where an instruction traps. -/
def runBody : List Instr → State → State
  | [], s => s
  | i :: is, s =>
    match runBodyInstr i s with
    | .next s' => if s'.hart.trap.status.eip then s' else runBody is s'
    | _ => s

/-- Check 8 of R287: no body instruction traps, and v63 carries VTAG at EEND. -/
def bodyChecks (b : EdgeBinding) : M Unit := do
  let s ← get
  let s' := runBody b.body (bodyState b s.hart.x (0, false) (0, false) (0, false) s)
  if s'.hart.trap.status.eip then trapNow { cause := .tagMismatch, val := s'.hart.trap.tval }
  else need ((s'.v 63).tag = b.vtag) (tagTrap (s'.v 63).tag b.vtag)

/-- A change of the hart's binding. -/
def State.setEdge (s : State) (b : Option EdgeBinding) : State := { s with hart := { s.hart with edge := b } }

/-- ESTAT replaced (R275). -/
def State.setEstat (s : State) (w : Word) : State :=
  { s with hart := { s.hart with engine := { s.hart.engine with estat := w } } }

/-! ### Harts that run one graph -/

/-- The physical address of an array's byte, on its pinned page (R94, R287). -/
def EdgeBinding.phys (b : EdgeBinding) (va : Nat) : Nat :=
  match b.pages.find? fun p => p.vpn ≤ va / 4096 && va / 4096 < p.vpn + p.span with
  | some p => p.frame + (va - p.vpn * 4096)
  | none => va % 4096

/-- The vertices of the share (R283). -/
def EdgeBinding.share (b : EdgeBinding) : List Nat := (List.range (b.hi - b.lo)).map (b.lo + ·)

/-- Two bindings run one graph: their value arrays lie in the same place. -/
def EdgeBinding.sameGraph (a b : EdgeBinding) : Bool := a.phys a.val0 = b.phys b.val0 && a.phys a.val1 = b.phys b.val1

/-- The bindings of other harts of the gang for the graph, each with whether its hart can still run it. -/
def State.graphOthers (s : State) (b : EdgeBinding) : List (EdgeBinding × Bool) :=
  (s.parked.filter fun h => h.ident.gang == s.hart.ident.gang).filterMap fun h =>
    (h.edge.filter b.sameGraph).map fun e => (e, h.status == .running || h.status == .halted)

/-- The traversal that a new binding belongs to: the newest of the graph, if the hart has not run in it and no hart has run more
than one superstep of it, or a new one. The spec names no traversal; it is how the model tells a binding that the harts of a
graph share now from one left over (a DESIGN CHOICE). -/
def State.traversalOf (s : State) (b : EdgeBinding) : Nat × State :=
  let l := (s.graphOthers b).filterMap fun x => if x.2 then some x.1 else none
  let newest := l.foldl (fun n e => max n e.traversal) 0
  let mine (e : EdgeBinding) : Bool := e.traversal == newest && e.runs != 0
  if !l.isEmpty && !s.hart.edge.any mine && l.all fun e => e.traversal != newest || e.runs ≤ 1 then (newest, s)
  else (s.dev.nextId, { s with dev := { s.dev with nextId := s.dev.nextId + 1 } })

/-- The vertices of the share that another hart's share of the superstep holds too: their values are undefined (R283). A hart that
has ended counts if it ran the superstep. -/
def State.edgeShared (s : State) (b : EdgeBinding) : List Nat :=
  let l := (s.graphOthers b).filter fun (e, live) =>
    e.traversal == b.traversal && (e.runs == b.runs + 1 || (live && e.runs == b.runs))
  b.share.filter fun v => l.any fun (e, _) => e.lo ≤ v && v < e.hi

/-- Another hart of the graph has run this superstep in the other direction (R298). -/
def State.edgeCrossed (s : State) (b : EdgeBinding) (dir : Nat) : Bool :=
  (s.graphOthers b).any fun (e, _) => e.traversal == b.traversal && e.runs == b.runs + 1 && e.dir != dir

/-- EDEF (R287). -/
def execEdef (a b : BitVec 5) (off : BitVec 32) (s : State) : Res :=
  complete8 (do
    let desc := s.x a
    let fr := edefFrame desc .load 0
    need (desc.toNat % 128 = 0) { cause := .misaligned, val := desc, info := .frame fr }
    let (l, t) ← readWords desc.toNat fr 0 16
    let refuse (info3 : Word) : Trap := { cause := .access, val := desc, info := .frame (edefFrame desc .load info3) }
    match edgeBinding desc (fun i => l.getD i 0) (s.x b).toNat with
    | none => trapNow (refuse 0)
    | some e =>
      let pages ← pinArrays desc e.arrays []
      need (pages.length ≤ 2048) (refuse (word pages.length))
      let body ← readBody 63 (wordTarget s.hart.pc off)
      let edges := (s.hart.edge.map (·.edges)).getD 0
      let e := { e with bodyAt := wordTarget s.hart.pc off, body := body, pages := pages, edges := edges }
      bodyChecks e
      modify fun s =>
        let (n, s) := s.traversalOf e
        ((((s.markRead t).markEscape t).setEdge (some { e with traversal := n })).setEstat 0).setVstart 0) s

/-! ### Array accesses -/

/-- The trap of an array access that meets an uncorrectable error (R299). -/
def edgeTrap (va n pa : Nat) (acc : Acc) : Trap :=
  { cause := .poison, val := word va
    info := .frame { kind := 6, acc := acc.code, size := n, base := word va, info3 := word pa } }

/-- The number of the thread that makes the accesses (R330). -/
def State.edgeThread (s : State) : Nat := (s.hart.edgeRun.map EdgeRun.thread).getD s.dev.nextId

/-- `n` bytes of an array as an engine reads them (R296, R323), and their taint. -/
def edgeRead (b : EdgeBinding) (va n : Nat) : M (Nat × Bool) := fun s =>
  let k := deviceKey (b.phys va)
  let u := s.hart.ident.uid
  let r : Reader := .engine s.edgeThread
  match s.viewPoison u r k n with
  | some _ => .error (s, .trap (edgeTrap va n (b.phys va) .load))
  | none => .ok ((s.view u r k n, s.viewTainted u r k n), s)

/-- `n` bytes of an array as they stand at their coherence point, in an access of a kind (R289), and their taint. -/
def edgeLook (b : EdgeBinding) (va n : Nat) (acc : Acc) : M (Nat × Bool) := fun s =>
  let k := deviceKey (b.phys va)
  let s := s.drainRange k n
  match s.dev.poisoned k n with
  | some _ => .error (s, .trap (edgeTrap va n (b.phys va) acc))
  | none => .ok ((s.dev.read k n, s.dev.rangeTainted k n), s)

/-- `n` bytes of an array written at their coherence point (R289, R293). -/
def edgeWrite (b : EdgeBinding) (va n v : Nat) (tainted : Bool) : M Unit :=
  modify fun s =>
    let k := deviceKey (b.phys va)
    ((s.drainRange k n).apply s.hart.ident.uid k (bytesOf n v) { tainted := tainted }).markSeen tainted

/-- Bit `v` of a bitmap as an engine reads it, and its taint. -/
def edgeBit (b : EdgeBinding) (base v : Nat) : M (Bool × Bool) := do
  let (x, t) ← edgeRead b (base + v / 8) 1
  pure (x.testBit (v % 8), t)

/-- Bit `v` of a bitmap at its coherence point, and its taint. -/
def edgeBitNow (b : EdgeBinding) (base v : Nat) : M (Bool × Bool) := do
  let (x, t) ← edgeLook b (base + v / 8) 1 .load
  pure (x.testBit (v % 8), t)

/-- Bit `v` of a bitmap set. -/
def edgeSetBit (b : EdgeBinding) (base v : Nat) (tainted : Bool) : M Unit := do
  let (x, _) ← edgeLook b (base + v / 8) 1 .store
  edgeWrite b (base + v / 8) 1 (setBit x (v % 8) true) tainted

/-- The pieces that clear the share's bits of a bitmap, byte by byte (R277, R294). -/
def EdgeBinding.clearing (b : EdgeBinding) : List EdgeTask :=
  ((List.range ((b.hi + 7) / 8)).filter fun i => b.lo / 8 ≤ i).map fun i =>
    .clear i (if 8 * i + 8 ≤ b.hi then 0xFF else ones (b.hi % 8))

/-- The entries of a vertex's edge list (R282), none past NE, and whether a tainted block gave them. -/
def edgeSpan (b : EdgeBinding) (ptr v : Nat) : M (List Nat × Bool) := do
  let (p, t) ← edgeRead b (ptr + 4 * v) 4
  let (q, t') ← edgeRead b (ptr + 4 * v + 4) 4
  pure ((List.range (min q b.ne - p)).map (p + ·), t || t')

/-- The value array and the bitmap of a phase (R275). -/
def EdgeBinding.valOf (b : EdgeBinding) (phase : Bool) : Nat := if phase then b.val1 else b.val0
def EdgeBinding.frOf (b : EdgeBinding) (phase : Bool) : Nat := if phase then b.fr1 else b.fr0

/-- The width of a value. -/
def EdgeBinding.w (b : EdgeBinding) : Nat := tagWidth b.vtag

/-! ### Combines -/

/-- Op(old, c) of R288. -/
def EdgeBinding.apply (b : EdgeBinding) (old c : Nat) : Nat :=
  match b.op with
  | .min => CombineOp.min.apply b.vtag old c
  | .max => CombineOp.max.apply b.vtag old c
  | .add => CombineOp.add.apply b.vtag old c
  | .or => CombineOp.or.apply b.vtag old c
  | .first => c

/-- The operator finishes a vertex at this value: the early stop (R288, R289). -/
def EdgeBinding.finishes (b : EdgeBinding) (new : Nat) : Bool :=
  b.op = .first || (b.op = .or && new = ones (8 * b.w))

/-- A tainted value has gone into the counts (R339). -/
def Tally.escaped (t : Tally) (tainted : Bool) : Tally := { t with escape := t.escape || tainted }

/-- One combine of a candidate at a vertex (R289), with the taint of R293: the new value unless the vertex is finished. A bit that
a tainted value decides is tainted (R337); `decided` says that one decided that there is a candidate. -/
def edgeCombine (b : EdgeBinding) (phase push : Bool) (d : Nat) (c : Nat × Bool) (decided : Bool) (t : Tally) :
    M (Option Nat × Tally) := do
  let (finished, tn) ← edgeBitNow b b.fin d
  let t := t.escaped tn
  if finished then pure (none, t)
  else
    let at' := b.valOf (!phase) + b.w * d
    let nxtF := b.frOf (!phase)
    let (old, told) ← edgeLook b at' b.w .store
    let new := b.apply old c.1
    let inexact := push && b.op.inexact b.vtag
    edgeWrite b at' b.w new (c.2 || inexact)
    modify fun s => if inexact then s.setTaint { s.hart.taint with combine := true } else s
    let always := b.op = .add || b.op = .first
    let (was, tn) ← if always || new != old then edgeBitNow b nxtF d else pure (true, false)
    let valued := decided || (!always && (c.2 || told))
    let t := t.escaped (c.2 || tn || valued)
    let t ← if was then pure t else do
      edgeSetBit b nxtF d valued
      let (deg, tn) ← edgeSpan b b.outptr d
      pure ({ t with count := t.count + 1, dsum := t.dsum + deg.length }.escaped tn)
    if b.finishes new then edgeSetBit b b.fin d (decided || (b.op = .or && (c.2 || told)))
    pure (some new, t)

/-- The body run for one edge (R285): its candidate, if bit 0 of p15 is left, whether a tainted value reached the predicates that
decide it, and the marks. -/
def edgeCandidate (b : EdgeBinding) (x : Vector Word 32) (src wt dst : Nat × Bool) (t : Tally) :
    M (Option (Nat × Bool) × Bool × Tally) := do
  let s ← get
  let s0 := bodyState b x src wt dst s
  let s' := runBody b.body (s0.setVType t.marks)
  let v := s'.v 63
  let decided := s'.hart.taint.escape
  let t := { t with edges := t.edges + 1, marks := s'.hart.vec.vtype }.escaped decided
  pure (if (s'.p 15 1).testBit 0 then some (item (8 * b.w) v.data 0, v.taint.testBit 0) else none, decided, t)

/-- The weight of an edge (R285): zero bits when there are none. -/
def edgeWeight (b : EdgeBinding) (base e : Nat) : M (Nat × Bool) :=
  if base = 0 then pure (0, false) else edgeRead b (base + tagWidth b.wtag * e) (tagWidth b.wtag)

/-! ### Pieces of work -/

/-- One out-edge of a source (R290): the combine of its candidate, which is a piece of its own. -/
def edgeOut (b : EdgeBinding) (r : EdgeRun) (e : Nat) (src : Nat × Bool) (t : Tally) : M (List EdgeTask × Tally) := do
  let (d, td) ← edgeRead b (b.outidx + 4 * e) 4
  let t := t.escaped td
  if b.nv ≤ d then pure ([], t)
  else
    let wt ← edgeWeight b b.outw e
    let (c, decided, t) ← edgeCandidate b r.x src wt (0, false) t
    pure ((c.map fun c => EdgeTask.combine d c decided).toList, t)

/-- The next in-edge of a destination in stored order (R290): the piece that goes on with the others, unless the early stop
holds. -/
def edgeIn (b : EdgeBinding) (r : EdgeRun) (d : Nat) (dst : Nat × Bool) (t : Tally) : List Nat → M (List EdgeTask × Tally)
  | [] => pure ([], t)
  | e :: es => do
    let more := [EdgeTask.inEdges d dst es]
    let (u, tu) ← edgeRead b (b.inidx + 4 * e) 4
    let t := t.escaped tu
    if b.nv ≤ u then pure (more, t)
    else
      let (set?, tb) ← edgeBit b (b.frOf r.phase) u
      let t := t.escaped tb
      if !set? then pure (more, t)
      else
        let src ← edgeRead b (b.valOf r.phase + b.w * u) b.w
        let wt ← edgeWeight b b.inw e
        let (c, decided, t) ← edgeCandidate b r.x src wt dst t
        match c with
        | none => pure (more, t)
        | some c =>
          let (new, t) ← edgeCombine b r.phase false d c decided t
          pure (if new.any b.finishes then [] else more, t)

/-- One piece of work (R277, R290, R294): the pieces that it leaves, and the counts. -/
def edgePiece (b : EdgeBinding) (r : EdgeRun) (t : Tally) : EdgeTask → M (List EdgeTask × Tally)
  | .carry v => do
    if (← edgeBit b (b.frOf r.phase) v).1 then
      let (x, tx) ← edgeRead b (b.valOf r.phase + b.w * v) b.w
      edgeWrite b (b.valOf (!r.phase) + b.w * v) b.w x tx
    pure ([], t)
  | .clear byte mask => do
    let (x, _) ← edgeLook b (b.frOf (!r.phase) + byte) 1 .store
    edgeWrite b (b.frOf (!r.phase) + byte) 1 (x &&& (mask ^^^ 0xFF)) false
    pure ([], t)
  | .source u => do
    let (set?, tb) ← edgeBit b (b.frOf r.phase) u
    let t := t.escaped tb
    if set? then
      let src ← edgeRead b (b.valOf r.phase + b.w * u) b.w
      let (es, ts) ← edgeSpan b b.outptr u
      pure (es.map fun e => .outEdge e src, t.escaped ts)
    else pure ([], t)
  | .outEdge e src => edgeOut b r e src t
  | .combine d c decided => do pure ([], (← edgeCombine b r.phase true d c decided t).2)
  | .target d => do
    let (finished, tf) ← edgeBit b b.fin d
    let t := t.escaped tf
    if finished then pure ([], t)
    else
      let dst ← edgeRead b (b.valOf r.phase + b.w * d) b.w
      let (es, ts) ← edgeSpan b b.inptr d
      pure ([.inEdges d dst es], t.escaped ts)
  | .inEdges d dst es => edgeIn b r d dst t es
  | .measure v => do
    let (set?, tb) ← edgeBit b (b.frOf r.phase) v
    let t := t.escaped tb
    if set? then
      let (deg, ts) ← edgeSpan b b.outptr v
      pure ([], { t with count := t.count + 1, dsum := t.dsum + deg.length }.escaped ts)
    else pure ([], t)
  | .prepare v => do
    let (x, tx) ← if b.op = .add then pure (0, false) else edgeRead b (b.valOf r.phase + b.w * v) b.w
    edgeWrite b (b.valOf (!r.phase) + b.w * v) b.w x tx
    pure ([], t)

/-- The stages that have a piece left. -/
def stagesLeft (l : List (List EdgeTask)) : List (List EdgeTask) := l.dropWhile List.isEmpty

/-- The piece at a place of the stage at which the hart's ERUN or EFRONT stands is done; at a place that has none, nothing. -/
def edgeDo (b : EdgeBinding) (k : Nat) : M Unit := do
  match (← get).hart.edgeRun with
  | none => pure ()
  | some r =>
    match stagesLeft r.stages with
    | [] => pure ()
    | stage :: rest =>
      match stage[k]? with
      | none => pure ()
      | some p =>
        let (new, t) ← edgePiece b r r.tally p
        let r := { r with tally := t, stages := (stage.take k ++ new ++ stage.drop (k + 1)) :: rest }
        modify fun s => { s with hart := { s.hart with edgeRun := some r } }

/-- The piece belongs to a push (R290). -/
def EdgeTask.pushes : EdgeTask → Bool
  | .source _ => true
  | .outEdge _ _ => true
  | .combine _ _ _ => true
  | _ => false

/-- The place of the piece that a step of the hart does next: under an inexact operator the candidates of a push arrive in a free
order (R290), under DETM.ARB in the order of their age (R335). -/
def edgeNext (b : EdgeBinding) : M Nat := fun s =>
  let stage := (s.hart.edgeRun.bind fun r => (stagesLeft r.stages).head?).getD []
  let n := stage.length
  if n ≤ 1 || !b.op.inexact b.vtag || s.hart.detm.arb || !stage.any EdgeTask.pushes then .ok (0, s)
  else
    let (k, s) := s.free n
    .ok (k, s)

/-- Every piece that is left is done, at most `fuel` of them. -/
def edgeFinish (b : EdgeBinding) : Nat → M Unit
  | 0 => pure ()
  | fuel + 1 => do
    if (← get).hart.edgeRun.any fun r => !(stagesLeft r.stages).isEmpty then
      edgeDo b (← edgeNext b)
      edgeFinish b fuel

/-- How many pieces an ERUN or EFRONT of the binding can have: of each vertex of the share four, and of each edge that it names
two. -/
def EdgeBinding.mostPieces (b : EdgeBinding) : Nat := (b.hi - b.lo + 1) * (4 + 2 * b.ne)

/-- The thread of an ERUN or EFRONT is forked (R296), unless it runs already; the agenda may let it stop there. The body reads the
x registers as the instructions behind it have left them (R276). -/
def edgeFork (run : EdgeRun) : M Unit := do
  let s ← get
  if s.hart.edgeRun.isNone then
    let r := { run with thread := s.dev.nextId, x := (s.hart.ahead.map fun a => a.now.x).getD s.hart.x }
    set { s with hart := { s.hart with edgeRun := some r } }
    if s.pause.isSome then waitHere

/-! ### Undefined values -/

/-- Values that are undefined take free values (R7). -/
def edgeSpoil (b : EdgeBinding) (phase : Bool) (l : List Nat) : M Unit :=
  l.forM fun v => do
    let c := (← get).dev.freeCount
    modify fun s => { s with dev := { s.dev with freeCount := c + 1 } }
    edgeWrite b (b.valOf (!phase) + b.w * v) b.w (Config.free c % 2 ^ (8 * b.w)) false

/-- Bit `v` of a bitmap, as the model finds the vertices a superstep has written. -/
def EdgeBinding.bitOf (b : EdgeBinding) (s : State) (base v : Nat) : Bool :=
  (s.dev.read (deviceKey (b.phys (base + v / 8))) 1).testBit (v % 8)

/-- What an ERUN leaves undefined: the shared vertices (R283), and, in a superstep of two directions, every value the
superstep writes: those of the next frontier, and those the prologue of FIRST carried over (R298). -/
def edgeRunSpoil (b : EdgeBinding) (phase : Bool) (dir : Nat) : M Unit := do
  let s ← get
  let written (v : Nat) : Bool :=
    b.bitOf s (b.frOf (!phase)) v || (b.op = .first && b.bitOf s (b.frOf phase) v)
  let crossed := if s.edgeCrossed b dir then (List.range b.nv).filter written else []
  edgeSpoil b phase (s.edgeShared b ++ crossed)

/-! ### ERUN, EFRONT, ESTAT, EEND -/

/-- The hart's binding, or the trap of a hart without one (R290, R294). -/
def needEdge : M EdgeBinding := do
  match (← get).hart.edge with
  | some b => pure b
  | none => trapNow { cause := .access, val := 0, info := .frame (edefFrame 0 .load 0) }

/-- The direction of an ERUN (R290): 0 push, 1 pull. -/
def EdgeBinding.direction (b : EdgeBinding) (pull : Bool) (g kept : Nat) : Nat :=
  if pull && b.op.inexact b.vtag then 1
  else if b.alpha * b.ne < g then 1
  else if g < b.beta * b.ne then 0
  else kept

/-- ESTAT after an ERUN (R275, R290). -/
def estatWord (dir : Nat) (phase : Bool) (step dens count : Nat) : Word :=
  word (dir + phase.toNat * 2 + step * 2 ^ 8 + dens * 2 ^ 16 + count % 2 ^ 32 * 2 ^ 32)

/-- The two counts of an ERUN or EFRONT as X[D] holds them. -/
def edgeCounts (count dsum : Nat) : Word := word (dsum * 2 ^ 32 + count)

/-- The work of an ERUN (R277, R290): the prologue of FIRST, then the share in the direction it takes. -/
def EdgeBinding.erunStages (b : EdgeBinding) (dir : Nat) : List (List EdgeTask) :=
  (if b.op = .first then [b.share.map EdgeTask.carry, b.clearing] else []) ++
    [b.share.map fun v => if dir = 0 then .source v else .target v]

/-- ERUN (R290). -/
def execErun (d b : BitVec 5) (s : State) : Res :=
  complete8 (do
    let e ← needEdge
    let est := s.hart.engine.estat.toNat
    let g := (s.x b).toNat * 2 ^ 16
    let dir := e.direction s.hart.detm.pull g (est % 2)
    let phase := bit 1 est
    modify State.landAll
    edgeFork { thread := 0, g := g, phase := phase, dir := dir, x := s.hart.x, tally := { marks := s.hart.vec.vtype }
               stages := e.erunStages dir }
    edgeFinish e e.mostPieces
    edgeRunSpoil e phase dir
    modify fun s =>
      let t := (s.hart.edgeRun.map EdgeRun.tally).getD { marks := s.hart.vec.vtype }
      let vt := s.hart.vec.vtype
      let s := s.setVType { vt with flags := t.marks.flags, satf := t.marks.satf, rninv := t.marks.rninv }
      let step := min (bits 8 8 est + 1) 255
      let s := (s.markEscape t.escape).setEstat (estatWord dir (!phase) step (min (g / e.ne) 0xFFFF) t.count)
      let e := { e with edges := t.edges, runs := e.runs + 1, dir := dir }
      ((s.setEdge (some e)).setX d (edgeCounts t.count t.dsum)).setVstart 0 |>.countEvent 12 t.edges) s

/-- The work of an EFRONT (R294). -/
def EdgeBinding.efrontStages (b : EdgeBinding) : List (List EdgeTask) :=
  [b.share.map EdgeTask.measure] ++ (if b.op = .first then [] else [b.share.map EdgeTask.prepare ++ b.clearing])

/-- EFRONT (R294). -/
def execEfront (d : BitVec 5) (s : State) : Res :=
  complete8 (do
    let e ← needEdge
    let phase := bit 1 s.hart.engine.estat.toNat
    modify State.landAll
    edgeFork { thread := 0, phase := phase, x := s.hart.x, tally := { marks := s.hart.vec.vtype }, stages := e.efrontStages }
    edgeFinish e e.mostPieces
    if e.op ≠ .first then edgeSpoil e phase ((← get).edgeShared e)
    modify fun s =>
      let t := (s.hart.edgeRun.map EdgeRun.tally).getD { marks := s.hart.vec.vtype }
      ((s.markEscape t.escape).setX d (edgeCounts t.count t.dsum)).setVstart 0) s

/-- The ERUN or EFRONT that the hart is in does one piece of its work (R289, R290, R294), under DETM.ARB the oldest (R335). -/
def State.edgeTurn (s : State) (k : Nat) : Res :=
  match s.hart.edgeRun, s.hart.edge with
  | some _, some e =>
    if s.hart.status = .running then complete (edgeDo e (if s.hart.detm.arb then 0 else k)) id s else .next s
  | _, _ => .next s

/-- The thread of an ERUN or EFRONT of the hart is run to its end (R359). -/
def State.finishEdge (s : State) : State :=
  match s.hart.edge with
  | none => s
  | some e =>
    match edgeFinish e e.mostPieces s with
    | .ok (_, s) => s
    | .error (s, _) => s

/-- ESTAT (R295). -/
def execEstat (d b : BitVec 5) (s : State) : Res :=
  complete8 (modify fun s =>
    let v : Word := match (s.x b).toNat, s.hart.edge with
      | 0, _ => s.hart.engine.estat
      | 1, some e => word e.edges
      | 2, some e => word (e.lo + e.hi * 2 ^ 32)
      | 3, some e => e.desc
      | _, _ => 0
    (s.setX d v).setVstart 0) s

/-- EEND outside an ERUN (R286): it retires as nop does. -/
def execEend (s : State) : Res := .next (s.advance 8)

end Sys2Proof.Machine
end

