-- ==== Sys2Proof/Machine/Matrix.lean ====
section
/-!
DEFINITION. The matrix instructions: tiles, the weight buffer, and the accumulation of R136 (R206 to R217, R388).
-/

namespace Sys2Proof.Machine

/-! ### Tiles -/

/-- The MATRIX trap (R80). -/
def matrixTrap : Trap := { cause := .matrix }

/-- The shape fits one block (R206). -/
def Matrix.small (m : Matrix) : Bool := m.m ≤ m.mvl && m.n ≤ m.mvl

/-- The block that holds cell (i, j) of the logical tile named `t` (R206). -/
def Matrix.blockOf (m : Matrix) (t i j : Nat) : Nat :=
  if m.small then t else (if m.mvl ≤ i then 2 else 0) + (if m.mvl ≤ j then 1 else 0)

/-- The blocks of the logical tile named `t` (R206). -/
def Matrix.blocks (m : Matrix) (t : Nat) : List Nat :=
  if m.small then [t]
  else [0] ++ (if m.mvl < m.n then [1] else []) ++ (if m.mvl < m.m then [2] else [])
    ++ (if m.mvl < m.n && m.mvl < m.m then [3] else [])

/-- The tile of a number. -/
def Matrix.tile (m : Matrix) (b : Nat) : Tile := (m.tiles[b]?).getD {}

/-- The number of cell (i, j) in its block. -/
def Matrix.cellIndex (m : Matrix) (i j : Nat) : Nat := i % m.mvl * m.mvl + j % m.mvl

/-- Cell (i, j) of the logical tile. -/
def Matrix.cell (m : Matrix) (t i j : Nat) : Nat := item 32 (m.tile (m.blockOf t i j)).data (m.cellIndex i j)

/-- A block replaced. -/
def Matrix.setTile (m : Matrix) (b : Nat) (x : Tile) : Matrix := { m with tiles := m.tiles.setIfInBounds b x }

/-- Cell (i, j) replaced. -/
def Matrix.setCell (m : Matrix) (t i j v : Nat) : Matrix :=
  let b := m.blockOf t i j
  let x := m.tile b
  m.setTile b { x with data := setItem 32 x.data (m.cellIndex i j) v }

/-- The tag of every block of the logical tile replaced. -/
def Matrix.setTags (m : Matrix) (t : Nat) (tag : Tag) : Matrix :=
  (m.blocks t).foldl (fun m b => m.setTile b { m.tile b with tag := tag }) m

/-- The scale register of a block (R206). -/
def scaleReg (b : Nat) : BitVec 6 := BitVec.ofNat 6 (56 + b)

/-- Orders 1 and 2 of R388, and the same checks of R207: matrix mode, and the naming of R206. -/
def needTile (t : BitVec 2) : M Matrix := do
  let m := (← get).hart.mat
  need (m.mvl != 0) matrixTrap
  need (m.small || t = 0) matrixTrap
  pure m

/-- Is the tile tainted (R206)? Bit 0 of a block's scale register. -/
def State.tileTaint (s : State) (blocks : List Nat) : Bool := blocks.any fun b => (s.v (scaleReg b)).taint.testBit 0

/-- The tile becomes tainted (R206). -/
def State.taintTile (s : State) (blocks : List Nat) (on : Bool) : State :=
  if on then
    (blocks.foldl (fun s b => let v := s.v (scaleReg b); s.setV (scaleReg b) { v with taint := setBit v.taint 0 true }) s).markSeen
      true
  else s

/-- A bound scale register of the blocks traps STREAM (R208, R213): the lowest one. -/
def needScalesUnbound : List Nat → M Unit
  | [] => pure ()
  | b :: t => do
    needUnbound (scaleReg b)
    needScalesUnbound t

/-! ### MZERO -/

/-- 1.0 as F32. -/
def oneF32 : Nat := 0x3F800000

/-- MZERO (R208). -/
def execMzero (t : BitVec 2) (s : State) : Res :=
  complete4 (do
    let m ← needTile t
    let bs := m.blocks t.toNat
    needScalesUnbound bs
    modify fun s =>
      let s := s.setMat (bs.foldl (fun m b => m.setTile b {}) m)
      let s := bs.foldl (fun s b =>
        let v := s.v (scaleReg b)
        s.setV (scaleReg b) { v with
          data := (List.range (2 * m.mvl)).foldl (fun d i => setItem 32 d i oneF32) v.data, tag := .f32, taint := 0 }) s
      s.setVstart 0) s

/-! ### MMAC and MMACW -/

/-- The accumulator tag of an operand tag, if the tag is one of R209's. -/
def accTag : Tag → Option Tag
  | .f8e4 | .f8e5 | .bf16 | .f16 | .f32 => some .f32
  | .i8 | .hb => some .i32
  | .rn12 => some .rn12
  | .rn24 => some .rn24
  | _ => none

/-- q, the step size (R209). -/
def stepSize : Tag → Nat
  | .f8e4 | .f8e5 => 2
  | .rn12 => 4
  | .hb => 64
  | _ => 1

/-- The sum of two exact values in the array, or none where it is a NaN. -/
def addFv (a b : Option Fv) : Option Fv := a.bind fun a => b.bind fun b => if a.isNan || b.isNan then none else a.add .rne b

/-- The product of two operands in the array, or none where it is a NaN. -/
def mulFv (f : Fmt) (a b : Nat) : Option Fv :=
  let x := f.decode a
  let y := f.decode b
  if x.isNan || y.isNan then none else x.mul y

/-- The F32 cell after the products of one step are summed exactly and added with one rounding (R136). -/
def accF8 (f : Fmt) (c : Nat) (ps : List (Nat × Nat)) : Nat :=
  match ps.map fun p => mulFv f p.1 p.2 with
  | [] => c
  | p :: t =>
    match addFv (t.foldl addFv p) (some (fmtF32.decode c)) with
    | none => fmtF32.nan
    | some v => (fmtF32.roundFv .rne false v).1

/-- The F32 cell after one product is fused into it (R136). -/
def accFused (f : Fmt) (c : Nat) (p : Nat × Nat) : Nat :=
  (fpFma fmtF32 .rne false false false (f.decode p.1) (f.decode p.2) (fmtF32.decode c)).1

/-- The cell after the products of one step (R136): `ps` are the pairs of operand elements in ascending k. -/
def accStep (t : Tag) (c : Nat) (ps : List (Nat × Nat)) : Nat :=
  match t with
  | .f8e4 | .f8e5 => accF8 (fmtOf t) c ps
  | .rn12 | .rn24 => ps.foldl (fun c p => (rnOp t (· + ·) c (rnOp t (· * ·) p.1 p.2).1).1) c
  | .i8 => wrap 32 (ps.foldl (fun z p => z + signed 8 p.1 * signed 8 p.2) (c : Int))
  | .hb => wrap 32 (ps.foldl (fun z p => z + (32 - 2 * (popCount 32 (p.1 ^^^ p.2) : Int))) (c : Int))
  | _ => ps.foldl (accFused (fmtOf t)) c

/-- The operands of a MMAC or MMACW once read: the shape, A and B by element, the step of an element. -/
structure Mac where
  t : Nat
  tag : Tag
  m : Nat
  n : Nat
  k : Nat
  rows : Nat
  a : Nat → Nat
  b : Nat → Nat

/-- The pairs of operand elements of step s for cell (i, j) (R209); for HB a pair is 32 components. -/
def Mac.pairs (x : Mac) (s i j : Nat) : List (Nat × Nat) :=
  let unit := if x.tag = .hb then 32 else 1
  let q := stepSize x.tag / unit
  let total := x.k / unit
  (List.range (min q (total - q * s))).map fun u =>
    let k := q * s + u
    (x.a (k * x.m + i), x.b (k * x.n + j))

/-- Does step `s` read a non-canonical residue (R131)? -/
def Mac.invalid (x : Mac) (s : Nat) : Bool :=
  tagClass x.tag = .rn && (List.range x.m).any fun i => x.rows.testBit i && (List.range x.n).any fun j =>
    (x.pairs s i j).any fun p => rnInvalid x.tag p.1 || rnInvalid x.tag p.2

/-- One K step over every cell (R209). -/
def Mac.step (x : Mac) (mat : Matrix) (s : Nat) : Matrix :=
  (List.range x.m).foldl (fun mat i =>
    if x.rows.testBit i then
      (List.range x.n).foldl (fun mat j => mat.setCell x.t i j (accStep x.tag (mat.cell x.t i j) (x.pairs s i j))) mat
    else mat) mat

/-- Steps `s` to `s + k - 1` (R209). -/
def Mac.run (x : Mac) : Nat → Nat → Matrix → Matrix
  | 0, _, mat => mat
  | k + 1, s, mat => x.run k (s + 1) (x.step mat s)

/-- The number of elements of an operand with `dim` rows or columns (R209). -/
def operandSize (t : Tag) (dim k : Nat) : Nat := if t = .hb then dim * k / 32 else dim * k

/-- The step that first uses an element of an operand (R192, R209). -/
def stepOf (t : Tag) (dim i : Nat) : Nat :=
  if t = .hb then i / dim * 32 / 64 else i / dim / stepSize t

/-- Does the failure `x` decide before the failure `y` (R192): at a lower step, in one step a data fetch before a scale's,
of one kind at the lower address? -/
def failsFirst (x y : Nat × Bool × Trap) : Bool :=
  x.1 < y.1 || (x.1 = y.1 && ((y.2.1 && !x.2.1) || (x.2.1 = y.2.1 && x.2.2.val.ult y.2.2.val)))

/-- The one of two failures that decides. -/
def lowerFailure (a b : Option (Nat × Bool × Trap)) : Option (Nat × Bool × Trap) :=
  match a, b with
  | none, f => f
  | f, none => f
  | some x, some y => if failsFirst y x then some y else some x

/-- The failure of a bound operand's strip that the steps from `start` on meet first (R192). -/
def macFailure (t : Tag) (b : Binding) (vl dim count start : Nat) :
    Option (Nat × Bool × Trap) :=
  let at' (x : StreamElem) : Nat := x.e - b.consumed
  let fs := b.buffer.filter fun x => b.consumed ≤ x.e && at' x < count && start ≤ stepOf t dim (at' x)
  (fs.filterMap fun x => x.failure.map fun f =>
    (stepOf t dim (at' x), x.onScale, fetchTrap f 0 (stripFrame b vl x.onScale 0))).foldl
      (fun o x => lowerFailure o (some x)) none

/-- An operand of MMAC or MMACW: its strip of VL elements when it is bound, else its elements below `count`. -/
def readOperand (r : BitVec 6) (t : Tag) (dim count start : Nat) : M (Src × Option (Nat × Bool × Trap)) := do
  let s ← get
  match (s.v r).bound.bind s.stream with
  | none =>
    let x ← readSrc r 0 count
    pure (x, none)
  | some _ =>
    let x ← readSrcOf (some s.hart.vec.vl) r 0 s.hart.vec.vl
    let b := ((← get).v r).bound.bind (← get).stream
    pure (x, b.bind fun b => macFailure t b s.hart.vec.vl dim count start)

/-- Order 9 of R388: a bound operand in the scale mode it loads has GROUP equal to its dimension. -/
def needGroup (r : BitVec 6) (mode dim : Nat) : M (Option Binding) := do
  let s ← get
  match (s.v r).bound.bind s.stream with
  | none => pure none
  | some b =>
    if b.smode = mode then
      need (b.group = dim) (streamTrap r)
      pure (some b)
    else pure none

/-- The GROUP scales an operand loads (R190), fetched before the first step of the run (R192). -/
def fetchScales (b : Binding) (start : Nat) : Nat → Nat → M (List (Nat × Bool))
  | 0, _ => pure []
  | k + 1, j => do
    let va := wrap 64 (b.sbase.toInt + 4 * (b.strips * b.group + j : Nat))
    let s ← get
    match streamRead s (s.streamViewer b) va 4 with
    | .error f => trapNow (fetchTrap f start
        { kind := 6, acc := 0, size := 4, stride := 4, remain := b.group, base := b.sbase + word (4 * b.strips * b.group) })
    | .ok (v, t, s') =>
      set s'
      let rest ← fetchScales b start k (j + 1)
      pure ((v, t) :: rest)

/-- The scales of one dimension go into the scale registers of the blocks that hold it (R190, R206, R213). A scale register
that is itself bound to a stream is written too, without a trap: R190 and R388 name none (a DESIGN CHOICE). -/
def State.putScales (s : State) (t : Nat) (rows : Bool) (xs : List (Nat × Bool)) : State :=
  let m := s.hart.mat
  let put (s : State) (b e : Nat) (x : Nat × Bool) : State :=
    let v := s.v (scaleReg b)
    s.setV (scaleReg b) { v with data := setItem 32 v.data e x.1
                                 taint := if x.2 then setBit v.taint (e / 16) true else v.taint }
  (xs.zipIdx.foldl (fun s (x, i) =>
    ((m.blocks t).filter fun b => m.small || (if rows then b / 2 == i / m.mvl else b % 2 == i / m.mvl)).foldl
      (fun s b => put s b ((if rows then 0 else m.mvl) + i % m.mvl) x) s) s).markSeen (xs.any fun x => x.2)

/-- The slot of an operand moves to its next scale group (R190). -/
def State.nextScales (s : State) (r : BitVec 6) : State :=
  match (s.v r).bound with
  | none => s
  | some k =>
    match s.stream k with
    | none => s
    | some b => s.setStream k (some { b with strips := b.strips + 1 })

/-- The run of a MMAC or MMACW whose checks have passed (R209, R210). -/
def macRun (x : Mac) (acc : Tag) (fail : Option (Nat × Bool × Trap)) (tainted : Bool) : M Unit := fun s =>
  let start := s.hart.vec.vstart
  let total := (x.k + stepSize x.tag - 1) / stepSize x.tag
  let pause := s.pause.bind fun p => if start < p && p < total then some p else none
  let failAt := if start < total then fail else none
  let stop := min (pause.getD total) ((failAt.map (·.1)).getD total)
  let mat := x.run (stop - start) start s.hart.mat
  let mat := if start < stop then mat.setTags x.t acc else mat
  let invalid := (List.range (stop - start)).any fun i => x.invalid (start + i)
  let s := (((s.setMat mat).taintTile (mat.blocks x.t) (tainted && start < stop)).raise { rninv := invalid }).markEscape
    (tainted && invalid)
  let s := s.countEvent 9 (stop - start)
  match failAt with
  | some (f, _, t) => if f = stop then .error (s, .trap { t with elem := f }) else stopInside stop s
  | none => if stop < total then stopInside stop s else .ok ((), s.setMat (s.hart.mat.setTags x.t acc))

/-- The checks of orders 3 and 4 of R388 for the operands' tags; `second` is the tag TVAL reports beside the first (R138,
R387). -/
def needOperandTag (ta tb second : Tag) : M Tag := do
  need (ta != .none && tb != .none && ta = tb) (tagTrap ta second)
  match accTag ta with
  | some acc => pure acc
  | none => trapNow (tagTrap ta second)

/-- Order 5 of R388: the lowest block with another tag. -/
def needAccumulator (m : Matrix) (t : Nat) (ta acc : Tag) : M Unit :=
  match (m.blocks t).find? fun b => (m.tile b).tag != .none && (m.tile b).tag != acc with
  | some b => trapNow (tagTrap ta (m.tile b).tag)
  | none => pure ()

/-- MMAC (R209, R388). -/
def execMmac (t : BitVec 2) (a b : BitVec 6) (g : BitVec 4) (s : State) : Res :=
  complete4 (do
    let m ← needTile t
    let ta := (s.v a).tag
    let acc ← needOperandTag ta (s.v b).tag (s.v b).tag
    needAccumulator m t.toNat ta acc
    let na := operandSize ta m.m m.k
    let nb := operandSize ta m.n m.k
    need (na ≤ s.hart.vec.vl && nb ≤ s.hart.vec.vl && (ta != .hb || m.k % 32 = 0)) matrixTrap
    let ga ← needGroup a 2 m.m
    let gb ← needGroup b 3 m.n
    let start := s.hart.vec.vstart
    let sa ← match ga with | some x => fetchScales x start x.group 0 | none => pure []
    let sb ← match gb with | some x => fetchScales x start x.group 0 | none => pure []
    let (xa, fa) ← readOperand a ta m.m na start
    let (xb, fb) ← readOperand b ta m.n nb start
    let x : Mac := { t := t.toNat, tag := ta, m := m.m, n := m.n, k := m.k, rows := s.p g m.m, a := xa.elem, b := xb.elem }
    let tainted := xa.taint % 2 ^ ((na + 15) / 16) != 0 || xb.taint % 2 ^ ((nb + 15) / 16) != 0
    macRun x acc (lowerFailure fa fb) tainted
    modify fun s =>
      let s := if ga.isSome then (s.putScales t.toNat true sa).nextScales a else s
      let s := if gb.isSome then (s.putScales t.toNat false sb).nextScales b else s
      (consumeAll [xa, xb] s).setVstart 0) s

/-- FMT as a tag (R207, R388). -/
def weightTag (f : Nat) : Tag := match f with | 0 => .f8e4 | 1 => .f8e5 | _ => .rn12

/-- MMACW (R209, R217, R388). -/
def execMmacw (t : BitVec 2) (a : BitVec 6) (g : BitVec 4) (s : State) : Res :=
  complete4 (do
    let m ← needTile t
    let ta := (s.v a).tag
    let acc ← needOperandTag ta ta .none
    needAccumulator m t.toNat ta acc
    let na := operandSize ta m.m m.k
    need (na ≤ s.hart.vec.vl && (ta != .hb || m.k % 32 = 0)) matrixTrap
    match m.wbuf with
    | none => trapNow matrixTrap
    | some w =>
      need (w.n = m.n && m.k ≤ w.rows.length) matrixTrap
      need (ta = w.fmt) (tagTrap ta w.fmt)
      let ga ← needGroup a 2 m.m
      let start := s.hart.vec.vstart
      let sa ← match ga with | some x => fetchScales x start x.group 0 | none => pure []
      let (xa, fa) ← readOperand a ta m.m na start
      let x : Mac := { t := t.toNat, tag := ta, m := m.m, n := m.n, k := m.k, rows := s.p g m.m, a := xa.elem
                       b := fun e => (w.rows.getD (e / m.n) []).getD (e % m.n) 0 }
      macRun x acc fa (xa.taint % 2 ^ ((na + 15) / 16) != 0)
      modify fun s =>
        let s := if ga.isSome then (s.putScales t.toNat true sa).nextScales a else s
        (consume xa s).setVstart 0) s

/-! ### MCVT -/

/-- The exact value of a cell, and whether a residue was non-canonical (R211). -/
def cellValue (t : Tag) (c : Nat) : Fv × Bool :=
  match t with
  | .f32 => (fmtF32.decode c, false)
  | .i32 => let z := signed 32 c; (.fin (decide (z < 0)) z.natAbs 0, false)
  | _ => let (z, nc) := rnValue t c; (.fin (decide (z < 0)) z.natAbs 0, nc)

/-- c · rs · cs rounded once into the target (R211). -/
def cvtCell (dst : Tag) (c rs cs : Fv) : Nat × Flags :=
  let zeroInf := (c.isZero || rs.isZero || cs.isZero) && [c, rs, cs].any fun x => match x with | .inf _ => true | _ => false
  let nan := c.isNan || rs.isNan || cs.isNan || zeroInf
  if dst = .i32 then
    if nan then (2 ^ 31 - 1, flagNV)
    else match (c.mul rs).bind fun p => p.mul cs with
      | none => (2 ^ 31 - 1, flagNV)
      | some v => let (z, f) := fpConvInt .rne (-(2 ^ 31 : Nat)) ((2 ^ 31 : Nat) - 1) v; (wrap 32 z, f)
  else
    let f := fmtOf dst
    if nan then f.nanResult (zeroInf || c.isSnan || rs.isSnan || cs.isSnan)
    else match (c.mul rs).bind fun p => p.mul cs with
      | none => f.nanResult true
      | some v => f.roundFv .rne false v

/-- Row scale i and column scale j of the block that holds them (R206). Of a scale register that is bound to a stream they are what
the register itself holds, and no strip is consumed: neither R190 nor R211 says what such a register gives (a DESIGN CHOICE). -/
def State.scaleOf (s : State) (t i j : Nat) : Nat × Nat :=
  let m := s.hart.mat
  let d := (s.v (scaleReg (m.blockOf t i j))).data
  (item 32 d (i % m.mvl), item 32 d (m.mvl + j % m.mvl))

/-- MCVT reads a tainted cell or scale of the tile (R206, R337). -/
def State.cvtTainted (s : State) (blocks : List Nat) : Bool :=
  let m := s.hart.mat
  let used := groupsOf (ones (min m.m m.mvl) + ones (min m.n m.mvl) * 2 ^ m.mvl) (2 * m.mvl)
  s.tileTaint blocks || blocks.any fun b => (s.v (scaleReg b)).taint &&& used != 0

/-- MCVT (R211). -/
def execMcvt (t : BitVec 2) (c : BitVec 5) (s : State) : Res :=
  complete4 (do
    let m ← needTile t
    let bs := m.blocks t.toNat
    match bs.find? fun b => let x := (m.tile b).tag; x != .f32 && x != .i32 && x != .rn12 && x != .rn24 with
    | some b => trapNow (tagTrap (m.tile b).tag .none)
    | none => pure ()
    match bs.find? fun b => (s.v (scaleReg b)).tag != .f32 with
    | some b => trapNow (tagTrap (s.v (scaleReg b)).tag .f32)
    | none => pure ()
    modify fun s =>
      let dst := tagField c
      let clear := bs.foldl (fun m b => m.setTile b { data := 0, tag := dst }) m
      let (out, r) := (List.range m.m).foldl (fun acc i => (List.range m.n).foldl (fun (acc : Matrix × Raised) j =>
          let (v, nc) := cellValue (m.tile (m.blockOf t.toNat i j)).tag (m.cell t.toNat i j)
          let (rs, cs) := s.scaleOf t.toNat i j
          let (k, f) := cvtCell dst v (fmtF32.decode rs) (fmtF32.decode cs)
          (acc.1.setCell t.toNat i j k, acc.2.or { flags := f, rninv := nc })) acc) (clear, ({} : Raised))
      let tainted := s.cvtTainted bs
      ((((s.setMat out).taintTile bs tainted).raise r).markEscape (tainted && r != {})).setVstart 0) s

/-! ### Rows and scales -/

/-- MRDROW (R212). The blocks of a large shape may carry different tags: "the tile's tag" is then that of block a0 (a DESIGN
CHOICE). -/
def execMrdrow (d : BitVec 6) (t : BitVec 2) (x : BitVec 5) (s : State) : Res :=
  complete4 (do
    let m ← needTile t
    let tag := (m.tile t.toNat).tag
    need (tag != .none) (tagTrap .none .none)
    needUnbound d
    let row := (s.x x).toNat
    need (row < m.m) matrixTrap
    let w := tagWidth tag
    need (m.n ≤ s.vlmax w) matrixTrap
    modify fun s =>
      let v := s.v d
      let (data, r) := elems (8 * w) (ones m.n) (fun j => canonElem tag (m.cell t.toNat row j)) m.n 0 (v.data, {})
      let data := if s.hart.vec.vtype.tail then zeroTail (8 * w) data m.n (s.vlmax w) else data
      let taint := s.tileTaint (m.blocks t.toNat) && m.n != 0
      ((((s.raise r).markSeen taint).markEscape (taint && r != {})).setV d { v with
        data := data, tag := tag
        taint := taintAfter v.taint (if taint then ones 4096 else 0) (ones m.n) m.n }).setVstart 0) s

/-- MWRROW (R212). -/
def execMwrrow (t : BitVec 2) (a : BitVec 6) (x : BitVec 5) (s : State) : Res :=
  complete4 (do
    let m ← needTile t
    let ta := (s.v a).tag
    need (ta = .f32 || ta = .i32 || ta = .rn12 || ta = .rn24) (tagTrap ta .none)
    needAccumulator m t.toNat ta ta
    let row := (s.x x).toNat
    need (row < m.m) matrixTrap
    need (m.n ≤ s.vlmax (tagWidth ta)) matrixTrap
    let n := if (s.v a).bound.isSome then s.range ta (tagWidth ta) else m.n
    let xa ← readSrc a 0 n
    needStrip [xa]
    modify fun s =>
      let mat := (List.range m.n).foldl (fun mat j => mat.setCell t.toNat row j (canonElem ta (xa.elem j)).1) m
      let r : Raised := { rninv := (List.range m.n).any fun j => rnInvalid ta (xa.elem j) }
      let tainted := xa.taint % 2 ^ ((m.n + 15) / 16) != 0
      let s := (((s.setMat (mat.setTags t.toNat ta)).raise r).taintTile (m.blocks t.toNat) tainted).markEscape
        (tainted && r != {})
      (consume xa s).setVstart 0) s

/-- A source of MSCL: `n` elements tagged F32. -/
def readScales (r : BitVec 6) (n : Nat) : M (Src × List (Nat × Bool)) := do
  let s ← get
  let k := if (s.v r).bound.isSome then s.range .f32 4 else n
  let x ← readSrc r 0 k
  needStrip [x]
  let tn := x.taint % 2 ^ ((n + 15) / 16) != 0
  pure (x, (List.range n).map fun i => (x.elem i, tn))

/-- MSCL (R213). -/
def execMscl (t : BitVec 2) (a b : BitVec 6) (s : State) : Res :=
  complete4 (do
    let m ← needTile t
    let ta := (s.v a).tag
    let tb := (s.v b).tag
    need (ta = tb && ta = .f32) (tagTrap ta tb)
    let bs := m.blocks t.toNat
    needScalesUnbound bs
    let (xa, rs) ← readScales a m.m
    let (xb, cs) ← readScales b m.n
    modify fun s =>
      let s := (s.putScales t.toNat true rs).putScales t.toNat false cs
      let s := bs.foldl (fun s r => s.setV (scaleReg r) { s.v (scaleReg r) with tag := .f32 }) s
      (consumeAll [xa, xb] s).setVstart 0) s

/-! ### The weight buffer -/

/-- Bytes of the wpal form of V values of `w` bytes (R215). -/
def wpalBytes (v w : Nat) : Nat :=
  v / 256 * (16 * w + 128) + (if v % 256 = 0 then 0 else 16 * w + (v % 256 + 1) / 2)

/-- Bytes of `rows` rows of an encoding (R215). -/
def weightBytes (enc w n rows : Nat) : Nat :=
  match enc with
  | 0 => rows * n * w
  | 1 => rows * (n * w / 2 + n / 8)
  | 2 => wpalBytes (rows * n) w
  | _ => rows * (n / 8) + wpalBytes (rows * n / 2) w

/-- The number of rows that have exactly `len` bytes, if there is one (R216); the largest of several. -/
def rowsFrom (enc w n len : Nat) : Nat → Option Nat
  | 0 => if weightBytes enc w n 0 = len then some 0 else none
  | r + 1 => if weightBytes enc w n (r + 1) = len then some (r + 1) else rowsFrom enc w n len r

/-- The rows of a load of `len` bytes (R216). -/
def rowsOf (enc w n len : Nat) : Option Nat :=
  if enc = 0 || enc = 1 then
    let one := weightBytes enc w n 1
    if one != 0 && len % one = 0 then some (len / one) else none
  else rowsFrom enc w n len (8 * len / n)

/-- Value `i` of `w` bytes in a byte list from `off` on. -/
def weightAt (d : List Nat) (w off i : Nat) : Nat :=
  let k := off + w * i
  if w = 1 then d.getD k 0 else d.getD k 0 + 256 * d.getD (k + 1) 0

/-- Nibble `i` from `off` on, the low half first (R215). -/
def nibbleAt (d : List Nat) (off i : Nat) : Nat := d.getD (off + i / 2) 0 / 16 ^ (i % 2) % 16

/-- Value `i` of a wpal form (R215). -/
def wpalAt (d : List Nat) (w off i : Nat) : Nat :=
  let b := off + i / 256 * (16 * w + 128)
  weightAt d w b (nibbleAt d (b + 16 * w) (i % 256))

/-- Element j of a row of pairs with positions (R215): the stored value whose position it is, else zero. -/
def sparsePick (nib : Nat) (v0 v1 j : Nat) : Nat :=
  if nib % 4 = j % 4 then v0 else if nib / 4 = j % 4 then v1 else 0

/-- Element (k, j) of the decoded rows (R215). -/
def weightElem (enc w n rows : Nat) (d : List Nat) (k j : Nat) : Nat :=
  match enc with
  | 0 => weightAt d w 0 (k * n + j)
  | 1 =>
    let off := k * (n * w / 2 + n / 8)
    sparsePick (nibbleAt d (off + n * w / 2) (j / 4)) (weightAt d w off (j / 4 * 2)) (weightAt d w off (j / 4 * 2 + 1)) j
  | 2 => wpalAt d w 0 (k * n + j)
  | _ =>
    let v := rows * (n / 8)
    sparsePick (nibbleAt d (k * (n / 8)) (j / 4)) (wpalAt d w v (k * (n / 2) + j / 4 * 2))
      (wpalAt d w v (k * (n / 2) + j / 4 * 2 + 1)) j

/-- Does no nibble break R215: the two positions of a nibble differ. -/
def nibblesOk (enc w n rows : Nat) (d : List Nat) : Bool :=
  let ok (nib : Nat) : Bool := nib % 4 != nib / 4
  match enc with
  | 1 => (List.range rows).all fun k => (List.range (n / 4)).all fun g =>
      ok (nibbleAt d (k * (n * w / 2 + n / 8) + n * w / 2) g)
  | 3 => (List.range rows).all fun k => (List.range (n / 4)).all fun g => ok (nibbleAt d (k * (n / 8)) g)
  | _ => true

/-- The capacity of the hart's weight buffer (R214). -/
def State.weightCapacity (s : State) : Nat :=
  let n := (s.gang.shape.filter fun h => h.mmode && h.lcore == s.hart.ident.lcore).length
  2 * 1024 * 1024 / (if n = 0 then 1 else n)

/-- The frame of a fault of MWLD (R216). -/
def weightFrame (va : Word) (len : Nat) : Frame := { kind := 6, acc := 0, size := 1, base := va, stride := 1, remain := len }

/-- The pages of `n` bytes are pinned in ascending order (R92): `fuel` pages at most. -/
def pinBytes (fr : Frame) : Nat → Nat → Nat → M Unit
  | 0, _, _ => pure ()
  | fuel + 1, va, n => do
    if n = 0 then pure ()
    else
      let c := min n (4096 - va % 4096)
      let s ← get
      match s.locate va c .load with
      | .error (f, s') => endNow' s' (accessTrap f (word va) 0 .load (word va) fr)
      | .ok (_, s') =>
        set s'
        pinBytes fr fuel ((va + c) % 2 ^ 64) (n - c)
where
  /-- The trap in the state that the failed access has left. -/
  endNow' (s : State) (t : Trap) : M Unit := fun _ => .error (s, .trap t)

/-- The bytes of pinned pages, one after another, and whether one was tainted. -/
def loadBytes (fr : Frame) : Nat → Nat → M (List Nat × Bool)
  | 0, _ => pure ([], false)
  | k + 1, va => do
    let (v, t) ← readAt (va % 2 ^ 64) 1 fr 0
    let (vs, t') ← loadBytes fr k (va + 1)
    pure (v :: vs, t || t')

/-- Any trap of a computation leaves the weight buffer unloaded (R216). -/
def unloadOnTrap {α : Type} (m : M α) : M α := fun s =>
  match m s with
  | .error (s', .trap t) => .error (s'.setMat { s'.hart.mat with wbuf := none }, .trap t)
  | r => r

/-- MWLD (R215, R216). -/
def execMwld (e f : BitVec 2) (a b : BitVec 5) (s : State) : Res :=
  complete4 (do
    let m := s.hart.mat
    need (m.mvl != 0) matrixTrap
    let va := s.x a
    let len := (s.x b).toNat
    let fmt := weightTag f.toNat
    let w := tagWidth fmt
    need (m.n != 0 && len ≤ s.weightCapacity) matrixTrap
    need ((e.toNat % 2 = 0) || m.n % 8 = 0) matrixTrap
    match rowsOf e.toNat w m.n len with
    | none => trapNow matrixTrap
    | some rows =>
      let fr := weightFrame va len
      unloadOnTrap (pinBytes fr (len / 4096 + 2) va.toNat len)
      let (d, tn) ← unloadOnTrap (loadBytes fr len va.toNat)
      need (nibblesOk e.toNat w m.n rows d) matrixTrap
      let cell (k j : Nat) : Nat := weightElem e.toNat w m.n rows d k j
      let buf : WeightBuffer :=
        { enc := e.toNat, fmt := fmt, n := m.n, rows := (List.range rows).map fun k => (List.range m.n).map (cell k) }
      modify fun s => (((s.markRead tn).markEscape tn).setMat
        { s.hart.mat with wbuf := some buf, waddr := va, wlen := s.x b }).setVstart 0) s

end Sys2Proof.Machine
end

