-- ==== Sys2Proof/Machine/Context.lean ====
section
/-!
DEFINITION. The context save area: its layout, its writing at a PREEMPT trap and its restoring by TRET (R95, R96, R202).
-/

namespace Sys2Proof.Machine

/-! ### The image of a hart -/

/-- Numbers of `n` bits each, item 0 lowest. -/
def packItems (n : Nat) (l : List Nat) : Nat := (l.zipIdx).foldl (fun d (v, i) => d + v % 2 ^ n * 2 ^ (n * i)) 0

/-- The doublewords at 0x0140 (R96). -/
def contextSlots (h : Hart) : List Nat :=
  [h.pc.toNat, privCode h.priv, h.vec.vstart, h.vec.vl, h.vec.vtype.pack, h.vec.lslip, h.vec.hdim, h.mat.lpart, h.mat.shape,
   h.taint.pack, h.fcsr.pack, h.loops.lb0.toNat, h.loops.le0.toNat, h.loops.lc0.toNat, h.loops.lb1.toNat,
   h.loops.le1.toNat, h.loops.lc1.toNat, h.loops.lact.toNat, h.engine.hmargin.toNat]
  ++ h.engine.hfidx.toList.map BitVec.toNat
  ++ [h.engine.hfstat.toNat, h.engine.vsstat.toNat, h.engine.estat.toNat, h.trap.cause.toNat, h.trap.tpc.toNat,
   h.trap.tval.toNat, h.trap.tstart, h.trap.tinfo0.toNat, h.trap.tinfo1.toNat, h.trap.tinfo2.toNat, h.trap.tinfo3.toNat,
   h.trap.tvec.toNat, h.trap.tvtype.toNat, h.trap.status.pack, h.counts.instret.toNat]

/-- The image of a binding slot (R186). -/
def slotImage : Option Binding → Nat
  | none => 0
  | some b => packItems 64
      [b.base.toNat, b.stride.toNat, b.length, tagCode b.mtag + tagCode b.ttag * 2 ^ 8 + b.smode * 2 ^ 16, b.sbase.toNat,
       b.group, b.sbuf + b.strips % 2 ^ 32 * 2 ^ 32, b.depth + b.consumed % 2 ^ 32 * 2 ^ 32]

/-- FMT of R207 as a number. -/
def fmtCode : Tag → Nat
  | .f8e4 => 0 | .f8e5 => 1 | _ => 2

/-- The image of the weight buffer (R214): ADDR and LEN stand whether it is loaded or not. A buffer of more than 65,535 rows has its
row count modulo 2^16 there, which R214 leaves open (a DESIGN CHOICE). -/
def weightImage (m : Matrix) : Nat :=
  packItems 64 [m.waddr.toNat, m.wlen.toNat, match m.wbuf with
    | none => 0
    | some w => w.enc + fmtCode w.fmt * 2 ^ 2 + 2 ^ 4 + w.n % 2 ^ 16 * 2 ^ 16 + w.rows.length % 2 ^ 16 * 2 ^ 32]

/-- The image of a sparse vector register: pairs of 16 bytes, zero at and above YLEN (R96). -/
def pairsImage (y : YReg) : Nat := packItems 128 (y.pairs.map fun p => p.1 % 2 ^ 64 + p.2 % 2 ^ 64 * 2 ^ 64)

/-- The size of the save area in bytes (R96). -/
def contextSize (rb mvl : Nat) : Nat := 0x81000 + 67 * rb + 16 * mvl * mvl

/-- The contents of the save area: each piece's offset, its bytes, its number (R96). -/
def contextImage (h : Hart) (rb : Nat) : List (Nat × Nat × Nat) :=
  let mvl := h.mat.mvl
  let bound := h.streams.toList.any Option.isSome
  [ (0, 64, packItems 64 [1 + (if mvl = 0 then 0 else 2 ^ 16) + (if bound then 2 ^ 17 else 0) + contextSize rb mvl / 64 * 2 ^ 32,
      rb, mvl]),
    (0x40, 256, packItems 64 (h.x.toList.map BitVec.toNat) / 2 ^ 64 * 2 ^ 64),
    (0x140, 304, packItems 64 (contextSlots h)),
    (0x270, 8, packItems 8 (h.mat.tiles.toList.map fun t => tagCode t.tag)),
    (0x278, 8, packItems 1 (h.streams.toList.map fun b => (b.any Binding.streamEnd).toNat)),
    (0x280, 8, h.counts.epoch.toNat),
    (0x288, 8, h.counts.convoy.toNat),
    (0x290, 8, h.counts.ucount.toNat),
    (0x298, 360, 0),
    (0x400, 512, packItems 64 (h.v.toList.map fun v =>
      tagCode v.tag + (match v.bound with | some k => 2 ^ 5 + k % 8 * 2 ^ 6 | none => 0))),
    (0x600, 64, packItems 64 (h.y.toList.map fun y => y.pairs.length + tagCode y.tag * 2 ^ 16)),
    (0x640, 512, packItems 512 (h.streams.toList.map slotImage)),
    (0x840, 64, weightImage h.mat),
    (0x880, 1920, 0),
    (0x1000, 64 * rb, packItems (8 * rb) (h.v.toList.map VReg.data)),
    (0x1000 + 64 * rb, 2 * rb, packItems rb (ones rb :: (h.p.toList.drop 1))),
    (0x1000 + 66 * rb, rb / 2, packItems (rb / 16) (h.v.toList.map fun v => ones (rb / 16) ^^^ (v.absent % 2 ^ (rb / 16)))),
    (0x1000 + 66 * rb + rb / 2, rb / 2, packItems (rb / 16) (h.v.toList.map VReg.taint)),
    (0x1000 + 67 * rb, 0x80000, packItems 0x80000 (h.y.toList.map pairsImage)) ]
  ++ (if mvl = 0 then [] else
    [(0x81000 + 67 * rb, 16 * mvl * mvl, packItems (32 * mvl * mvl) (h.mat.tiles.toList.map Tile.data))])

/-- A number of `n` bytes written from a key on, in pieces that stay inside 64-byte blocks. -/
def Dev.writeNumber (d : Dev) (key n v : Nat) : Dev :=
  let first := min n (64 - key % 64)
  let d := d.write key (bytesOf first v) {}
  (List.range ((n - first + 63) / 64)).foldl (fun d i =>
    let off := first + 64 * i
    d.write (key + off) (bytesOf (min 64 (n - off)) (v / 2 ^ (8 * off))) {}) d

/-- The save area written at a physical address (R95, R96). -/
def Dev.writeContext (d : Dev) (area : Nat) (h : Hart) (rb : Nat) : Dev :=
  (contextImage h rb).foldl (fun d (off, n, v) => d.writeNumber (deviceKey (area + off)) n v) d

/-! ### Saving -/

/-- The copies of a hart with a scalar target are stopped at its save (R202): each target takes the cancelled status. -/
def State.cancelCopies (s : State) : State :=
  let mine (c : Copy) : Bool := c.owner == s.hart.ident.uid && (match c.target with | .scalar _ => true | .srf _ => false)
  let (own, rest) := s.core.copies.partition mine
  own.foldl (fun s c =>
    let (s, bytes) := c.stop s
    (s.notify c 0x7F bytes).endRecord c) { s with core := { s.core with copies := rest } }

/-- What a hart leaves its core with (R95, R202, R329): its accesses are performed at device scope, and its copies with scalar
targets are cancelled. -/
def State.leaveCore (s : State) : State := ((s.applyOwnCombines.performAt .device fun _ => true).closeEntries).cancelCopies

/-- The hart's context is saved at the position (pc, elem) (R95, R202, R329), and the area is written. The PREEMPT request that is being taken is no
longer pending in it. -/
def State.saveContext (s : State) (area : Nat) (elem : Nat) : State :=
  let s := s.leaveCore.setVstart elem
  let img := { s.hart with trap := { s.hart.trap with status := { s.hart.trap.status with ppend := false } } }
  { s with dev := s.dev.writeContext area img s.rb }

/-! ### Restoring -/

/-- A VTYPE of free values, for a word that no VTYPE has packed (R84, R96). -/
def freeVType (c : Nat) : VType :=
  { etag := (tagOfCode (Config.free c % 19)).getD .none
    rm := (rmOfCode (Config.free (c + 1) % 5)).getD .rne
    fz := (fzOfCode (Config.free (c + 2) % 3)).getD .keep
    sat := bit 0 (Config.free (c + 3)), tail := bit 1 (Config.free (c + 3)), rninv := bit 2 (Config.free (c + 3))
    satf := bit 3 (Config.free (c + 3)), flags := BitVec.ofNat 5 (Config.free (c + 4)) }

/-- The binding of a slot's image (R186), whose thread is forked afresh as number `fork` (R194). The image holds no RB and no
privilege of the VBIND: they are those of the image's hart (a DESIGN CHOICE). -/
def slotOf (k : Nat) (reg : Nat) (streamEnd : Bool) (fork rb : Nat) (priv : Priv) : Binding :=
  let q (i : Nat) : Nat := bits (64 * i) 64 k
  { bindingOf q reg with
    strips := bits 32 32 (q 6), consumed := bits 32 32 (q 7), streamEnd := streamEnd, fork := fork, rb := rb, priv := priv }

/-- TSTATUS as an image holds it: every field. -/
def statusOf (k : Nat) : TStatus :=
  { (TStatus.write {} k) with tpend := bit 8 k, ppend := bit 9 k, hpend := bit 10 k }

/-- The hart with every field of an image loaded (R96), reserved bits as zero (R4). `m` reads `n` bytes at an offset; `c`
numbers the free values, `fork` the stream threads. -/
def Hart.loadImage (h : Hart) (m : Nat → Nat → Nat) (c fork : Nat) : Hart :=
  let rb := m 8 8
  let mvl := m 0x10 8 % 512
  let slot (i : Nat) : Nat := m (0x140 + 8 * i) 8
  let w (i : Nat) : Word := word (slot i)
  let vinfo (i : Nat) : Nat := m (0x400 + 8 * i) 8
  let boundTo (i : Nat) : Option Nat := if bit 5 (vinfo i) then some (bits 6 3 (vinfo i)) else none
  let regOf (k : Nat) : Option Nat := (List.range 64).find? fun i => boundTo i == some k
  let yinfo (i : Nat) : Nat := m (0x600 + 8 * i) 8
  { h with
    x := (Vector.range 32).map fun i => if i = 0 then 0 else word (m (0x40 + 8 * i) 8)
    pc := wordAligned (w 0)
    priv := privOfBit (bit 0 (slot 1))
    vec := { vstart := slot 2 % 2 ^ 16, vl := slot 3 % 2 ^ 17, vtype := (VType.unpack (slot 4)).getD (freeVType c)
             lslip := slot 5 % 16, hdim := slot 6 % 2 ^ 17 }
    taint := TaintBits.unpack (slot 9)
    fcsr := (Fcsr.unpack (slot 10)).getD { rm := (rmOfCode (Config.free (c + 5) % 5)).getD .rne, flags := BitVec.ofNat 5 (slot 10) }
    loops := { lb0 := wordAligned (w 11), le0 := wordAligned (w 12), lc0 := w 13, lb1 := wordAligned (w 14)
               le1 := wordAligned (w 15), lc1 := w 16, lact := BitVec.ofNat 2 (slot 17) }
    engine := { hmargin := lowBits 48 (w 18), hfidx := (Vector.range 4).map fun i => lowBits 12 (w (19 + i))
                hfstat := lowBits 20 (w 23), vsstat := lowBits 2 (w 24), estat := w 25 &&& ~~~0xFC#64 }
    trap := { cause := BitVec.ofNat 8 (slot 26), tpc := wordAligned (w 27), tval := w 28, tstart := slot 29 % 2 ^ 16
              tinfo0 := w 30, tinfo1 := w 31, tinfo2 := w 32 &&& ~~~0xFFFF#64, tinfo3 := w 33, tvec := wordAligned (w 34)
              tvtype := w 35, status := { statusOf (slot 36) with ctxv := false } }
    counts := { h.counts with instret := w 37, epoch := word (m 0x280 8), convoy := word (m 0x288 8), ucount := word (m 0x290 8) }
    mat := { h.mat with
      mvl := mvl, lpart := slot 7 % 4, m := bits 0 16 (slot 8), n := bits 16 16 (slot 8), k := bits 32 16 (slot 8), wbuf := none
      waddr := word (m 0x840 8), wlen := word (m 0x848 8)
      tiles := (Vector.range 4).map fun i =>
        { data := if mvl = 0 then 0 else m (0x81000 + 67 * rb + 4 * mvl * mvl * i) (4 * mvl * mvl)
          tag := (tagOfCode (bits (8 * i) 5 (m 0x270 8))).getD .none } }
    v := (Vector.range 64).map fun i =>
      { data := m (0x1000 + rb * i) rb, tag := (tagOfCode (bits 0 5 (vinfo i))).getD .none, bound := boundTo i
        absent := ones (rb / 16) ^^^ m (0x1000 + 66 * rb + rb / 128 * i) (rb / 128)
        taint := m (0x1000 + 66 * rb + rb / 2 + rb / 128 * i) (rb / 128) }
    p := (Vector.range 16).map fun i => m (0x1000 + 64 * rb + rb / 8 * i) (rb / 8)
    streams := (Vector.range 8).map fun k =>
      (regOf k).map fun r => slotOf (m (0x640 + 64 * k) 64) r (bit k (m 0x278 8)) fork rb (privOfBit (bit 0 (slot 1)))
    y := (Vector.range 8).map fun i =>
      { tag := (tagOfCode (bits 16 5 (yinfo i))).getD .none
        pairs := (List.range (bits 0 13 (yinfo i))).map fun j =>
          (m (0x1000 + 67 * rb + 0x10000 * i + 16 * j) 8, m (0x1000 + 67 * rb + 0x10000 * i + 16 * j + 8) 8) }
    rb0 := if mvl = 0 then rb else h.rb0
    reload := if (List.range 64).any fun i => m (0x1000 + 66 * rb + rb / 128 * i) (rb / 128) != ones (rb / 16)
      then [(wordAligned (w 0), privOfBit (bit 0 (slot 1)))] else []
    fetchPin := none, held := none, stopped := slot 2 != 0, load := none, early := [], kept := none, ahead := none
    pinned := none, edgeRun := none }

/-- The weight buffer is reloaded from its recorded source (R96, R214); a source that cannot be read leaves it unloaded. -/
def State.reloadWeights (s : State) (k : Nat) : State :=
  if bit 4 (bits 128 64 k) then
    let va := bits 0 64 k
    let len := bits 64 64 k
    let info := bits 128 64 k
    let fmt := weightTag (bits 2 2 info)
    let n := bits 16 16 info
    let rows := bits 32 16 info
    match loadBytes (weightFrame (word va) len) len va s with
    | .error _ => s
    | .ok ((d, _), s) =>
      let buf : WeightBuffer :=
        { enc := bits 0 2 info, fmt := fmt, n := n
          rows := (List.range rows).map fun i => (List.range n).map fun j => weightElem (bits 0 2 info) (tagWidth fmt) n rows d i j }
      s.setMat { s.hart.mat with wbuf := some buf }
  else s

/-- The context image at a physical address is restored (R84, R96): the hart continues at the position in it. -/
def State.restoreContext (s : State) (area : Nat) : State :=
  let c := s.dev.freeCount
  let m (off n : Nat) : Nat := s.dev.read (deviceKey (area + off)) n
  let n := s.dev.nextId
  let s := { s with dev := { s.dev with freeCount := c + 6, nextId := n + 1 }, hart := s.hart.loadImage m c n }
  s.reloadWeights (m 0x840 64)

end Sys2Proof.Machine
end

