-- ==== Sys2Proof/Machine/Select.lean ====
section
/-!
DEFINITION. Which hart and core stand at the front, and the harts, cores and gangs found by their numbers.
-/

namespace Sys2Proof.Machine

/-- Every hart slot that the machine holds. -/
def State.harts (s : State) : List Hart := s.hart :: s.parked

/-- A slot that nothing runs on. -/
def Hart.vacant (uid : Nat) : Hart := { ident := { slot := uid % 8, core := uid / 8, die := uid / 64 } }

/-- The hart with a number, if a gang has placed one there. -/
def State.findHart (s : State) (uid : Nat) : Option Hart :=
  s.harts.find? fun h => h.ident.uid == uid && h.status != .idle

/-- The hart with a number comes to the front with its core. -/
def State.select (s : State) (uid : Nat) : State :=
  if s.hart.ident.uid = uid then s.frontCore (uid / 8)
  else
    let h := (s.parked.find? fun h => h.ident.uid == uid).getD (Hart.vacant uid)
    { s with hart := h, parked := s.hart :: s.parked.filter fun h => h.ident.uid != uid }.frontCore (uid / 8)

/-- A change of the state seen from a hart, with the hart before it back at the front. -/
def State.atHart (s : State) (uid : Nat) (f : State → State) : State := (f (s.select uid)).select s.hart.ident.uid

/-- The gang with a number. -/
def Dev.gang (d : Dev) (id : Nat) : Option Gang := d.gangs.find? fun g => g.id == id

/-- The harts of a gang that stand on the device. -/
def State.hartsOf (s : State) (gang : Nat) : List Hart :=
  s.harts.filter fun h => h.ident.gang == gang && h.status != .idle

/-- The firmware image runs, and the host's and the management's registers answer (R380, R381). -/
def Dev.running (d : Dev) : Bool := d.boot.stage == 4

/-- An event whose condition holds takes the state `s` to `t`; one whose condition does not hold does not take place, and
changes nothing. -/
def happens (s : State) (b : Bool) (t : State) : Res := .next (if b then t else s)

end Sys2Proof.Machine
end

