-- ==== Sys2Proof/Machine/Interrupts.lean ====
section
/-!
DEFINITION. Interrupts (R79, R83, R86, R95), host messages (R375) and breakpoints (R346).
-/

namespace Sys2Proof.Machine

/-! ### The timer -/

/-- TIMER_EXPIRY (R79): the U instruction that takes TCOUNT to zero makes TIMER pending. Every retirement does this
itself; here it stands alone. -/
def execTimerExpiry (s : State) : Res :=
  let t := s.hart.trap.status
  if s.hart.priv = .u && t.tcount == 1 then .next (s.setTrap { s.hart.trap with status := t.tick })
  else .next s

/-! ### Taking an interrupt -/

/-- The interrupt that goes first (R83), if one is pending and enabled. -/
def TStatus.first (t : TStatus) (p : Priv) : Option Cause :=
  if p = .s && !t.ie then none
  else if t.ppend then some .preempt
  else if t.hpend then some .hostmsg
  else if t.tpend then some .timer
  else none

/-- The load has nothing left to wait for: it completes, or traps, before an interrupt (R83, R172). -/
def OutstandingLoad.decided (o : OutstandingLoad) : Bool :=
  match o.failure with
  | some (x, _) => !(o.items.any fun y => y.i < x.i)
  | none => o.items.isEmpty

/-- The hart stands at a boundary where an interrupt can be taken (R83): a WFI retires first (R98), and so does a load
with nothing left to wait for. -/
def Hart.atBoundary (h : Hart) : Bool :=
  h.status == .running && !h.inWfi && !(h.load.any OutstandingLoad.decided)

/-- The instruction, once it has issued, completes before an interrupt is taken: RPOST (R301) and CVB (R336). -/
def finishesFirst : Instr → Bool
  | .rpost .. => true
  | .cvb => true
  | _ => false

/-- The hart is inside an instruction that has issued and lets no interrupt in: an RPOST that waits for its router, a CVB that
waits for combines, an ERUN or EFRONT (R276). -/
def State.posting (s : State) : Bool :=
  s.hart.edgeRun.isSome || s.hart.held.any fun i => finishesFirst i && !i.xregs.any s.pending

/-- A PREEMPT has to wait before it saves the context (R329): for a combine of the hart that a window holds up (R378). -/
def State.saveWaits (s : State) : Bool := s.combining && s.applyOwnCombines.combining

/-- The interrupt that the hart at the front takes next (R83). -/
def State.interruptDue (s : State) : Option Cause :=
  if s.hart.atBoundary && !s.posting then
    (s.hart.trap.status.first s.hart.priv).filter fun c => c != .preempt || !s.saveWaits
  else none

/-- The element of the resumable position (R83, R86, R172). -/
def Hart.position (h : Hart) : Nat :=
  match h.load with
  | some o => o.stopAt
  | none => if h.stopped then h.vec.vstart else 0

/-- The record of the instruction that an interrupt stops (R348). -/
def State.recordStop (s : State) : State :=
  match s.hart.held with
  | some i => s.recordAll 2 i s.hart.position s.hart.pc
  | none => s

/-- An interrupt is taken at the resumable position (R81, R83, R95), and what has issued beyond is discarded: PREEMPT first
saves the context in the area of its request. -/
def State.interrupt (c : Cause) (s : State) : State :=
  let s := s.discard.recordStop
  let elem := s.hart.position
  let s := if s.hart.load.isSome then s.setResumes true else s
  let s := { s with hart := { s.hart with load := none } }
  if c = .preempt then
    let area := s.hart.preempt.getD 0
    let s := s.saveContext area.toNat elem
    let t := s.hart.trap
    let t : TrapRegs := { t with status := { t.status with ctxv := true } }
    let h := { s.hart with trap := t, preempt := none }
    let info : TrapInfo := .words area t.tinfo1 t.tinfo2 t.tinfo3
    { s with hart := h.trapEntry { cause := .preempt, elem := elem, info := info } h.pc }
  else { s with hart := s.hart.trapEntry { cause := c, elem := elem, info := .keep } s.hart.pc }

/-- INTERRUPT (R83): the pending, enabled interrupt of highest priority is taken. -/
def execInterrupt (s : State) : Res :=
  match s.interruptDue with
  | some c => .next (s.interrupt c)
  | none => .next s

/-- A scheduler request for PREEMPT becomes pending (R79, R95). -/
def Hart.request (area : Word) (h : Hart) : Hart :=
  { h with preempt := some area, trap := { h.trap with status := { h.trap.status with ppend := true } } }

/-- The request is taken at once where the hart can take it. -/
def State.takePreempt (s : State) : State := if s.interruptDue = some .preempt then s.interrupt .preempt else s

/-- A hart that a request can reach: it runs or is halted. -/
def Hart.live (h : Hart) : Bool := h.status == .running || h.status == .halted

/-- PREEMPT (R95): a request with the physical address of a save area reaches a device hart. While one is pending there a second
request changes nothing, which R95 leaves open (a DESIGN CHOICE). -/
def execPreempt (hart : BitVec 8) (area : BitVec 56) (s : State) : Res :=
  if area.toNat % 4096 = 0 && (s.findHart hart.toNat).any (fun h => h.live && h.preempt.isNone) then
    .next (s.atHart hart.toNat fun s => State.takePreempt { s with hart := s.hart.request (area.setWidth 64) })
  else .next s

/-- HOSTMSG (R375): the host writes the message register of a device hart. Before an image runs the access is an
Unsupported Request (R380). -/
def execHostmsg (hart : BitVec 8) (s : State) : Res :=
  if s.dev.running then
    let s : State := { s with dev := { s.dev with hostReply := .none } }
    .next (s.mapHart hart.toNat fun h =>
      if h.status = .idle then h
      else { h with trap := { h.trap with status := { h.trap.status with hpend := true } } })
  else .next { s with dev := { s.dev with hostReply := .unsupported } }

/-! ### Breakpoints -/

/-- A breakpoint of the hart stands at pc, and the instruction there has not issued (R346). -/
def State.atBreak (s : State) : Bool :=
  s.hart.status == .running && s.hart.held.isNone && s.hart.load.isNone && !s.hart.passed &&
    (s.dev.debugOf s.hart.ident.uid).breaks.contains s.hart.pc

/-- BREAKPOINT_HALT (R346): the hart halts before the instruction at pc issues; no trap is taken. -/
def execBreakpointHalt (s : State) : Res :=
  happens s s.atBreak { s with hart := { s.hart with status := .halted, fetchPin := none } }

/-- HALTED_HART_RESUME (R346): a halted device hart goes on from its position. -/
def execHaltedHartResume (hart : BitVec 8) (s : State) : Res :=
  happens s ((s.findHart hart.toNat).any fun h => h.status == .halted)
    (s.mapHart hart.toNat fun h => { h with status := .running, passed := true })

end Sys2Proof.Machine
end

