-- ==== Sys2Proof/Machine/Fabric.lean ====
section
/-!
DEFINITION. Steps between the units: drains, combines, broadcasts and posts on their way (R306, R316, R322, R325), the
Ralba transport (R377, R378), probe tokens (R366).
-/

namespace Sys2Proof.Machine

/-! ### Memory steps -/

/-- WCB_DRAIN (R322): an entry of the core's buffer drains, if no entry before it has to drain first; under DETM.ARB the one
that the logical order names (R335). -/
def execWcbDrain (k : BitVec 16) (s : State) : Res :=
  match s.core.wcb[k.toNat]? with
  | none => .next s
  | some e =>
    happens s (e.prov.isNone && !((s.core.wcb.take k.toNat).any fun f => f.before e) &&
        (!s.arb e.hart || nextLogical s.logical s.core.wcb == some k.toNat))
      (State.send { s with core := { s.core with wcb := s.core.wcb.eraseIdx k.toNat } } e)

/-- COMBINE_APPLIED (R175, R176, R325): a combine on its way is applied at its coherence point, under DETM.ARB in logical
order (R335). -/
def execCombineApplied (k : BitVec 16) (s : State) : Res :=
  match s.dev.combines[k.toNat]? with
  | none => .next s
  | some c =>
    happens s (!s.dev.cutCombine c && !((s.dev.combines.take k.toNat).any fun d => d.before c) &&
        !(s.dev.combines.any fun d => s.outranks d c))
      (State.atCore { s with dev := { s.dev with combines := s.dev.combines.eraseIdx k.toNat } } c.core fun s =>
        s.applyCombine c)

/-- SRF_MIRROR_UPDATE (R306): the oldest broadcast to a die reaches its mirror. -/
def execSrfMirrorUpdate (die : BitVec 2) (s : State) : Res :=
  match s.dev.mirrorUpdate die.toNat with
  | none => .next s
  | some d => .next { s with dev := d }

/-- RING_POST_DELIVERY (R316): the oldest post of a gang reaches its cores. -/
def execRingPostDelivery (gang : BitVec 32) (s : State) : Res :=
  happens s ((s.dev.gang gang.toNat).any fun g => !g.posts.isEmpty)
    { s with dev := s.dev.mapGang gang.toNat Gang.deliverNext }

/-! ### Remote windows -/

/-- What an arriving access does (R378): 0 a load, 1 a store, 2 to 5 the combines in the order of R175, 6 to 15 the atomics
in the order of R66. -/
def arrivalBytes (op : Nat) (t : Tag) (n old v expect : Nat) : Option (List Byte) :=
  let amo (o : AmoOp) : Option (List Byte) := some (bytesOf n (o.apply n old v))
  let combine (o : CombineOp) : Option (List Byte) :=
    if tagWidth t = n && o.defined t then some (bytesOf n (o.apply t old v)) else none
  match op with
  | 0 => none
  | 1 => some (bytesOf n v)
  | 2 => combine .add
  | 3 => combine .min
  | 4 => combine .max
  | 5 => combine .or
  | 6 => amo .swap
  | 7 => amo .add
  | 8 => amo .and
  | 9 => amo .or
  | 10 => amo .xor
  | 11 => amo .min
  | 12 => amo .max
  | 13 => amo .minu
  | 14 => amo .maxu
  | _ => if old = expect then amo .cas else none

/-- An access of a peer arrives (R378): translated through the context that the peer's window names, applied at the
coherence point with its taint; one that does not reach device memory is refused. -/
def State.arrive (s : State) (ctx op : Nat) (t : Tag) (va n v expect : Nat) (taint : Bool) : State :=
  if n = 0 || 64 < va % 64 + n then s
  else match s.dev.locate ctx (s.dev.rootOf ctx) va n (if op = 0 then .load else .store) with
    | none => { s with dev := s.dev.noteIf (s.dev.ioError ctx (s.dev.rootOf ctx) va n (if op = 0 then .load else .store)) }
    | some (pl, d) =>
      let s := { s with dev := d.noteIf (op != 1 && (d.poisoned pl.key n).isSome) }
      if pl.cls != .device then s
      else match arrivalBytes op t n (s.dev.read pl.key n) v expect with
        | none => s
        | some bs =>
          let inexact := op = 2 && (t = .f32 || t = .f64)
          let s := s.apply 256 pl.key bs { tainted := taint || inexact }
          s.logInputs (fun g => g.ctx == ctx) { kind := 3, addr := physOf pl.key, bytes := bs }

/-- The number of a peer's window. -/
def peerKey (peer win : Nat) : Nat := 256 * peer + win

/-- RALBA_FRAME_RECEIVE (R378). With `inward` 0 a frame of `count` accesses of the context's own window, of at most 4,096
bytes, reaches its peer; one of none acknowledges loads when nothing is posted.
With `inward` 1 an access of a peer's window arrives here, with its place in the window's order: the next one is applied, an
earlier one is a duplicate and discarded, a later one waits at the peer. Nothing arrives before an image runs (R380). -/
def execRalbaFrameReceive (inward : BitVec 1) (ctx : BitVec 16) (win : BitVec 8) (count : BitVec 13) (peer : BitVec 64)
    (seq : BitVec 32) (op : BitVec 4) (tag : BitVec 5) (va : BitVec 64) (n : BitVec 7) (data : BitVec 512)
    (expect : BitVec 64) (taint : BitVec 1) (s : State) : Res :=
  if inward = 0 then
    match s.dev.window ctx.toNat win.toNat with
    | none => .next s
    | some w =>
      let payload := ((w.posted.take count.toNat).map fun p => p.bytes.length).sum
      happens s (w.carries && w.cut.isNone && (1 ≤ count.toNat || w.posted.isEmpty) && count.toNat ≤ w.posted.length &&
          payload ≤ 4096)
        (s.deliverPosted ctx.toNat win.toNat count.toNat)
  else
    let k := peerKey peer.toNat win.toNat
    let want := sparseGet 0 s.dev.received k
    if !s.dev.running || seq.toNat < want then .next s
    else if seq.toNat = want then
      let s := s.arrive ctx.toNat op.toNat (tagField tag) va.toNat n.toNat (data.toNat % 2 ^ (8 * n.toNat)) expect.toNat
        (taint == 1)
      .next { s with dev := { s.dev with received := sparseSet 0 s.dev.received k (want + 1) } }
    else .next s

/-- FRAME_RETRY (R378): a frame of the window, with posted accesses or with loads, is not acknowledged and is sent again, eight
times; then the window moves to another port that reaches the peer, or no port does and the link's last millisecond runs. -/
def execFrameRetry (ctx : BitVec 16) (win : BitVec 8) (reaches : BitVec 1) (s : State) : Res :=
  match s.dev.window ctx.toNat win.toNat with
  | none => .next s
  | some w =>
    let f (w : Window) : Window :=
      if w.tries < 8 then { w with tries := w.tries + 1 }
      else if reaches = 1 then
        { w with tries := 0, cut := none, state := .retrying, port := (w.port + 1 + Config.free s.dev.freeCount % 5) % 6 }
      else { w with state := .retrying, cut := some (w.cut.getD s.dev.now) }
    happens s w.carries
      { s with dev := { s.dev with freeCount := s.dev.freeCount + 1 }.updateWindow ctx.toNat win.toNat f }

/-- The outstanding elements that went through a lost link have failed (R168 step 5, R378); no element above a failed one of an
ordered load is performed (R180). -/
def OutstandingLoad.cutOff (num : Nat) (status : Word) (o : OutstandingLoad) : OutstandingLoad :=
  let (lost, left) := o.items.partition fun x => x.window == some num
  let first := (lost.map LoadItem.i).min?
  { o with items := if o.ordered then left.filter fun x => first.all fun k => decide (x.i < k) else left
           fails := o.fails ++ lost.map fun x => (x, { cause := .remoteLink, info3 := status }) }

/-- A window stops carrying accesses: its outstanding loads fail, its posted accesses are dropped and counted (R377,
R378). -/
def State.closeWindow (s : State) (ctx num : Nat) (st : LinkState) : State :=
  let mine (c : PendingCombine) : Bool := c.window == some (ctx, num)
  let posted := ((s.dev.window ctx num).map fun w => w.posted.length).getD 0
  let n := posted + (s.dev.combines.filter mine).length
  let d := { s.dev with combines := s.dev.combines.filter fun c => !mine c }
  let d := d.updateWindow ctx num fun w => { w.drop n with state := st, posted := [], cut := none, tries := 0 }
  let status := word (((d.window ctx num).map Window.statusWord).getD 0)
  let f (h : Hart) : Hart := if h.ctx = ctx then { h with load := h.load.map (OutstandingLoad.cutOff num status) } else h
  State.mapHarts { s with dev := d } f

/-- LINK_LOSS (R378): for 1 ms no port has reached the peer, and the window goes down. -/
def execLinkLoss (ctx : BitVec 16) (win : BitVec 8) (s : State) : Res :=
  happens s ((s.dev.window ctx.toNat win.toNat).any fun w =>
      w.carries && w.cut.any fun t => decide (t + 1000000 ≤ s.dev.now))
    (s.closeWindow ctx.toNat win.toNat .down)

/-- The peer refuses a window that carries accesses (R377): STATE 3, and the window is closed as one whose link is lost. -/
def State.refuseWindow (s : State) (ctx num : Nat) : Res :=
  happens s ((s.dev.window ctx num).any Window.carries) (s.closeWindow ctx num .refused)

/-- REMOTE_LINK_RESTORED (R378): a port reaches the peer again; frames not yet acknowledged are sent again, with STATE 1
meanwhile. -/
def execRemoteLinkRestored (ctx : BitVec 16) (win : BitVec 8) (s : State) : Res :=
  match s.dev.window ctx.toNat win.toNat with
  | none => .next s
  | some w =>
    happens s (w.state = .down || w.state = .retrying)
      { s with dev := s.dev.updateWindow ctx.toNat win.toNat fun w =>
        { w with state := if w.posted.isEmpty then .up else .retrying, tries := 0, cut := none } }

/-! ### Probe tokens -/

/-- PROBE_TOKEN_SEND (R366): a unit has waited 1,024 clocks on a full queue; its token makes its first hop, to the queue's
drainer. It sends none while an entry that it has placed in an attic slot is still in that queue; with `left` 1 that entry has
since left. -/
def execProbeTokenSend (unit queue : BitVec 16) (left : BitVec 1) (s : State) : Res :=
  let mine (a : Nat × Nat) : Bool := a.2 == unit.toNat
  let attic := if left = 1 then s.dev.attic.filter fun a => !mine a else s.dev.attic
  let t : Token := { origin := unit.toNat, queue := queue.toNat, unit := Config.drainer queue.toNat, hops := 1 }
  happens s (!attic.any mine) { s with dev := { s.dev with attic := attic, tokens := s.dev.tokens ++ [t] } }

/-- The entry in a queue's attic slot leaves the queue: the slot is free (R366). -/
def State.leaveAttic (s : State) (queue : Nat) : Res :=
  happens s (s.dev.attic.any fun a => a.1 == queue)
    { s with dev := { s.dev with attic := s.dev.attic.filter fun a => a.1 != queue } }

/-- The token at its next unit (R366): one that has made 64 hops is dropped. -/
def Token.forward (t : Token) (queue : Nat) : List Token :=
  if t.hops + 1 < 64 then [{ t with unit := Config.drainer queue, hops := t.hops + 1 }] else []

/-- PROBE_TOKEN_RECEIVE (R366): a token reaches its unit. A unit that waits (bit 16) on a full queue (bits 15 to 0) forwards it, or,
if it is the token's origin, places its waiting entry in that queue's attic slot, once the slot is free; any other drops it. -/
def execProbeTokenReceive (k : BitVec 16) (waits : BitVec 17) (s : State) : Res :=
  match s.dev.tokens[k.toNat]? with
  | none => .next s
  | some t =>
    let rest := s.dev.tokens.eraseIdx k.toNat
    let queue := waits.toNat % 2 ^ 16
    if !waits.getLsbD 16 then .next { s with dev := { s.dev with tokens := rest } }
    else if t.unit = t.origin then
      happens s (!s.dev.attic.any fun a => a.1 == queue)
        { s with dev := { s.dev with tokens := rest, attic := (queue, t.origin) :: s.dev.attic } }
    else .next { s with dev := { s.dev with tokens := rest ++ t.forward queue } }

end Sys2Proof.Machine
end

