-- ==== Sys2Proof/Machine/Fetch.lean ====
section
/-!
DEFINITION. Fetching the instruction at pc (R31, R94, R333, R346).
-/

namespace Sys2Proof.Machine

/-- The translation under which the hart fetches an address (R94): the one its block has pinned, or at the start of a block
a new one, which the block then pins. -/
def State.fetchPage (s : State) (va : Nat) : Except (Failure × State) (TlbEntry × State) :=
  let start : Except (Failure × State) (TlbEntry × State) :=
    if inWindow va then .error ({ cause := .pageFaultFetch }, s)
    else match s.page va .fetch with
      | .error f => .error (f, s)
      | .ok (e, s) =>
        .ok (e, { s with hart := { s.hart with fetchPin := some { block := va / 64, entry := e, stale := false } } })
  match s.hart.fetchPin with
  | some p => if p.block = va / 64 then .ok (p.entry, s) else start
  | none => start

/-- One word of an instruction (R31 step 1, R333): read at the coherence point. -/
def State.fetchWordAt (s : State) (va : Word) : Except (Failure × State) (Word32 × State) :=
  match s.fetchPage va.toNat with
  | .error e => .error e
  | .ok (e, s) =>
    match classify s.dev s.hart.ctx e va.toNat 4 with
    | .error f => .error (f, s)
    | .ok pl =>
      match s.dev.poisoned pl.key 4 with
      | some _ => .error ({ cause := .poison, info3 := word (physOf pl.key) }, s)
      | none =>
        match s.watchHit va.toNat 4 .fetch with
        | some a => .error ({ cause := .watch, info3 := word a }, s)
        | none => .ok (BitVec.ofNat 32 (s.dev.read pl.key 4), s)

/-- The words of the instruction at pc, word 0 in [31:0] and word 1, if it is to be fetched (R31), in [63:32]; or the
address of the word that cannot be fetched and why. -/
def State.fetchInstr (s : State) : Except (Failure × Word × State) (Word × State) :=
  let pc := s.hart.pc
  match s.fetchWordAt pc with
  | .error (f, s) => .error (f, pc, s)
  | .ok (w0, s) =>
    if isLong w0 && (decodeHead w0).toOption.isSome then
      match s.fetchWordAt (pc + 4) with
      | .error (f, s) => .error (f, pc + 4, s)
      | .ok (w1, s) => .ok (w1 ++ w0, s)
    else .ok (w0.setWidth 64, s)

/-- FETCH_TRAP (R31): a word of the instruction at pc cannot be fetched. The frame's SIZE is 4 for word 0 and 8 for word 1
(R386). -/
def execFetchTrap (s : State) : Res :=
  match s.fetchInstr with
  | .ok _ => .next s
  | .error (f, va, s) =>
    .next (s.takeTrap (accessTrap f va 0 .fetch va (fetchFrame s.hart.pc (if va = s.hart.pc then 4 else 8))))

/-- ILLEGAL (R31, R38): the word at pc, or the two words of a long form, decode to no instruction. -/
def execIllegal (w : BitVec 64) (s : State) : Res := .next (s.takeTrap { cause := .illegal, val := w })

end Sys2Proof.Machine
end

