-- ==== Sys2Proof/Machine/FpScalar.lean ====
section
/-!
DEFINITION. Scalar floating point (R70 to R76): the x registers hold the values, FCSR the mode and the flags.
-/

namespace Sys2Proof.Machine

/-- The bits of a source of a form: [31:0] for .s, all for .d (R71). -/
def fpBits (f : Fmt) (v : Word) : Nat := v.toNat % 2 ^ f.width

/-- A result with its flags goes to X[D] and FCSR (R70, R71). -/
def fpResult (d : BitVec 5) (r : Nat × Flags) (s : State) : Res :=
  .next (((s.setX d (word r.1)).raiseFcsr r.2).advance 4)

/-- A two-source form (R73). -/
def fp2 (f : Fmt) (op : Fmt → Rm → Bool → Fv → Fv → Nat × Flags) (d a b : BitVec 5) (s : State) : Res :=
  fpResult d (op f s.hart.fcsr.rm false (f.decode (fpBits f (s.x a))) (f.decode (fpBits f (s.x b)))) s

/-- A comparison (R73): 1 or 0 as a 64-bit integer. -/
def fpCmp (f : Fmt) (r : Rel) (d a b : BitVec 5) (s : State) : Res :=
  let (v, fl) := fpCompare r (f.decode (fpBits f (s.x a))) (f.decode (fpBits f (s.x b)))
  fpResult d (v.toNat, fl) s

/-- A sign injection (R73): the magnitude of a with a sign computed from the two signs. A NaN keeps its payload: R72 has these
forms ignore payloads, and whether its canonical NaN is meant for them too is left open (a DESIGN CHOICE). -/
def fpSign (f : Fmt) (sg : Bool → Bool → Bool) (d a b : BitVec 5) (s : State) : Res :=
  let ka := fpBits f (s.x a)
  let kb := fpBits f (s.x b)
  fpResult d (ka % 2 ^ (f.width - 1) + (sg (f.sign ka) (f.sign kb)).toNat * 2 ^ (f.width - 1), 0) s

/-- A fused form (R74). -/
def fpFused (f : Fmt) (negP negC : Bool) (d a b c : BitVec 5) (s : State) : Res :=
  let v (r : BitVec 5) := f.decode (fpBits f (s.x r))
  fpResult d (fpFma f s.hart.fcsr.rm false negP negC (v a) (v b) (v c)) s

/-- A conversion to an integer of `n` bits (R75): a 32-bit result is written sext32. -/
def fpToX (f : Fmt) (n : Nat) (sg : Bool) (d a : BitVec 5) (s : State) : Res :=
  let lo : Int := if sg then -(2 ^ (n - 1) : Nat) else 0
  let hi : Int := (if sg then (2 ^ (n - 1) : Nat) else (2 ^ n : Nat)) - 1
  let (z, fl) := fpConvInt s.hart.fcsr.rm lo hi (f.decode (fpBits f (s.x a)))
  fpResult d ((if n = 32 then sext32 (wordI z) else wordI z).toNat, fl) s

/-- A conversion from an integer of `n` bits (R75). -/
def fpOfX (f : Fmt) (n : Nat) (sg : Bool) (d a : BitVec 5) (s : State) : Res :=
  let k := (s.x a).toNat % 2 ^ n
  fpResult d (fpOfInt f s.hart.fcsr.rm false (if sg then signed n k else k)) s

/-- A conversion between the two formats (R75). -/
def fpConv (src dst : Fmt) (d a : BitVec 5) (s : State) : Res :=
  fpResult d (dst.roundFv s.hart.fcsr.rm false (src.decode (fpBits src (s.x a)))) s

/-- FADD_S (R73). -/
def execFaddS (d a b : BitVec 5) (s : State) : Res := fp2 fmtF32 fpAdd d a b s

/-- FSUB_S (R73). -/
def execFsubS (d a b : BitVec 5) (s : State) : Res := fp2 fmtF32 fpSub d a b s

/-- FMUL_S (R73). -/
def execFmulS (d a b : BitVec 5) (s : State) : Res := fp2 fmtF32 fpMul d a b s

/-- FDIV_S (R73). -/
def execFdivS (d a b : BitVec 5) (s : State) : Res := fp2 fmtF32 fpDiv d a b s

/-- FSQRT_S (R73). -/
def execFsqrtS (d a : BitVec 5) (s : State) : Res :=
  fpResult d (fpSqrt fmtF32 s.hart.fcsr.rm false (fmtF32.decode (fpBits fmtF32 (s.x a)))) s

/-- FMIN_S (R73). -/
def execFminS (d a b : BitVec 5) (s : State) : Res := fp2 fmtF32 (fun f _ _ => fpMinMax f false false) d a b s

/-- FMAX_S (R73). -/
def execFmaxS (d a b : BitVec 5) (s : State) : Res := fp2 fmtF32 (fun f _ _ => fpMinMax f false true) d a b s

/-- FSGNJ_S (R73). -/
def execFsgnjS (d a b : BitVec 5) (s : State) : Res := fpSign fmtF32 (fun _ b => b) d a b s

/-- FSGNJN_S (R73). -/
def execFsgnjnS (d a b : BitVec 5) (s : State) : Res := fpSign fmtF32 (fun _ b => !b) d a b s

/-- FSGNJX_S (R73). -/
def execFsgnjxS (d a b : BitVec 5) (s : State) : Res := fpSign fmtF32 (fun a b => a != b) d a b s

/-- FEQ_S (R73). -/
def execFeqS (d a b : BitVec 5) (s : State) : Res := fpCmp fmtF32 .eq d a b s

/-- FLT_S (R73). -/
def execFltS (d a b : BitVec 5) (s : State) : Res := fpCmp fmtF32 .lt d a b s

/-- FLE_S (R73). -/
def execFleS (d a b : BitVec 5) (s : State) : Res := fpCmp fmtF32 .le d a b s

/-- FCLASS_S (R73). -/
def execFclassS (d a : BitVec 5) (s : State) : Res := result4 d (word (fpClass fmtF32 (fpBits fmtF32 (s.x a)))) s

/-- FMADD_S (R74). -/
def execFmaddS (d a b c : BitVec 5) (s : State) : Res := fpFused fmtF32 false false d a b c s

/-- FMSUB_S (R74). -/
def execFmsubS (d a b c : BitVec 5) (s : State) : Res := fpFused fmtF32 false true d a b c s

/-- FNMADD_S (R74). -/
def execFnmaddS (d a b c : BitVec 5) (s : State) : Res := fpFused fmtF32 true true d a b c s

/-- FNMSUB_S (R74). -/
def execFnmsubS (d a b c : BitVec 5) (s : State) : Res := fpFused fmtF32 true false d a b c s

/-- FADD_D (R73). -/
def execFaddD (d a b : BitVec 5) (s : State) : Res := fp2 fmtF64 fpAdd d a b s

/-- FSUB_D (R73). -/
def execFsubD (d a b : BitVec 5) (s : State) : Res := fp2 fmtF64 fpSub d a b s

/-- FMUL_D (R73). -/
def execFmulD (d a b : BitVec 5) (s : State) : Res := fp2 fmtF64 fpMul d a b s

/-- FDIV_D (R73). -/
def execFdivD (d a b : BitVec 5) (s : State) : Res := fp2 fmtF64 fpDiv d a b s

/-- FSQRT_D (R73). -/
def execFsqrtD (d a : BitVec 5) (s : State) : Res :=
  fpResult d (fpSqrt fmtF64 s.hart.fcsr.rm false (fmtF64.decode (fpBits fmtF64 (s.x a)))) s

/-- FMIN_D (R73). -/
def execFminD (d a b : BitVec 5) (s : State) : Res := fp2 fmtF64 (fun f _ _ => fpMinMax f false false) d a b s

/-- FMAX_D (R73). -/
def execFmaxD (d a b : BitVec 5) (s : State) : Res := fp2 fmtF64 (fun f _ _ => fpMinMax f false true) d a b s

/-- FSGNJ_D (R73). -/
def execFsgnjD (d a b : BitVec 5) (s : State) : Res := fpSign fmtF64 (fun _ b => b) d a b s

/-- FSGNJN_D (R73). -/
def execFsgnjnD (d a b : BitVec 5) (s : State) : Res := fpSign fmtF64 (fun _ b => !b) d a b s

/-- FSGNJX_D (R73). -/
def execFsgnjxD (d a b : BitVec 5) (s : State) : Res := fpSign fmtF64 (fun a b => a != b) d a b s

/-- FEQ_D (R73). -/
def execFeqD (d a b : BitVec 5) (s : State) : Res := fpCmp fmtF64 .eq d a b s

/-- FLT_D (R73). -/
def execFltD (d a b : BitVec 5) (s : State) : Res := fpCmp fmtF64 .lt d a b s

/-- FLE_D (R73). -/
def execFleD (d a b : BitVec 5) (s : State) : Res := fpCmp fmtF64 .le d a b s

/-- FCLASS_D (R73). -/
def execFclassD (d a : BitVec 5) (s : State) : Res := result4 d (word (fpClass fmtF64 (fpBits fmtF64 (s.x a)))) s

/-- FMADD_D (R74). -/
def execFmaddD (d a b c : BitVec 5) (s : State) : Res := fpFused fmtF64 false false d a b c s

/-- FMSUB_D (R74). -/
def execFmsubD (d a b c : BitVec 5) (s : State) : Res := fpFused fmtF64 false true d a b c s

/-- FNMADD_D (R74). -/
def execFnmaddD (d a b c : BitVec 5) (s : State) : Res := fpFused fmtF64 true true d a b c s

/-- FNMSUB_D (R74). -/
def execFnmsubD (d a b c : BitVec 5) (s : State) : Res := fpFused fmtF64 true false d a b c s

/-- FCVTWS (R75). -/
def execFcvtws (d a : BitVec 5) (s : State) : Res := fpToX fmtF32 32 true d a s

/-- FCVTSW (R75). -/
def execFcvtsw (d a : BitVec 5) (s : State) : Res := fpOfX fmtF32 32 true d a s

/-- FCVTWUS (R75). -/
def execFcvtwus (d a : BitVec 5) (s : State) : Res := fpToX fmtF32 32 false d a s

/-- FCVTSWU (R75). -/
def execFcvtswu (d a : BitVec 5) (s : State) : Res := fpOfX fmtF32 32 false d a s

/-- FCVTLS (R75). -/
def execFcvtls (d a : BitVec 5) (s : State) : Res := fpToX fmtF32 64 true d a s

/-- FCVTSL (R75). -/
def execFcvtsl (d a : BitVec 5) (s : State) : Res := fpOfX fmtF32 64 true d a s

/-- FCVTLUS (R75). -/
def execFcvtlus (d a : BitVec 5) (s : State) : Res := fpToX fmtF32 64 false d a s

/-- FCVTSLU (R75). -/
def execFcvtslu (d a : BitVec 5) (s : State) : Res := fpOfX fmtF32 64 false d a s

/-- FCVTWD (R75). -/
def execFcvtwd (d a : BitVec 5) (s : State) : Res := fpToX fmtF64 32 true d a s

/-- FCVTDW (R75). -/
def execFcvtdw (d a : BitVec 5) (s : State) : Res := fpOfX fmtF64 32 true d a s

/-- FCVTWUD (R75). -/
def execFcvtwud (d a : BitVec 5) (s : State) : Res := fpToX fmtF64 32 false d a s

/-- FCVTDWU (R75). -/
def execFcvtdwu (d a : BitVec 5) (s : State) : Res := fpOfX fmtF64 32 false d a s

/-- FCVTLD (R75). -/
def execFcvtld (d a : BitVec 5) (s : State) : Res := fpToX fmtF64 64 true d a s

/-- FCVTDL (R75). -/
def execFcvtdl (d a : BitVec 5) (s : State) : Res := fpOfX fmtF64 64 true d a s

/-- FCVTLUD (R75). -/
def execFcvtlud (d a : BitVec 5) (s : State) : Res := fpToX fmtF64 64 false d a s

/-- FCVTDLU (R75). -/
def execFcvtdlu (d a : BitVec 5) (s : State) : Res := fpOfX fmtF64 64 false d a s

/-- FCVTSD (R75). -/
def execFcvtsd (d a : BitVec 5) (s : State) : Res := fpConv fmtF64 fmtF32 d a s

/-- FCVTDS (R75). -/
def execFcvtds (d a : BitVec 5) (s : State) : Res := fpConv fmtF32 fmtF64 d a s

end Sys2Proof.Machine
end

