-- ==== Sys2Proof/Machine/Power.lean ====
section
/-!
DEFINITION. Power and time: L2 gating (R369), throttling (R370), boost and FLOW (R371), the power lease (R373), and the
rotation of performance counters (R349).
-/

namespace Sys2Proof.Machine

/-! ### Clocks -/

/-- A die with its thermal state changed. -/
def Dev.setDie (d : Dev) (i : Nat) (x : Die) : Dev := { d with dies := d.dies.setIfInBounds i x }

/-- The state of a die. -/
def Dev.dieOf (d : Dev) (i : Nat) : Die := d.dies[i]?.getD {}

/-- FLOW of every running gang with a hart on a die whose clock has fallen below its FMIN (R371). -/
def State.checkFlow (s : State) : State :=
  let slow (g : Gang) : Bool :=
    (s.hartsOf g.id).any fun h => decide ((s.dev.dieOf (h.ident.core / 8)).clock < g.fmin)
  let f (g : Gang) : Gang := if slow g then { g with flow := true } else g
  { s with dev := { s.dev with gangs := s.dev.gangs.map f } }

/-- The starts and ends that a die has made in the last second (R370). -/
def Die.recent (x : Die) (now : Nat) : List Nat := x.changes.filter fun t => decide (now < t + 1000000000)

/-- The clock after steps of 50 MHz down, no lower than 1.2 GHz (R370); a power cap may have left it lower (R371). -/
def Die.slower (x : Die) (steps : Nat) : Nat := min x.clock (max 1200 (x.clock - 50 * steps))

/-- A throttling die's clock falls by a step (R370). -/
def State.throttleStep (s : State) (die : Nat) : Res :=
  let x := s.dev.dieOf die
  happens s (x.throttling.isSome && 1200 < x.clock) (State.checkFlow { s with dev := s.dev.setDie die { x with clock := x.slower 1 } })

/-- THROTTLE_START (R370): the die's temperature in °C has reached Thot; the clock falls by steps of 50 MHz, the first ones now. -/
def execThrottleStart (die : BitVec 2) (temp : BitVec 8) (steps : BitVec 5) (s : State) : Res :=
  let x := s.dev.dieOf die.toNat
  let recent := x.recent s.dev.now
  let y : Die :=
    { x with throttling := some s.dev.now, changes := s.dev.now :: recent, clock := x.slower steps.toNat }
  happens s (x.thot ≤ temp.toNat && x.throttling.isNone && recent.length < 60 && steps != 0)
    (State.checkFlow { s with dev := (s.dev.setDie die.toNat y).record (.transition 1 die.toNat) })

/-- THROTTLE_END (R370): the die has cooled to Thot − 3 °C and has throttled for 8 ms; the clock is again what the power cap
leaves (R371). -/
def execThrottleEnd (die : BitVec 2) (temp : BitVec 8) (s : State) : Res :=
  let x := s.dev.dieOf die.toNat
  let recent := x.recent s.dev.now
  let clock := min 2250 (Config.clockUnderCap s.dev.lease.cap s.dev.freeCount)
  let y : Die := { x with throttling := none, changes := s.dev.now :: recent, clock := clock }
  let d := (s.dev.setDie die.toNat y).record (.transition 2 die.toNat)
  happens s (temp.toNat + 3 ≤ x.thot && recent.length < 60 &&
      x.throttling.any fun t => decide (t + 8000000 ≤ s.dev.now))
    (State.checkFlow { s with dev := { d with freeCount := d.freeCount + 1 } })

/-- A power cap takes force (R371, R373): the clock it leaves each die is no number of the spec. -/
def State.setCap (s : State) (l : Lease) : State :=
  let c := s.dev.freeCount
  let f (x : Die) : Die := { x with clock := min (if x.throttling.isSome then x.clock else 2250) (Config.clockUnderCap l.cap c) }
  State.checkFlow { s with dev := { s.dev with lease := l, freeCount := c + 1, dies := s.dev.dies.map f } }

/-- LEASE_EXPIRY (R373): the lease ends without a successor; the cap is the safe cap. -/
def execLeaseExpiry (s : State) : Res :=
  let s' := s.setCap { s.dev.lease with cap := 1800, ends := none }
  happens s (s.dev.lease.ends.any fun t => decide (t ≤ s.dev.now))
    { s' with dev := s'.dev.record (.transition 3 0) }

/-- A boost-eligible gang runs (R371). -/
def Dev.boostable (d : Dev) : Bool := d.gangs.any fun g => g.boost && g.status == .running

/-- An excursion above the module's power may begin while a boost-eligible gang runs (R371): whether it does is the
module's choice, and it ends when no such gang runs. -/
def Dev.updateBoost (d : Dev) : Dev :=
  if d.boostable then
    match d.boost with
    | some _ => d
    | none =>
      { d with freeCount := d.freeCount + 1, boost := if Config.free d.freeCount % 2 = 1 then some d.now else none }
  else { d with boost := none }

/-- BOOST_END (R371): an excursion has reached its 10 ms. -/
def execBoostEnd (s : State) : Res :=
  happens s (s.dev.boost.any fun t => decide (t + 10000000 ≤ s.dev.now))
    { s with dev := ({ s.dev with boost := none }).record (.transition 4 0) }

/-! ### L2 -/

/-- The gated ways that stay off after a window (R369): a way comes back when the miss rate exceeds twice that of the window
which gated it. -/
def stillGated (misses accesses : Nat) (l : List (Nat × Nat)) : List (Nat × Nat) :=
  l.filter fun (m, a) => !(2 * m * accesses < misses * a)

/-- L2_WINDOW (R369): a slice's window of 100 µs ends with its misses and accesses, and whether its working set fits one
way less. The ways whose rate it doubles come back, and one more is gated where the other condition holds: R369 says both. -/
def execL2Window (slice : BitVec 11) (misses accesses : BitVec 32) (fits : BitVec 1) (s : State) : Res :=
  let x : Slice := sparseGet {} s.dev.slices slice.toNat
  let m := misses.toNat
  let a := accesses.toNat
  let l := stillGated m a x.gated
  let l := if m * 100 < a && fits = 1 && l.length < 12 then (m, a) :: l else l
  happens s (slice.toNat < 1536 && m ≤ a)
    { s with dev := { s.dev with slices := sparseSet {} s.dev.slices slice.toNat { gated := l } } }

/-! ### Counters -/

/-- COUNTER_ROTATION (R349): a core's counters go on to the next event set. -/
def execCounterRotation (core : BitVec 5) (s : State) : Res :=
  match (s.coreOf core.toNat).counters with
  | none => .next s
  | some k =>
    .next (s.atCore core.toNat fun s =>
      { s with core := { s.core with counters := some { k with current := (k.current + 1) % k.sets.length } } })

end Sys2Proof.Machine
end

