-- ==== Sys2Proof/Machine/Packets.lean ====
section
/-!
DEFINITION. Launch queues and launch packets: TAIL (R352), the fields of a packet (R354, R355), the checks it must pass
(R300, R356), and where a gang can be placed (R106, R107, R361).
-/

namespace Sys2Proof.Machine

/-! ### Queues -/

/-- The packet slots of a queue; one that management has not set has none. -/
def LaunchQueue.slots (q : LaunchQueue) : Nat := if q.k = 0 then 0 else 2 ^ q.k

/-- Packets between HEAD and TAIL, modulo 2^32 (R352). -/
def LaunchQueue.waiting (q : LaunchQueue) : Nat := (q.tail + (2 ^ 32 - q.head % 2 ^ 32)) % 2 ^ 32

/-- A TAIL write (R352): one that moves TAIL backward, or more than 2^k past HEAD, is ignored and sets the error bit. -/
def LaunchQueue.writeTail (q : LaunchQueue) (v : Nat) : LaunchQueue :=
  let ahead := (v + (2 ^ 32 - q.head % 2 ^ 32)) % 2 ^ 32
  if q.waiting ≤ ahead && ahead ≤ q.slots then { q with tail := v } else { q with error := true }

/-- A launch queue. -/
def Dev.queue (d : Dev) (q : Nat) : LaunchQueue := d.queues[q]?.getD {}

/-- A launch queue replaced. -/
def Dev.setQueue (d : Dev) (q : Nat) (x : LaunchQueue) : Dev := { d with queues := d.queues.setIfInBounds q x }

/-- The effect of a TAIL write (R352), however it arrives. -/
def Dev.ringDoorbell (d : Dev) (q v : Nat) : Dev := d.setQueue q ((d.queue q).writeTail (v % 2 ^ 32))

/-- TAIL (R352): the host, or a core of the I/O die, writes a queue's doorbell. -/
def execTail (q : BitVec 6) (v : BitVec 32) (s : State) : Res :=
  if s.dev.running then
    let i : OutsideInput := { kind := 2, addr := 8 * q.toNat, bytes := bytesOf 8 v.toNat }
    let s := s.logInputs (fun _ => true) i
    .next { s with dev := { s.dev.ringDoorbell q.toNat v.toNat with hostReply := .none } }
  else .next { s with dev := { s.dev with hostReply := .unsupported } }

/-! ### The packet -/

/-- The fields of a launch packet (R354), with whether every field keeps to its layout. -/
structure LaunchPacket where
  wellFormed : Bool
  entry : Word
  prio : Nat
  detm : Detm
  mmode : Bool
  pav : Nat
  long : Bool
  lcpd : Nat
  hpc : Nat
  harts : Nat
  htab : Nat
  pb0 : Nat
  pb1 : Nat
  pb2 : Nat
  replay : Nat
  ctx : Nat
  log : Word
  srfBase : Nat
  srfLen : Nat
  trees : Nat
  depends : List (Nat × Nat)
  signal : Option Nat
  cstat : Nat
  boost : Bool
  pmax : Nat
  fmin : Nat
  deriving DecidableEq, Repr

/-- A dependence in force: SRF index and value (R354). -/
def dependence (k : Nat) : List (Nat × Nat) := if bit 16 k then [(bits 0 14 k, bits 32 32 k)] else []

/-- The packet whose doublewords are `q` (R354). -/
def LaunchPacket.of (q : Nat → Nat) : LaunchPacket :=
  let f := q 1
  { wellFormed := bits 0 2 (q 0) == 0 && bits 34 30 f == 0 && bits 29 3 f == 0 && bits 21 3 f == 0 && bits 18 2 f ≤ 2
      && 1 ≤ bits 13 4 f && bits 13 4 f ≤ 8 && (q 2 != 0 || (1 ≤ bits 9 4 f && bits 9 4 f ≤ 8))
      && 1 ≤ bits 0 9 f && bits 0 9 f ≤ 256
      && bits 24 40 (q 3) == 0 && [16, 24, 40, 72].contains (bits 0 8 (q 3))
      && bits 18 46 (q 4) == 0 && bits 16 2 (q 4) ≤ 2 && q 5 % 4096 == 0 && (bits 16 2 (q 4) != 0 || q 5 == 0)
      && bits 31 33 (q 6) == 0 && bits 14 2 (q 6) == 0 && bits 16 15 (q 6) ≤ 16384
      && bits 0 14 (q 6) + bits 16 15 (q 6) ≤ 16384
      && bits 17 15 (q 8) == 0 && bits 14 2 (q 8) == 0 && bits 17 15 (q 9) == 0 && bits 14 2 (q 9) == 0
      && bits 17 47 (q 10) == 0 && bits 14 2 (q 10) == 0 && bits 33 31 (q 12) == 0
      && q 13 == 0 && q 14 == 0 && q 15 == 0
    entry := word (q 0), prio := bits 32 2 f, detm := Detm.unpack (bits 24 5 f), mmode := bit 20 f, pav := bits 18 2 f
    long := bit 17 f, lcpd := bits 13 4 f, hpc := bits 9 4 f, harts := bits 0 9 f, htab := q 2
    pb0 := bits 0 8 (q 3), pb1 := bits 8 8 (q 3), pb2 := bits 16 8 (q 3), replay := bits 16 2 (q 4), ctx := bits 0 16 (q 4)
    log := word (q 5), srfBase := bits 0 14 (q 6), srfLen := bits 16 15 (q 6), trees := q 7
    depends := dependence (q 8) ++ dependence (q 9)
    signal := if bit 16 (q 10) then some (bits 0 14 (q 10)) else none
    cstat := q 11, boost := bit 32 (q 12), pmax := bits 16 16 (q 12), fmin := bits 0 16 (q 12) }

/-- The packet at the head of a queue (R352). -/
def Dev.headPacket (d : Dev) (q : LaunchQueue) : LaunchPacket :=
  let base := q.base + 128 * (q.head % 2 ^ q.k)
  LaunchPacket.of fun i => d.read (deviceKey (base + 8 * i)) 8

/-! ### The gang's shape -/

/-- The pavilions of a class field: a short hart reserves none of its own. -/
def pavCount (long : Bool) (log2 : Nat) : Nat := if long then 2 ^ log2 else 0

/-- One entry of the hart table (R355). -/
def tableEntry (h k : Nat) : Option HartShape :=
  if bits 13 19 k == 0 && !bit 8 k && bits 10 2 k ≤ 2 && (bit 9 k || bits 10 2 k == 0) then
    some { lhart := h, lcore := bits 0 8 k, long := bit 9 k, pav := pavCount (bit 9 k) (bits 10 2 k), mmode := bit 12 k }
  else none

/-- Entries `h` to `h + n - 1` of the hart table (R355), and the device after its pages have been walked. -/
def readTable (d : Dev) (c : Context) (htab : Nat) : Nat → Nat → Option (List HartShape × Dev)
  | _, 0 => some ([], d)
  | h, n + 1 =>
    match d.readVirtual c.num c.root (htab + 4 * h) 4 with
    | none => none
    | some (bs, d) =>
      match tableEntry h (ofBytes bs) with
      | none => none
      | some e => (readTable d c htab (h + 1) n).map fun (l, d) => (e :: l, d)

/-- The logical shape of a packet (R103, R355). -/
def LaunchPacket.shape (p : LaunchPacket) (c : Context) (d : Dev) : Option (List HartShape × Dev) :=
  if p.htab = 0 then
    some ((List.range p.harts).map fun h =>
      { lhart := h, lcore := h / p.hpc, long := p.long, pav := pavCount p.long p.pav, mmode := p.mmode }, d)
  else readTable d c p.htab 0 p.harts

/-- The number of logical cores of a shape. -/
def coresOf (l : List HartShape) : Nat := l.foldl (fun n h => max n (h.lcore + 1)) 0

/-- The harts of one logical core, ascending. -/
def membersOf (l : List HartShape) (lcore : Nat) : List HartShape := l.filter fun h => h.lcore == lcore

/-! ### Pavilions -/

/-- The pavilions of a block as a mask. -/
def pavBlock (first n : Nat) : Nat := ones n <<< first

/-- The lowest free block of `n` pavilions whose first number is a multiple of `n` (R106 step 1). -/
def freeBlock (taken n : Nat) : Option Nat :=
  ([0, 1, 2, 3].find? fun q => q % n == 0 && q + n ≤ 4 && taken &&& pavBlock q n == 0).map fun q => pavBlock q n

/-- Long harts in the order of R106 step 1: more pavilions first, then lower logical numbers. -/
def longOrder (l : List HartShape) : List HartShape :=
  [4, 2, 1].flatMap fun n => l.filter fun h => h.long && h.pav == n

/-- The blocks of the long harts (R106 step 1): logical hart and mask, and every pavilion taken. -/
def placeLong : List HartShape → Nat → Option (List (Nat × Nat) × Nat)
  | [], taken => some ([], taken)
  | h :: t, taken =>
    match freeBlock taken h.pav with
    | none => none
    | some b => (placeLong t (taken ||| b)).map fun (l, u) => ((h.lhart, b) :: l, u)

/-- The placement of a logical core's harts beside the pavilions taken (R106): the pavilions of each hart, and all taken. -/
def placeCore (l : List HartShape) (taken : Nat) : Option (List (Nat × Nat) × Nat) :=
  let shorts := l.filter fun h => !h.long
  if shorts.isEmpty then placeLong (longOrder l) taken
  else if taken.testBit 3 then none
  else (placeLong (longOrder l) (taken ||| 8)).map fun (m, u) => (m ++ shorts.map fun h => (h.lhart, 8), u)

/-- The one widening of a block (R107): the block of twice its size that holds it, if the other half is free. -/
def widenOnce (block taken : Nat) : Option Nat :=
  let n := popCount 4 block
  if n = 1 || n = 2 then
    ([0, 2].find? fun q => q % (2 * n) == 0 && block &&& pavBlock q (2 * n) == block).bind fun q =>
      let b := pavBlock q (2 * n)
      if (b ^^^ block) &&& taken = 0 then some b else none
  else none

/-- The widening of a block, twice at most (R107). -/
def widen (block taken : Nat) : Nat :=
  match widenOnce block taken with
  | none => block
  | some b => (widenOnce b (taken ||| b)).getD b

/-- The widening of a core's long harts in ascending logical order (R107); `own` holds each hart's block. -/
def widenAll : List HartShape → List (Nat × Nat) → Nat → List (Nat × Nat)
  | [], own, _ => own
  | h :: t, own, taken =>
    match own.find? fun x => h.long && x.1 == h.lhart with
    | none => widenAll t own taken
    | some (_, b) =>
      let b' := widen b taken
      widenAll t (own.map fun x => if x.1 = h.lhart then (x.1, b') else x) (taken ||| b')

/-- RB of each hart (R106 step 3, R108), in half lane groups of C/32 bytes: short harts share pavilion 3. -/
def halfGroups (ns rank : Nat) : Nat :=
  if ns ≤ 4 then 2 * (4 / ns + (if rank < 4 % ns then 1 else 0)) else 8 / ns + (if rank < 8 % ns then 1 else 0)

/-- C of R108: bytes of register capacity that PB0 gives. -/
def registerCapacity (pb0 : Nat) : Nat := (pb0 * 65536 - 524288) / 64

/-- RB of a hart (R108), from the pavilions it holds and its logical core's harts. -/
def registerBytes (pb0 : Nat) (l : List HartShape) (h : HartShape) (pavilions : Nat) : Nat :=
  let c := registerCapacity pb0
  if h.long then pavilions * c / 4
  else
    let shorts := l.filter fun x => !x.long
    min (halfGroups shorts.length (shorts.filter fun x => x.lhart < h.lhart).length * c / 32) 4096

/-! ### Checks -/

/-- The reduction tree of a header and its 32 entries (R300), if it keeps to the table. -/
def treeOf (cores header : Nat) (entry : Nat → Nat) : Option Tree :=
  let n := bits 0 6 header
  let child (k : Nat) : Option Nat := if k = 0xFF then none else some k
  let kids := (List.range n).map fun i => (child (bits 0 8 (entry i)), child (bits 8 8 (entry i)))
  let all := kids.flatMap fun (a, b) => a.toList ++ b.toList
  let root := bits 8 5 header
  let ok := bits 32 32 header == 0 && bits 13 3 header == 0 && bits 6 2 header == 0 && 1 ≤ n && n ≤ 32 && root < n && n ≤ cores
    && (List.range 32).all (fun i => if i < n then bits 16 16 (entry i) == 0 else entry i == 0)
    && all.all (fun k => k < n && k != root) && all.eraseDups.length == all.length
    -- every member but the root is some member's child, and following children from the root reaches every member
    && ((List.range n).foldl (fun seen _ => (List.range n).foldl (fun seen i => if seen.contains i then
          match kids[i]? with
          | some (a, b) => (seen ++ a.toList ++ b.toList).eraseDups
          | none => seen
        else seen) seen) [root]).length == n
  if ok then some { tout := bits 16 16 header, root := root, children := kids } else none

/-- The trees of a record's bytes (R300). -/
def treesOf (cores count : Nat) (bs : List Byte) : Option (List Tree) :=
  let m (off n : Nat) : Nat := ofBytes ((bs.drop off).take n)
  (List.range count).foldr (fun t l => match l, treeOf cores (m (136 * t) 8) (fun i => m (136 * t + 8 + 4 * i) 4) with
    | some l, some x => some (x :: l)
    | _, _ => none) (some [])

/-- The tree record that a packet names (R300), and the device after its pages have been walked. -/
def LaunchPacket.readTrees (p : LaunchPacket) (c : Context) (cores : Nat) (d : Dev) : Option (List Tree × Dev) :=
  if p.trees = 0 then some ([], d)
  else if p.trees % 64 ≠ 0 then none
  else match d.readVirtual c.num c.root p.trees 8 with
    | none => none
    | some (bs, d) =>
      let k := ofBytes bs
      if k = 0 || 8 < k then none
      else match d.readVirtual c.num c.root (p.trees + 8) (136 * k) with
        | none => none
        | some (bs, d) => (treesOf cores k bs).map fun l => (l, d)

/-- The check of CSTAT (R356): the key of the status word, or none when the packet names none; an outer none fails. -/
def LaunchPacket.statusPlace (p : LaunchPacket) (c : Context) (d : Dev) : Option (Option Nat × Dev) :=
  if p.cstat = 0 then some (none, d)
  else if p.cstat % 8 ≠ 0 then none
  else (d.locate c.num c.root p.cstat 8 .store).map fun (pl, d) => (some pl.key, d)

/-- An SRF index lies within a context's rights. -/
def Context.owns (c : Context) (i : Nat) : Bool := c.srfBase ≤ i && i < c.srfBase + c.srfLen

/-- The conditions of R356 on the boundaries and the shape. -/
def shapeValid (p : LaunchPacket) (l : List HartShape) : Bool :=
  let n := coresOf l
  p.pb0 ≤ p.pb1 && p.pb1 ≤ p.pb2 && p.pb2 ≤ 128 && p.pb1 - p.pb0 ≤ 96
    && n ≤ 32 && (n + p.lcpd - 1) / p.lcpd ≤ 4
    && (List.range n).all fun c =>
      let m := membersOf l c
      !m.isEmpty && m.length ≤ 8 && (placeCore m 0).isSome && m.all (fun h => h.long || !h.mmode)
        && (m.filter fun h => h.mmode).length ≤ 2

/-- The conditions of R356 on SRF indices. -/
def rightsValid (p : LaunchPacket) (c : Context) : Bool :=
  (p.srfLen == 0 || (c.srfBase ≤ p.srfBase && p.srfBase + p.srfLen ≤ c.srfBase + c.srfLen))
    && p.depends.all (fun x => c.owns x.1) && p.signal.all c.owns

/-- What a head packet comes to (R356): it fails with a code, its status word's place if that passed its check, and
whether CIDX may be signalled; or it is valid, with its context, shape, trees and status word. -/
inductive Checked where
  | fails (code : Nat) (cstat : Option Nat) (signals : Bool)
  | valid (c : Context) (shape : List HartShape) (trees : List Tree) (cstat : Option Nat)
  deriving DecidableEq, Repr

/-- What the checks of R356 read of the packet's context holds an uncorrectable error, or its tables do (R351). -/
def LaunchPacket.meetsError (p : LaunchPacket) (d : Dev) : Bool :=
  (d.contextOf p.ctx).any fun c =>
    (p.cstat % 8 = 0 && p.cstat != 0 && d.ioError c.num c.root p.cstat 8 .store) ||
      (p.wellFormed && match p.shape c d with
        | none => d.readError c.num c.root p.htab (4 * p.harts)
        | some (l, d) => (p.readTrees c (coresOf l) d).isNone && p.trees % 64 = 0 &&
          d.readError c.num c.root p.trees
            (match d.readVirtual c.num c.root p.trees 8 with
             | none => 8
             | some (bs, _) => if ofBytes bs ≤ 8 then 8 + 136 * ofBytes bs else 8))

/-- The checks of R356, and the device after the pages they read have been walked. -/
def LaunchPacket.check (p : LaunchPacket) (d : Dev) : Checked × Dev :=
  match d.contextOf p.ctx with
  | none => (.fails 0x01 none false, d)
  | some c =>
    let signals := p.signal.any c.owns
    match p.statusPlace c d with
    | none => (.fails 0x01 none signals, d)
    | some (cstat, d) =>
      if !p.wellFormed then (.fails 0x01 cstat signals, d)
      else match p.shape c d with
        | none => (.fails 0x01 cstat signals, d)
        | some (l, d) =>
          if !(shapeValid p l && rightsValid p c) then (.fails 0x01 cstat signals, d)
          else match p.readTrees c (coresOf l) d with
            | none => (.fails 0x03 cstat signals, d)
            | some (t, d) => (.valid c l t cstat, d)

/-- Every dependence is met (R354). -/
def LaunchPacket.met (p : LaunchPacket) (d : Dev) : Bool :=
  p.depends.all fun (i, v) => decide (v ≤ (d.srfHome i).value.toNat % 2 ^ 32)

/-! ### Placement -/

/-- A resource is retired (R379): 2 a pavilion, 4 · core + number; 3 a core. -/
def Dev.isRetired (d : Dev) (kind num : Nat) : Bool := d.retired.contains (kind, num)

/-- The pavilions of a core that are retired (R379). -/
def Dev.retiredPavilions (d : Dev) (core : Nat) : Nat :=
  [0, 1, 2, 3].foldl (fun m q => if d.isRetired 2 (4 * core + q) then setBit m q true else m) 0

/-- The harts that stand on a core. -/
def State.residents (s : State) (core : Nat) : List Hart :=
  s.harts.filter fun h => h.ident.core == core && h.status != .idle

/-- The pavilions of a core that are taken (R106, R379). -/
def State.takenPavilions (s : State) (core : Nat) : Nat :=
  (s.residents core).foldl (fun m h => m ||| h.pavSet) (s.dev.retiredPavilions core)

/-- What a gang asks of a core: its split, and a logical core's harts. -/
structure Demand where
  pb0 : Nat
  pb1 : Nat
  pb2 : Nat
  members : List HartShape

/-- A core can take a logical core of a gang (R106, R361); on an empty device no hart stands there. -/
def State.coreTakes (s : State) (empty : Bool) (x : Demand) (core : Nat) : Bool :=
  let here := if empty then [] else s.residents core
  let taken := if empty then s.dev.retiredPavilions core else s.takenPavilions core
  let shares (h : Hart) : Bool :=
    match s.dev.gang h.ident.gang with
    | none => true
    | some g => g.pb1 == g.pb0 && x.pb1 == x.pb0 && g.pb0 == x.pb0 && g.pb2 == x.pb2
  !s.dev.isRetired 3 core && here.length + x.members.length ≤ 8 && here.all shares
    && (!(x.members.any fun h => h.mmode) || !(here.any fun h => h.mat.granted))
    && (placeCore x.members taken).isSome

/-- Logical cores find distinct cores on one die: some choice exists. -/
def dieTakes (takes : Nat → Nat → Bool) (die : Nat) : List Nat → List Nat → Bool
  | [], _ => true
  | lc :: t, used =>
    [0, 1, 2, 3, 4, 5, 6, 7].any fun k =>
      let c := 8 * die + k
      !used.contains c && takes lc c && dieTakes takes die t (c :: used)

/-- Logical dies find distinct dies that hold all their logical cores: some choice exists (R361). -/
def deviceTakes (takes : Nat → Nat → Bool) : List (List Nat) → List Nat → Bool
  | [], _ => true
  | lcs :: t, used =>
    [0, 1, 2, 3].any fun die => !used.contains die && dieTakes takes die lcs [] && deviceTakes takes t (die :: used)

/-- The logical dies of a shape: the logical cores of each (R355). -/
def logicalDies (lcpd cores : Nat) : List (List Nat) :=
  (List.range ((cores + lcpd - 1) / lcpd)).map fun d => (List.range cores).filter fun c => c / lcpd == d

/-- Some placement of the gang exists (R361), now or on an empty device. -/
def State.placeable (s : State) (empty : Bool) (p : LaunchPacket) (l : List HartShape) : Bool :=
  deviceTakes (fun lc c => s.coreTakes empty { pb0 := p.pb0, pb1 := p.pb1, pb2 := p.pb2, members := membersOf l lc } c)
    (logicalDies p.lcpd (coresOf l)) []

/-- How the head of a queue stands (R353, R361). -/
inductive HeadState where
  /-- No packet, or one whose dependences are unmet, or that cannot yet be placed. -/
  | waits
  /-- The packet fails. -/
  | fails (code : Nat) (cstat : Option Nat) (signals : Bool)
  /-- The gang can start. -/
  | ready (c : Context) (shape : List HartShape) (trees : List Tree) (cstat : Option Nat)
  /-- It could start on an empty device only. -/
  | crowded
  deriving DecidableEq, Repr

/-- The state of a queue's head (R353, R356, R361). -/
def State.headState (s : State) (q : Nat) : HeadState :=
  let x := s.dev.queue q
  if x.waiting = 0 then .waits
  else
    let p := s.dev.headPacket x
    match p.check s.dev with
    | (.fails c k b, _) => .fails c k b
    | (.valid c l t k, _) =>
      if !p.met s.dev then .waits
      else if s.placeable false p l then .ready c l t k
      else if s.placeable true p l then .crowded
      else .fails 0x02 k (p.signal.any c.owns)

end Sys2Proof.Machine
end

