-- ==== Sys2Proof/Machine/System.lean ====
section
/-!
DEFINITION. Fences and convoys (R69, R93, R181, R182, R326, R335, R336), calls into the supervisor, the return from it
and waiting (R84, R97, R98).
-/

namespace Sys2Proof.Machine

/-! ### Fences -/

/-- The set of a fence holds scalar accesses, vector accesses, engine threads (R37). -/
def fenceS (x : BitVec 3) : Bool := x.getLsbD 0

/-- Bit 1 of a fence's set. -/
def fenceV (x : BitVec 3) : Bool := x.getLsbD 1

/-- Bit 2 of a fence's set. -/
def fenceE (x : BitVec 3) : Bool := x.getLsbD 2

/-- The kinds of entry a predecessor set names. -/
def inSet (x : BitVec 3) : AccessKind → Bool
  | .scalar => fenceS x
  | .vector => fenceV x

/-- The marks of R323 on the hart's own entries that a fence with sets x and y has ordered: an engine thread sees them when
it is forked after the fence, as number `thread` or a later one. -/
def WcbEntry.fenced (e : WcbEntry) (x y : BitVec 3) (thread : Nat) : WcbEntry :=
  if inSet x e.kind then
    { e with seenS := e.seenS || fenceS y, seenV := e.seenV || fenceV y
             seenE := e.seenE.or (if fenceE y then some thread else none) }
  else e

/-- The drain of a vector fence under DETM.DRAIN (R335). -/
def State.vectorFence (s : State) : State := if s.hart.detm.drain then drainRanked (fun _ => true) s.core.wcb.length s else s

/-- Under DETM.DRAIN a vector fence waits while other harts of the core have provisional entries (R85, R335). -/
def awaitProvisional : M Unit := fun s =>
  if s.hart.detm.drain && s.core.wcb.any fun e => e.prov.isSome && e.hart != s.hart.ident.uid then waitHere s else .ok ((), s)

/-- What a fence performs (R326, R335): the accesses its predecessor set names at its scope, under DETM.DRAIN after every
entry of the core in logical order, and the marks of its successor set. -/
def State.fence (s : State) (x y : BitVec 3) (sc : Scope) : State :=
  let s := if fenceV x || fenceV y then s.vectorFence else s
  let s := if fenceV x then s.applyOwnCombines else s
  let s := s.performAt sc (inSet x)
  let s := if fenceV x && sc.beyondCore then s.fenceEpoch else s
  let mark (e : WcbEntry) : WcbEntry :=
    if e.hart = s.hart.ident.uid && e.prov.isNone then e.fenced x y s.dev.nextId else e
  let s := { s with core := { s.core with wcb := s.core.wcb.map mark } }
  s.closeEntries

/-- An engine thread that the hart forked has not completed (R330): streams and loads are left out, an ERUN or EFRONT completes
before anything behind it leaves the VIQ, and a reduction packet is complete once its round has accepted it. -/
def State.threadsPending (s : State) : Bool :=
  (s.core :: s.cores).any fun k => k.copies.any fun c => c.owner = s.hart.ident.uid

/-- FENCE (R69, R326). -/
def execFence (sc x y : BitVec 3) (s : State) : Res :=
  complete4 (do
    if fenceE x && (← get).threadsPending then
      modify State.engineProgress
      waitHere
    else
      if fenceV x || fenceV y then awaitProvisional
      modify fun s => s.fence x y (scopeOf sc)
      if fenceV x then awaitCombines
      awaitPosted (scopeOf sc)) s

/-- What a VFENCE performs (R181, R324, R335). -/
def State.vfence (s : State) (sc : Scope) : State :=
  let s := s.vectorFence.applyOwnCombines.performAt sc (inSet 2#3)
  ((if sc.beyondCore then s.fenceEpoch else s).closeEntries).setVstart 0

/-- VFENCE (R181). -/
def execVfence (sc : BitVec 3) (s : State) : Res :=
  complete4 (do
    awaitProvisional
    modify fun s => s.vfence (scopeOf sc)
    awaitCombines
    awaitPosted (scopeOf sc)) s

/-- CVB (R336). -/
def execCvb (s : State) : Res :=
  complete4 (do
    if (← get).hart.detm.convoy then
      modify State.applyOwnCombines
      awaitCombines
    modify fun s =>
      let c := s.hart.counts
      ({ s with hart := { s.hart with counts := { c with convoy := c.convoy + 1 } } }).setVstart 0) s

/-! ### TFENCE -/

/-- A hart lies within a scope of the hart at the front (R321). -/
def State.within (s : State) (sc : Scope) (h : Hart) : Bool :=
  match sc with
  | .hart => h.ident.uid = s.hart.ident.uid
  | .core => h.ident.core = s.hart.ident.core
  | .die => h.ident.die = s.hart.ident.die
  | .device | .system => true

/-- The translations of the context in a hart's caches are dropped, and its pins rely on a dropped translation (R93). -/
def Hart.dropTranslations (h : Hart) : Hart :=
  let stale (p : FetchPin) : FetchPin := { p with stale := true }
  { h with tlb := [], fetchPin := h.fetchPin.map stale
           load := h.load.map fun l => { l with stale := true }
           pinned := h.pinned.map fun p => { p with stale := true }
           edge := h.edge.map fun e => { e with stale := true }
           ahead := h.ahead.map fun a => { a with now := { a.now with fetchPin := a.now.fetchPin.map stale } } }

/-- A pin of the hart relies on a dropped translation (R92, R93, R94, R170). -/
def Hart.holdsStale (h : Hart) : Bool :=
  (h.fetchPin.any FetchPin.stale) || (h.load.any OutstandingLoad.stale) || (h.pinned.any Pinned.stale) ||
    h.ahead.any fun a => a.now.fetchPin.any FetchPin.stale

/-- A pin that outlasts an access relies on a dropped translation (R93): of the graphs of harts in the scope (R287), of the pools
of the context (R249), of the status words of its gangs (R356). -/
def State.longPin (s : State) (sc : Scope) : Bool :=
  ((s.hart :: s.parked).any fun h => h.ctx = s.hart.ctx && s.within sc h && h.edge.any fun e => e.stale && !e.pages.isEmpty) ||
  (sc.beyondCore && s.dev.regions.any fun r => r.ctx = s.hart.ctx && r.stale && !r.pages.isEmpty) ||
  (sc = .system && s.dev.gangs.any fun g => g.ctx = s.hart.ctx && g.cstatStale && g.cstat.isSome)

/-- The long pins of the context rely on a dropped translation: beyond one core those of its pools, at scope system, which reaches
the I/O die, those of the status words of its gangs (R93). -/
def Dev.dropPins (d : Dev) (ctx : Nat) (sc : Scope) : Dev :=
  { d with
    regions := d.regions.map fun r => if sc.beyondCore && r.ctx = ctx then { r with stale := true } else r
    gangs := d.gangs.map fun g => if sc = .system && g.ctx = ctx then { g with cstatStale := true } else g }

/-- The scalar accesses of the harts within the scope that are still to be performed, and pin their pages (R92), are performed. -/
def State.landWithin (s : State) (sc : Scope) : State :=
  ((s.parked.filter fun h => h.ctx = s.hart.ctx && s.within sc h && !h.late.isEmpty).map fun h => h.ident.uid).foldl
    (fun s u => s.atHart u State.landAll) s.landAll

/-- The first two effects of TFENCE (R93): the hart's stores are applied, and the translations of the context within the
scope are dropped. -/
def State.dropContext (s : State) (sc : Scope) : State :=
  let s := s.landWithin sc
  let s := s.drainHart s.hart.ident.uid
  let f (h : Hart) : Hart := if h.ctx = s.hart.ctx && s.within sc h then h.dropTranslations else h
  let s := s.mapHarts f
  let s := { s with dev := s.dev.dropPins s.hart.ctx sc }
  let s := if sc = .system then { s with dev := s.dev.dropIo s.hart.ctx none } else s
  { s with hart := { s.hart with fetchPin := none, tfencing := true } }

/-- TFENCE (R93): in U it is illegal (R38). -/
def execTfence (sc : BitVec 3) (s : State) : Res :=
  complete4 (do
    need (s.hart.priv = .s) (illegal (.tfence sc))
    let scope := scopeOf sc
    if !s.hart.tfencing then modify fun s => s.dropContext scope
    let s ← get
    if ((s.parked.any fun h => h.ctx = s.hart.ctx && s.within scope h && h.holdsStale) || s.longPin scope) then waitHere
    else modify fun s => { s with hart := { s.hart with tfencing := false } }) s

/-! ### Calls, return, waiting -/

/-- ECALL (R97): in U with service 0 the hart's part of the kernel ends (R359). -/
def execEcall (s : State) : Res :=
  let ends := s.hart.priv = .u && s.x 17 = 0 && !s.hart.trap.status.eip
  let s := s.takeTrap { cause := .ecall }
  .next (if ends then { s with hart := { s.hart with status := .ended } } else s)

/-- EBREAK (R97). -/
def execEbreak (s : State) : Res := .next (s.takeTrap { cause := .ebreak })

/-- TRET (R84): a context image at TINFO0 is restored when CTXV is set; in U it is illegal (R38). The TRET is counted before
the image's INSTRET is loaded, so it does not count in what it leaves: R10 and R96 give no order (a DESIGN CHOICE). -/
def execTret (s : State) : Res :=
  if s.hart.priv = .u then .next (s.takeTrap (illegal .tret))
  else
    let s := s.count .s
    if s.hart.trap.status.ctxv then .next (s.restoreContext s.hart.trap.tinfo0.toNat)
    else
      let c := s.dev.freeCount
      .next { s with dev := { s.dev with freeCount := c + 5 }, hart := s.hart.trapReturn (freeVType c) }

/-- An interrupt is pending (R78). -/
def TStatus.pending (t : TStatus) : Bool := t.tpend || t.ppend || t.hpend

/-- WFI (R98): it waits until an interrupt is pending; in U it is illegal (R38). -/
def execWfi (s : State) : Res :=
  complete4 (do
    need (s.hart.priv = .s) (illegal .wfi)
    if s.hart.trap.status.pending then modify fun s => { s with hart := { s.hart with inWfi := false } }
    else
      modify fun s => { s with hart := { s.hart with inWfi := true } }
      waitHere) s

end Sys2Proof.Machine
end

