-- ==== Sys2Proof/Machine/Launch.lean ====
section
/-!
DEFINITION. The life of a gang: its start (R356, R357, R361, R372), its completion (R359, R360), its pre-emption and its
resumption (R362 to R364).
-/

namespace Sys2Proof.Machine

/-! ### Where the scheduler places a gang -/

/-- A choice of the scheduler: the physical core of each logical core, the slot of each logical hart. -/
structure Placing where
  core : Nat → Nat
  slot : Nat → Nat

/-- The choice that an event names: five bits for each logical core, three for each logical hart. -/
def Placing.of (cores : BitVec 160) (slots : BitVec 768) : Placing :=
  { core := fun c => bits (5 * c) 5 cores.toNat, slot := fun h => bits (3 * h) 3 slots.toNat }

/-- The split and the grouping of a gang. -/
structure Layout where
  pb0 : Nat
  pb1 : Nat
  pb2 : Nat
  lcpd : Nat
  shape : List HartShape

/-- The demand of a logical core. -/
def Layout.demand (y : Layout) (lc : Nat) : Demand :=
  { pb0 := y.pb0, pb1 := y.pb1, pb2 := y.pb2, members := membersOf y.shape lc }

/-- The choice keeps to R106 and R361: distinct cores that take their logical cores, one physical die for each logical
die, free slots. -/
def State.placingValid (s : State) (y : Layout) (z : Placing) : Bool :=
  let n := coresOf y.shape
  let lcs := List.range n
  (lcs.map z.core).eraseDups.length == n
    && lcs.all (fun a => s.coreTakes false (y.demand a) (z.core a))
    && lcs.all (fun a => lcs.all fun b => (a / y.lcpd == b / y.lcpd) == (z.core a / 8 == z.core b / 8))
    && y.shape.all fun h =>
      !((s.residents (z.core h.lcore)).any fun r => r.ident.slot == z.slot h.lhart)
        && !((membersOf y.shape h.lcore).any fun r => r.lhart != h.lhart && z.slot r.lhart == z.slot h.lhart)

/-- A hart put on its slot. -/
def State.putHart (s : State) (h : Hart) : State :=
  if s.hart.ident.uid = h.ident.uid then { s with hart := h }
  else { s with parked := h :: s.parked.filter fun r => r.ident.uid != h.ident.uid }

/-- A change of the core with a number. -/
def State.mapCore (s : State) (id : Nat) (f : Core → Core) : State :=
  s.atCore id fun s => { s with core := f s.core }

/-- The identity of a hart (R104). -/
def identOf (gang : Nat) (lcpd : Nat) (h : HartShape) (z : Placing) : Ident :=
  { gang := gang, slot := z.slot h.lhart, lhart := h.lhart, lcore := h.lcore, core := z.core h.lcore
    ldie := h.lcore / lcpd, die := z.core h.lcore / 8 }

/-- The pavilions that each hart of a logical core holds on a core (R106, and R107 where a gang is widened). -/
def State.allot (s : State) (y : Layout) (widened : Bool) (lc core : Nat) : List (Nat × Nat) :=
  let l := membersOf y.shape lc
  match placeCore l (s.takenPavilions core) with
  | none => []
  | some (own, taken) => if widened then widenAll l own taken else own

/-! ### Starting -/

/-- A hart as a launch starts it (R357), and as a reset restarts it (R365): everything but who and where it is. -/
def freshHart (ident : Ident) (c : Context) (entry : Word) (detm : Detm) (granted : Bool) (rb pavilions pavSet : Nat) :
    Hart :=
  { ident := ident, status := .running, ctx := c.num, root := c.root, pc := entry
    trap := { tvec := c.tvec, status := { tcount := c.tcount } }
    rb0 := rb, pavilions := pavilions, pavSet := pavSet, detm := detm, mat := { granted := granted } }

/-- The harts of one logical core start on its core (R106, R107, R108, R357). -/
def State.startCore (g : Gang) (c : Context) (z : Placing) (s : State) (lc : Nat) : State :=
  let y : Layout := { pb0 := g.pb0, pb1 := g.pb1, pb2 := g.pb2, lcpd := g.lcpd, shape := g.shape }
  let l := membersOf g.shape lc
  let own := s.allot y (!g.detm.arb) lc (z.core lc)
  let s := s.mapCore (z.core lc) fun k => { k with pb0 := g.pb0, pb1 := g.pb1, pb2 := g.pb2 }
  l.foldl (fun s h =>
    let set := ((own.find? fun x => x.1 == h.lhart).map (·.2)).getD 0
    let pav := if h.long then popCount 4 set else 0
    s.putHart (freshHart (identOf g.id g.lcpd h z) c g.entry g.detm h.mmode (registerBytes g.pb0 l h pav) pav set)) s

/-- The power fields of a packet against the grant (R372): FMIN, PMAX, BOOST, CLIP. -/
def LaunchPacket.power (p : LaunchPacket) (c : Context) : Nat × Nat × Bool × Bool :=
  let fmin := min c.fmin 2250
  let pmax := min (if c.pmax = 0 then 2400 else c.pmax) 2400
  (min p.fmin fmin, if p.pmax = 0 then pmax else min p.pmax pmax, p.boost && c.boost,
    fmin < p.fmin || pmax < p.pmax || (p.boost && !c.boost))

/-- The gang of a packet. -/
def LaunchPacket.gang (p : LaunchPacket) (id : Nat) (c : Context) (l : List HartShape) (t : List Tree)
    (cstat : Option Nat) : Gang :=
  let (fmin, pmax, boost, clip) := p.power c
  { id := id, ctx := c.num, prio := p.prio, entry := p.entry, detm := p.detm, pb0 := p.pb0, pb1 := p.pb1, pb2 := p.pb2
    lcpd := p.lcpd, shape := l, srfBase := p.srfBase, srfLen := p.srfLen, trees := t, signal := p.signal, cstat := cstat
    cstatVa := p.cstat, replay := p.replay, log := p.log, boost := boost, fmin := fmin, pmax := pmax, clip := clip
    order := id }

/-- What widening has left each hart stands in the gang's shape (R107, R364). -/
def State.settleShape (s : State) (id : Nat) : State :=
  let held (h : HartShape) : HartShape :=
    match (s.hartsOf id).find? fun r => r.ident.lhart == h.lhart with
    | some r => { h with pav := r.pavilions }
    | none => h
  let f (g : Gang) : Gang := { g with shape := g.shape.map held }
  { s with dev := s.dev.mapGang id f }

/-- HEAD goes on to the next packet (R353). -/
def Dev.advanceHead (d : Dev) (q : Nat) : Dev :=
  let x := d.queue q
  d.setQueue q { x with head := (x.head + 1) % 2 ^ 32 }

/-- A gang starts (R357). -/
def State.startGang (s : State) (q : Nat) (p : LaunchPacket) (c : Context) (l : List HartShape) (t : List Tree)
    (cstat : Option Nat) (z : Placing) : State :=
  let id := s.dev.nextId
  let g := p.gang id c l t cstat
  let s : State := { s with dev := { s.dev with nextId := id + 1, gangs := s.dev.gangs ++ [g] } }
  let s := ((List.range (coresOf l)).foldl (State.startCore g c z) s).settleShape id
  State.checkFlow { s with dev := (s.dev.advanceHead q).updateBoost }

/-- The completion status word (R360). -/
def completionWord (code : Nat) (flow clip : Bool) (lhart cause : Nat) : Word :=
  word (2 ^ 63 + code % 2 ^ 7 * 2 ^ 56 + flow.toNat * 2 ^ 49 + clip.toNat * 2 ^ 48 + lhart % 2 ^ 8 * 2 ^ 40
    + cause % 2 ^ 8 * 2 ^ 32)

/-- A doubleword that the device itself writes at a key. -/
def State.writeWord (s : State) (key : Nat) (w : Word) : State := s.apply 256 key (bytesOf 8 w.toNat) {}

/-- The status word and the signal of a completion (R356, R359). -/
def State.report (s : State) (cstat signal : Option Nat) (w : Word) (ok : Bool) : State :=
  let s := match cstat with | some k => s.writeWord k w | none => s
  match signal with | some i => { s with dev := s.dev.signal i ok } | none => s

/-- A packet fails (R356). -/
def State.failPacket (s : State) (q : Nat) (p : LaunchPacket) (code : Nat) (cstat : Option Nat) (signals : Bool) : State :=
  let clip := (s.dev.contextOf p.ctx).any fun c => (p.power c).2.2.2
  let d := (((p.check s.dev).2.noteIf (p.meetsError s.dev)).record (.launchError q (s.dev.queue q).head code)).advanceHead q
  ({ s with dev := d }).report cstat (if signals then p.signal else none) (completionWord code false clip 0 0) false

/-- Of the heads that could start, this one goes first: the lowest PRIO, then the lowest queue (R361). -/
def State.goesFirst (s : State) (q prio : Nat) : Bool :=
  (List.range 64).all fun r =>
    match s.headState r with
    | .ready _ _ _ _ =>
      let other := (s.dev.headPacket (s.dev.queue r)).prio
      !(other < prio || (other == prio && r < q))
    | _ => true

/-- GANG_START (R353, R356, R357, R361): the head of a queue starts where the scheduler has chosen, or fails. -/
def execGangStart (q : BitVec 6) (cores : BitVec 160) (slots : BitVec 768) (s : State) : Res :=
  let p := s.dev.headPacket (s.dev.queue q.toNat)
  match s.headState q.toNat with
  | .waits | .crowded => .next s
  | .fails code cstat signals => .next (s.failPacket q.toNat p code cstat signals)
  | .ready c l t cstat =>
    let z := Placing.of cores slots
    let y : Layout := { pb0 := p.pb0, pb1 := p.pb1, pb2 := p.pb2, lcpd := p.lcpd, shape := l }
    let s' : State := { s with dev := (p.check s.dev).2 }
    happens s (s.goesFirst q.toNat p.prio && s.placingValid y z) (s'.startGang q.toNat p c l t cstat z)

/-! ### Completing -/

/-- The accesses of a hart are performed at system scope, and its ERUN or EFRONT ends (R359 steps 1 and 2). -/
def State.performAll (s : State) : State :=
  let s := s.discard
  let s := if s.hart.edgeRun.isSome then s.finishEdge else s
  s.applyOwnCombines.performAt .system fun _ => true

/-- A store or combine of the harts with these numbers, or a copy of the gang, waits for a port that reaches its peer (R321,
R378). -/
def State.heldUp (s : State) (gang : Nat) (uids : List Nat) : Bool :=
  s.dev.windows.any (fun w => w.isCut && w.posted.any fun p => uids.contains p.hart)
    || s.dev.combines.any (fun c => uids.contains c.hart)
    || (s.core :: s.cores).any fun k => k.copies.any fun c => c.gang == gang && c.waits s.dev

/-- A gang that is to complete with an error while its accesses are held up: its harts stand at their positions (R359). -/
def State.stopGang (s : State) (g : Gang) (code lhart cause : Nat) : State :=
  let s := s.mapHarts fun h => if h.ident.gang = g.id && h.live then { h with status := .stopped } else h
  if s.dev.failing.any fun x => x.1 == g.id then s
  else { s with dev := { s.dev with failing := s.dev.failing ++ [(g.id, code, lhart, cause)] } }

/-- The numbers of the cores that hold something. -/
def State.coreIds (s : State) : List Nat := (s.core :: s.cores).map fun c => c.id

/-- The copies of a gang complete (R359 step 2). -/
def State.finishCopies (s : State) (gang : Nat) : State :=
  s.coreIds.foldl (fun s id => s.atCore id fun s =>
    (s.core.copies.filter fun c => c.gang == gang).foldl State.finishCopy s) s

/-- A gang's entries leave every task queue (R116, R359). -/
def State.dropTasks (s : State) (gang : Nat) : State :=
  let f (c : Core) : Core := { c with tasks := c.tasks.filter fun e => e.2 != gang }
  { s with core := f s.core, cores := s.cores.map f }

/-- A gang's harts leave their slots. -/
def State.vacate (s : State) (gang : Nat) : State :=
  { s with
    hart := if s.hart.ident.gang = gang && s.hart.status != .idle then Hart.vacant s.hart.ident.uid else s.hart
    parked := s.parked.filter fun h => !(h.ident.gang == gang && h.status != .idle) }

/-- A gang completes with a code (R359, R360), once no access of it is held up. -/
def State.completeGang (s : State) (g : Gang) (code lhart cause : Nat) : State :=
  let uids := (s.hartsOf g.id).map fun h => h.ident.uid
  let s := uids.foldl (fun s u => s.atHart u State.performAll) s
  if s.heldUp g.id uids then (if code = 0 then s else s.stopGang g code lhart cause) else
  let s := ((s.finishCopies g.id).dropTasks g.id).vacate g.id
  let d := { s.dev with
    regions := s.dev.regions.filter fun r => r.gang != g.id
    gangs := s.dev.gangs.filter fun x => x.id != g.id
    failing := s.dev.failing.filter fun x => x.1 != g.id }
  (State.report { s with dev := d.updateBoost } g.cstat g.signal
    (completionWord code (((s.dev.gang g.id).map (·.flow)).getD g.flow) g.clip lhart cause) (code = 0))

/-- GANG_COMPLETE (R359): the last hart has ended, or a double trap has stopped one. -/
def execGangComplete (gang : BitVec 32) (s : State) : Res :=
  match s.dev.gang gang.toNat with
  | none => .next s
  | some g =>
    match s.dev.failing.find? fun x => x.1 == g.id with
    | some (_, code, lhart, cause) => .next (s.completeGang g code lhart cause)
    | none =>
      happens s (g.status = .running && (s.hartsOf g.id).all fun h => h.status == .ended) (s.completeGang g 0 0 0)

/-- ENDED_BY_SUPERVISOR_SIDE (R360): the gang completes with code 0x05. -/
def execEndedBySupervisorSide (gang : BitVec 32) (s : State) : Res :=
  match s.dev.gang gang.toNat with
  | none => .next s
  | some g => .next (s.completeGang g 0x05 0 0)

/-! ### Pre-empting -/

/-- A size rounded up to 4 KiB. -/
def pageUp (n : Nat) : Nat := (n + 4095) / 4096 * 4096

/-- Bytes of a gang's scratchpad on one core. -/
def Gang.scratch (g : Gang) : Nat := (g.pb1 - g.pb0) * 65536

/-- Where the parts of a gang record begin after its header (R363): the task entries, the scratchpad images, the areas'
addresses, the end. -/
def Gang.recordParts (g : Gang) : Nat × Nat × Nat × Nat :=
  let harts := g.shape.length
  let cores := coresOf g.shape
  let a := 0x88 + 24 * harts
  let b := a + 2048 * cores
  let c := b + g.scratch * cores
  (a, b, c, c + 8 * harts)

/-- The bytes of a hart's save area (R96). -/
def Hart.areaSize (h : Hart) : Nat :=
  contextSize (if h.mat.mvl = 0 then h.rb0 else 32 * h.mat.mvl) h.mat.mvl

/-- The save pool of the gang's context holds its save areas and its record (R384). -/
def State.poolHolds (s : State) (g : Gang) : Bool :=
  (s.dev.contextOf g.ctx).any fun c =>
    decide ((s.hartsOf g.id).foldl (fun n h => n + pageUp h.areaSize) (pageUp g.recordParts.2.2.2) ≤ c.saveSize)

/-- The gang that is pre-empted next (R362, R384): class 3 first, and within a class the most recently started; never of
class 0, never one that its save pool cannot hold. -/
def State.victim (s : State) : Option Gang :=
  (s.dev.gangs.filter fun g => g.status == .running && g.prio != 0 && s.poolHolds g).foldl (fun b g => match b with
    | none => some g
    | some x => if x.prio < g.prio || (x.prio == g.prio && x.order < g.order) then some g else some x) none

/-- A class-0 packet at a queue's head finds no place now (R362). -/
def State.starved (s : State) : Bool :=
  (List.range 64).any fun q => s.headState q == .crowded && (s.dev.headPacket (s.dev.queue q)).prio == 0

/-- The save areas and the record that the scheduler names keep to the pool, and no two overlap (R95, R363). -/
def areasValid (c : Context) : List (Nat × Nat) → Bool
  | [] => true
  | (a, n) :: t =>
    a % 4096 == 0 && c.save ≤ a && a + n ≤ c.save + c.saveSize && !(t.any fun (b, m) => overlaps a n b m) && areasValid c t

/-- The hart can take a PREEMPT now (R83), or has ended; no combine of it is held up (R329). -/
def State.preemptible (s : State) (h : Hart) : Bool :=
  let t := s.select h.ident.uid
  !t.saveWaits && (h.status == .ended || (h.atBoundary && !t.posting && (h.priv == .u || h.trap.status.ie)))

/-- The copy reads or writes the local window (R89). -/
def Copy.usesWindow (c : Copy) : Bool :=
  c.ranges.any fun (a, n) => spansMeet a n Config.windowBase Config.windowSize

/-- A copy that stays with its gang when its harts leave, and that reads or writes their scratchpad (R202, R363). -/
def Copy.staysInWindow (c : Copy) (gang : Nat) : Bool :=
  c.gang == gang && c.usesWindow && (match c.target with | .srf _ => true | .scalar _ => false)

/-- The gang's copies on its scratchpads end before it leaves its cores, so that none touches the scratchpad of another gang
(R7, R363). -/
def State.finishWindowCopies (s : State) (gang : Nat) : State :=
  s.coreIds.foldl (fun s id => s.atCore id fun s =>
    (s.core.copies.filter fun c => c.staysInWindow gang).foldl State.finishCopy s) s

/-- None of those copies waits for a port that reaches a peer (R378). -/
def State.windowCopiesReady (s : State) (gang : Nat) : Bool :=
  (s.core :: s.cores).all fun k => !(k.copies.any fun c => c.staysInWindow gang && c.waits s.dev)

/-- The metadata of the blocks of a core's scratchpad, numbered from its first (R338, R339). -/
def Dev.scratchBlocks (d : Dev) (core size : Nat) : List (Nat × BlockMeta) :=
  let lo := scratchKey core 0 / 64
  (d.blocks.filter fun b => lo ≤ b.1 && b.1 < lo + size / 64).map fun b => (b.1 - lo, b.2)

/-- The metadata of a core's scratchpad replaced. -/
def Dev.setScratchBlocks (d : Dev) (core size : Nat) (l : List (Nat × BlockMeta)) : Dev :=
  let lo := scratchKey core 0 / 64
  let rest := d.blocks.filter fun b => !(lo ≤ b.1 && b.1 < lo + size / 64)
  { d with blocks := l.foldl (fun m b => sparseSet {} m (lo + b.1) b.2) rest }

/-- The owner number of a copy that goes on while its hart is off its core (R202). -/
def awayOwner (gang lhart : Nat) : Nat := 1024 + 256 * gang + lhart

/-- The owner of a hart's copies changes. -/
def State.renameCopies (s : State) (old new : Nat) : State :=
  let f (c : Copy) : Copy := if c.owner = old then { c with owner := new } else c
  let g (k : Core) : Core := { k with copies := k.copies.map f }
  { s with core := g s.core, cores := s.cores.map g }

/-- What stays of a hart beside its area (R363, R364). -/
def Hart.saved (h : Hart) (area : Nat) : SavedHart :=
  { ident := h.ident, area := word area, status := h.status, pavilions := h.pavilions, rb0 := h.rb0, granted := h.mat.granted
    edge := h.edge, cycle := h.counts.cycle, seen := h.srfSeen, ordered := h.ordered }

/-- A hart's context is saved, and it enters the PREEMPT trap (R95, R363). -/
def State.saveHart (s : State) (uid area : Nat) : State :=
  s.atHart uid fun s => State.interrupt .preempt { s with hart := s.hart.request (word area) }

/-- The three doublewords of a hart's graph in the gang record (R363). -/
def edgeImage (e : Option EdgeBinding) : Nat :=
  match e with
  | none => 0
  | some b => packItems 64 [b.desc.toNat, b.shareWord.toNat, b.bodyAt.toNat]

/-- The gang record (R363): each piece's offset, its bytes, its number. -/
def Gang.recordImage (g : Gang) (harts : List SavedHart) (tasks : Nat → List Word) (scratch : Nat → Nat) :
    List (Nat × Nat × Nat) :=
  let n := coresOf g.shape
  let (a, b, c, e) := g.recordParts
  [(0, 8, 1 + n % 2 ^ 16 * 2 ^ 16 + (e + 63) / 64 * 2 ^ 32), (8, 128, packItems 64 (g.ring.toList.map BitVec.toNat))]
    ++ harts.map (fun h => (0x88 + 24 * h.ident.lhart, 24, edgeImage h.edge))
    ++ (List.range n).map (fun k => (a + 2048 * k, 2048, packItems 64 ((tasks k).map BitVec.toNat)))
    ++ (List.range n).map (fun k => (b + g.scratch * k, g.scratch, scratch k))
    ++ harts.map fun h => (c + 8 * h.ident.lhart, 8, h.area.toNat)

/-- Every post on its way is delivered (R316). -/
def Gang.deliverAll (g : Gang) : Gang := g.posts.foldl (fun g _ => g.deliverNext) g

/-- A whole gang is saved and taken off its cores (R363). -/
def State.preemptGang (s : State) (g : Gang) (record : Nat) (area : Nat → Nat) : State :=
  let harts := s.hartsOf g.id
  let s := harts.foldl (fun s h => if h.status = .running then s.saveHart h.ident.uid (area h.ident.lhart)
    else s.atHart h.ident.uid State.leaveCore) s
  let s := s.finishWindowCopies g.id
  let g := g.deliverAll
  let saved := harts.map fun h => h.saved (if h.status = .running then area h.ident.lhart else 0)
  let core (k : Nat) : Nat := ((harts.find? fun h => h.ident.lcore == k).map fun h => h.ident.core).getD 0
  let tasks (k : Nat) : List Word := ((s.coreOf (core k)).tasks.filter fun e => e.2 == g.id).map (·.1)
  let blocks := (List.range (coresOf g.shape)).map fun k => (k, s.dev.scratchBlocks (core k) g.scratch)
  let image := g.recordImage saved tasks fun k => s.dev.read (scratchKey (core k) 0) g.scratch
  let d := image.foldl (fun d (off, n, v) => d.writeNumber (deviceKey (record + off)) n v) s.dev
  let away (x : Gang) : Gang :=
    { x with status := .preempted, saved := saved, savedTasks := (List.range (coresOf g.shape)).map fun k => (k, tasks k)
             savedBlocks := blocks, record := record, ring := g.ring, posts := [] }
  let s := saved.foldl (fun s h => s.renameCopies h.ident.uid (awayOwner g.id h.ident.lhart)) { s with dev := d.mapGang g.id away }
  let s := (s.dropTasks g.id).vacate g.id
  { s with dev := s.dev.updateBoost }

/-- GANG_PREEMPT (R362, R363): to make room for a class-0 packet, the scheduler saves a whole gang into the areas it
names (56 bits for each logical hart) and writes its record. -/
def execGangPreempt (gang : BitVec 32) (record : BitVec 56) (areas : BitVec 14336) (s : State) : Res :=
  match s.dev.gang gang.toNat with
  | none => .next s
  | some g =>
    let harts := s.hartsOf g.id
    let area (h : Nat) : Nat := bits (56 * h) 56 areas.toNat
    let places := (record.toNat, g.recordParts.2.2.2) ::
      (harts.filter fun h => h.status == .running).map fun h => (area h.ident.lhart, h.areaSize)
    happens s (s.starved && s.windowCopiesReady g.id && (s.victim.any fun v => v.id == g.id) && harts.all s.preemptible &&
        (s.dev.contextOf g.ctx).any fun c => areasValid c places)
      (s.preemptGang g record.toNat area)

/-! ### Resuming -/

/-- A page pinned again (R364): the physical page that the tables now give, or the old one where they give none. -/
def repin (root : Nat) (d : Dev) (p : EdgePage) : Dev × EdgePage :=
  match walkPage d root .s (p.vpn * 4096) .load with
  | .ok (e, d) => (d, { p with frame := e.frame })
  | .error _ => (d, p)

/-- A page as the tables map it now: whole, or by its 4 KiB pages where they map it by smaller ones. -/
def EdgePage.pieces (p : EdgePage) (root : Nat) (d : Dev) : List EdgePage :=
  match walkPage d root .s (p.vpn * 4096) .load with
  | .ok (e, _) => if p.span ≤ e.pages then [p]
    else (List.range p.span).map fun i => { vpn := p.vpn + i, span := 1, frame := p.frame + 4096 * i }
  | .error _ => [p]

/-- A graph's pages pinned again (R364). -/
def State.repinEdge (s : State) (root : Nat) : Option EdgeBinding → State × Option EdgeBinding
  | none => (s, none)
  | some e =>
    let again (a : Dev × List EdgePage) (p : EdgePage) : Dev × List EdgePage :=
      let (d, q) := repin root a.1 p
      (d, a.2 ++ [q])
    let (d, pages) := (e.pages.flatMap fun p => p.pieces root s.dev).foldl again (s.dev, [])
    ({ s with dev := d }, some { e with pages := pages, stale := false })

/-- A hart of a resumed gang stands on its new slot and takes its context back (R84, R96, R364). -/
def State.resumeHart (g : Gang) (c : Context) (z : Placing) (own : List (Nat × Nat)) (s : State) (x : SavedHart) : State :=
  let shape : HartShape :=
    { lhart := x.ident.lhart, lcore := x.ident.lcore, long := x.pavilions != 0, pav := x.pavilions, mmode := x.granted }
  let set := ((own.find? fun o => o.1 == x.ident.lhart).map (·.2)).getD 0
  let ident := identOf g.id g.lcpd shape z
  let (s, edge) := s.repinEdge c.root x.edge
  let h := freshHart ident c g.entry g.detm x.granted x.rb0 x.pavilions set
  let h : Hart := { h with edge := edge, counts := { h.counts with cycle := x.cycle }, srfSeen := x.seen, ordered := x.ordered, status := x.status }
  let s := (s.putHart h).renameCopies (awayOwner g.id x.ident.lhart) ident.uid
  if x.status = .running then s.atHart ident.uid fun s => s.restoreContext x.area.toNat else s

/-- A logical core of a resumed gang (R364): split, scratchpad, task entries, harts. -/
def State.resumeCore (g : Gang) (c : Context) (z : Placing) (s : State) (lc : Nat) : State :=
  let y : Layout := { pb0 := g.pb0, pb1 := g.pb1, pb2 := g.pb2, lcpd := g.lcpd, shape := g.shape }
  let own := s.allot y false lc (z.core lc)
  let tasks := ((g.savedTasks.find? fun t => t.1 == lc).map (·.2)).getD []
  let s := s.mapCore (z.core lc) fun k =>
    { k with pb0 := g.pb0, pb1 := g.pb1, pb2 := g.pb2, tasks := k.tasks ++ tasks.map fun a => (a, g.id) }
  let image := s.dev.read (deviceKey (g.record + g.recordParts.2.1 + g.scratch * lc)) g.scratch
  let blocks := ((g.savedBlocks.find? fun b => b.1 == lc).map (·.2)).getD []
  let d := s.dev.writeNumber (scratchKey (z.core lc) 0) g.scratch image
  let s : State := { s with dev := d.setScratchBlocks (z.core lc) g.scratch blocks }
  (g.saved.filter fun x => x.ident.lcore == lc).foldl (State.resumeHart g c z own) s

/-- The chosen cores' task queues have room for the saved entries (R364). -/
def State.tasksFit (s : State) (g : Gang) (z : Placing) : Bool :=
  g.savedTasks.all fun (lc, l) => decide ((s.coreOf (z.core lc)).tasks.length + l.length ≤ Config.taskQueueSize)

/-- GANG_RESUME (R364): a pre-empted gang is placed again, with the pavilions it held. -/
def execGangResume (gang : BitVec 32) (cores : BitVec 160) (slots : BitVec 768) (s : State) : Res :=
  match s.dev.gang gang.toNat with
  | none => .next s
  | some g =>
    match s.dev.contextOf g.ctx with
    | none => .next s
    | some c =>
      let z := Placing.of cores slots
      let y : Layout := { pb0 := g.pb0, pb1 := g.pb1, pb2 := g.pb2, lcpd := g.lcpd, shape := g.shape }
      let back (x : Gang) : Gang := { x with status := .running, saved := [], savedTasks := [], savedBlocks := [], record := 0 }
      let s' := (List.range (coresOf g.shape)).foldl (State.resumeCore g c z)
        { s with dev := s.dev.mapGang g.id back }
      happens s (g.status = .preempted && s.placingValid y z && s.tasksFit g z)
        (State.checkFlow { s' with dev := s'.dev.updateBoost })

end Sys2Proof.Machine
end

