-- ==== Sys2Proof/Machine/Host.lean ====
section
/-!
DEFINITION. What reaches the device from outside: the host's BARs (R374, R375), replayed inputs (R342), devices behind the
root ports (R376), reset, power and boot (R351, R380, R381).
-/

namespace Sys2Proof.Machine

/-! ### Host accesses -/

/-- The reply to the host's access. -/
def State.answer (s : State) (r : Reply) : State := { s with dev := { s.dev with hostReply := r } }

/-- Bytes written to device memory at their coherence point, in pieces that stay inside 64-byte blocks, by an agent that is
no hart. -/
def State.writeDevice (s : State) : Nat → Nat → List Byte → State
  | 0, _, _ => s
  | fuel + 1, pa, bs =>
    if bs.isEmpty then s
    else
      let c := chunk pa bs.length
      State.writeDevice (s.apply 256 (deviceKey pa) (bs.take c) {}) fuel (pa + c) (bs.drop c)

/-- HOST_APERTURE_WRITE (R374): `n` bytes, at most 64, through BAR 2 to the device memory that the aperture maps. -/
def execHostApertureWrite (off : BitVec 36) (n : BitVec 7) (data : BitVec 512) (s : State) : Res :=
  match (if s.dev.running then s.dev.aperture else none) with
  | none => .next (s.answer .unsupported)
  | some k =>
    let pa := k * 2 ^ 36 + off.toNat
    let bs := bytesOf (min n.toNat 64) data.toNat
    if !s.dev.mapped pa bs.length then .next (s.answer .unsupported)
    else
    let s := s.logInputs (fun _ => true) { kind := 1, addr := pa, bytes := bs }
    .next ((s.writeDevice 65 pa bs).answer .none)

/-- HOST_SRF_READ (R375): a SYLD at system scope. -/
def execHostSrfRead (i : BitVec 14) (s : State) : Res :=
  .next (s.answer (if s.dev.running then .data (s.dev.srfHome i.toNat).value.toNat else .unsupported))

/-- HOST_SRF_WRITE (R375): a SYST with release at system scope. -/
def execHostSrfWrite (i : BitVec 14) (v : BitVec 64) (s : State) : Res :=
  if s.dev.running then
    let s := s.logInputs (fun g => g.ownsSrf i.toNat) { kind := 1, srf := true, addr := i.toNat, bytes := bytesOf 8 v.toNat }
    .next (State.answer { s with dev := s.dev.setSrf i.toNat v } .none)
  else .next (s.answer .unsupported)

/-- The mailbox command that a write of BAR 0 + 0x2008 would start is one of R383, and for command 0x08 its request one of
R350. -/
def Dev.knownCommand (d : Dev) (buf : Nat) : Bool :=
  let c := d.mailbox.command.toNat % 256
  1 ≤ c && c ≤ 13 && (c != 8 || buf % 8 != 0 || (d.read (hostKey buf) 1) ≤ 4)

/-- The mailbox status (R383). -/
def mailboxStatus (code bytes : Nat) : Word := word (2 ^ 63 + code % 2 ^ 7 * 2 ^ 56 + bytes % 2 ^ 32)

/-- The status of the command that has ended (R383). -/
def State.setStatus (s : State) (code bytes : Nat) : State :=
  { s with dev := { s.dev with mailbox := { s.dev.mailbox with status := mailboxStatus code bytes } } }

/-- The host's write of the buffer's address starts a command that runs on (R383): DONE reads 0 until it ends. One that
starts while another runs is refused with code 0x01. -/
def State.startCommand (s : State) (buf : Word) : Res :=
  let m := s.dev.mailbox
  happens s (s.dev.running && s.dev.knownCommand buf.toNat)
    (if m.busy.isSome then s.setStatus 0x01 0
     else { s with dev := { s.dev with mailbox := { m with busy := some (m.command, buf), status := 0 } } })

/-- RECOVERY_DOORBELL (R381): the host writes the length of a recovery image to BAR 0 + 0x2008 before an image runs. -/
def execRecoveryDoorbell (len : BitVec 64) (s : State) : Res :=
  let n := len.toNat
  let b := s.dev.boot
  if s.dev.running then .next s
  else if b.stage ≠ 2 then .next (s.answer .none)
  else
    let ok := n % 16 = 0 && 4096 ≤ n && n ≤ 2097152
    let b : Boot := if ok then { b with stage := 3, len := n } else { b with reason := 6, len := n % 2 ^ 32 }
    .next (State.answer { s with dev := { s.dev with boot := b } } .none)

/-- A write of a BAR 0 register when the image runs (R374, R383); the effect of a register that has a row of its own is
that row's. -/
def State.writeBar0 (s : State) (off : Nat) (v : Word) : Res :=
  if off = 0x2000 then .next (State.answer { s with dev := { s.dev with mailbox := { s.dev.mailbox with command := v } } } .none)
  else if off = 0x2008 then
    let s := s.answer .none
    if s.dev.knownCommand v.toNat then s.startCommand v
    else .next { s with dev := { s.dev with mailbox := { s.dev.mailbox with
                                  status := mailboxStatus (if s.dev.mailbox.busy.isSome then 0x01 else 0x03) 0 } } }
  else if off < 0x200 then execTail (BitVec.ofNat 6 (off / 8)) (v.setWidth 32) s
  else if 0x1000 ≤ off && off < 0x1800 then execHostmsg (BitVec.ofNat 8 ((off - 0x1000) / 8)) s
  else if 0x20000 ≤ off then execHostSrfWrite (BitVec.ofNat 14 ((off - 0x20000) / 8)) v s
  else .next (s.answer .none)

/-- A write of BAR 4 (R381): discarded while STAGE is 3 or 4. -/
def State.writeBar4 (s : State) (off : Nat) (bs : List Byte) : State :=
  if s.dev.boot.stage = 3 || s.dev.boot.stage = 4 then s
  else { s with dev := { s.dev with bar4 := Memory.writeN s.dev.bar4 off bs } }

/-- REGISTER_WRITE (R374, R380, R381): a host write of `size` bytes to a BAR. -/
def execRegisterWrite (bar : BitVec 3) (off : BitVec 36) (size : BitVec 4) (v : BitVec 64) (s : State) : Res :=
  let o := off.toNat
  let n := size.toNat
  if bar = 4 then
    .next (if o + n ≤ 2097152 && n ≤ 8 then (s.writeBar4 o (bytesOf n v.toNat)).answer .none else s.answer .unsupported)
  else if bar = 0 then
    if n ≠ 8 || o % 8 ≠ 0 || 0x40000 ≤ o then .next (s.answer .unsupported)
    else if s.dev.running then s.writeBar0 o v
    else if o = 0x2008 then execRecoveryDoorbell v s
    else if o = 0x2010 then .next (s.answer .none)
    else .next (s.answer .unsupported)
  else if bar = 2 then
    execHostApertureWrite off (BitVec.ofNat 7 (min n 8)) (v.setWidth 512) s
  else .next (s.answer .unsupported)

/-! ### Replay -/

/-- One record of a replay log (R343). -/
structure LogRecord where
  kind : Nat
  lhart : Nat
  stamp : Nat
  addr : Nat
  len : Nat
  doff : Nat
  deriving DecidableEq, Repr

/-- The record of its bytes (R343). -/
def LogRecord.of (k : Nat) : LogRecord :=
  { kind := bits 0 8 k, lhart := bits 32 8 k, stamp := bits 64 64 k, addr := bits 128 64 k, len := bits 224 32 k
    doff := bits 192 32 k }

/-- The stamping hart's U count has reached the record's stamp (R342). -/
def LogRecord.reached (r : LogRecord) (harts : List Hart) : Bool :=
  harts.any fun h => h.ident.lhart == r.lhart && decide (r.stamp ≤ h.counts.ucount.toNat)

/-- The first record from number `n` on that has not been applied and is due: the log ends at a record without a kind. -/
def State.dueFrom (s : State) (g : Gang) : Nat → Nat → Option (Nat × LogRecord)
  | 0, _ => none
  | fuel + 1, n =>
    match s.dev.readVirtual g.ctx (s.dev.rootOf g.ctx) (g.log.toNat + 32 * n) 32 with
    | none => none
    | some (bs, _) =>
      let r := LogRecord.of (ofBytes bs)
      if r.kind < 1 || 3 < r.kind then none
      else if !g.replayed.contains n && r.reached (s.hartsOf g.id) then some (n, r)
      else s.dueFrom g fuel (n + 1)

/-- The record that a replaying gang applies next (R342). Every record has a byte that is not zero, so memory lists at least
as many bytes as there are records. -/
def State.replayDue (s : State) (g : Gang) : Option (Nat × LogRecord) :=
  if g.replay = 2 && g.status = .running then s.dueFrom g s.dev.mem.length 0 else none

/-- A gang with a recorded input that is due: it is applied as the next step (R342). -/
def State.inputDue (s : State) : Option Nat := (s.dev.gangs.find? fun g => (s.replayDue g).isSome).map Gang.id

/-- A recorded input is applied (R342). -/
def State.applyInput (s : State) (r : LogRecord) (bs : List Byte) : State :=
  if r.kind = 2 then { s with dev := s.dev.ringDoorbell (r.addr / 8 % 64) (ofBytes bs) }
  else if r.kind = 1 && Config.logNamesSrf r.len r.addr then { s with dev := s.dev.setSrf (r.addr % 16384) (word (ofBytes bs)) }
  else if s.dev.mapped r.addr bs.length then s.writeDevice (bs.length + 1) r.addr bs else s

/-- The record that ends the search for one that is due cannot be read for an uncorrectable error (R351). -/
def State.logError (s : State) (g : Gang) : Nat → Nat → Bool
  | 0, _ => false
  | fuel + 1, n =>
    let at' := g.log.toNat + 32 * n
    match s.dev.readVirtual g.ctx (s.dev.rootOf g.ctx) at' 32 with
    | none => s.dev.readError g.ctx (s.dev.rootOf g.ctx) at' 32
    | some (bs, _) =>
      let r := LogRecord.of (ofBytes bs)
      1 ≤ r.kind && r.kind ≤ 3 && s.logError g fuel (n + 1)

/-- REPLAY_INPUT_APPLY (R342): the next input of a replaying gang is applied. -/
def execReplayInputApply (gang : BitVec 32) (s : State) : Res :=
  match s.dev.gang gang.toNat with
  | none => .next s
  | some g =>
    match s.replayDue g with
    | none => .next { s with dev := s.dev.noteIf (g.replay == 2 && s.logError g s.dev.mem.length 0) }
    | some (n, r) =>
      let at' := g.log.toNat + Config.logDataBase g.log.toNat + r.doff
      let bs := ((s.dev.readVirtual g.ctx (s.dev.rootOf g.ctx) at' r.len).map (·.1)).getD []
      let s := State.applyInput { s with dev := s.dev.noteIf (s.dev.readError g.ctx (s.dev.rootOf g.ctx) at' r.len) } r bs
      .next { s with dev := s.dev.mapGang g.id fun g => { g with replayed := n :: g.replayed } }

/-! ### Root ports -/

/-- ROOT_PORT_DEVICE_ACCESS (R376): a device behind a root port reads or writes at most 64 bytes of device memory, at an
address of the context assigned to the port. -/
def execRootPortDeviceAccess (port : BitVec 2) (write : BitVec 1) (va : BitVec 64) (n : BitVec 7) (data : BitVec 512)
    (s : State) : Res :=
  let reply (s : State) (r : Reply) : Res := .next { s with dev := { s.dev with rootReply := r } }
  match (s.dev.rootPorts[port.toNat]?.getD none).bind s.dev.contextOf with
  | none => reply s .unsupported
  | some c =>
    if n = 0 || 64 < va.toNat % 64 + n.toNat then .next s
    else match s.dev.locate c.num c.root va.toNat n.toNat (if write = 1 then .store else .load) with
      | none =>
        let e := s.dev.ioError c.num c.root va.toNat n.toNat (if write = 1 then .store else .load)
        reply { s with dev := s.dev.noteIf e } .unsupported
      | some (pl, d) =>
        let s : State := { s with dev := d.noteIf (write = 0 && (d.poisoned pl.key n.toNat).isSome) }
        if pl.cls ≠ .device || (write = 0 && (s.dev.poisoned pl.key n.toNat).isSome) then reply s .unsupported
        else if write = 1 then reply (s.apply 256 pl.key (bytesOf n.toNat data.toNat) {}) .none
        else reply s (.data (s.dev.read pl.key n.toNat))

/-! ### Reset, power and boot -/

/-- The device after a reset (R339, R351, R379, R380): memory with its taint, the black box, fuses and flash stay, retirements
take effect, the link trains with or without AtomicOp completion (R67). -/
def Dev.afterReset (d : Dev) (atomics : Bool) : Dev :=
  { mem := d.mem, poison := d.poison, blackBox := d.blackBox, retired := d.retired ++ d.retiring, hostAtomics := atomics
    blocks := (d.blocks.filter fun b => b.2.tainted).map fun b => (b.1, { tainted := true })
    fuses := d.fuses, flash := d.flash, freeCount := d.freeCount, nextId := d.nextId }

/-- DEVICE_RESET (R380): the boot ROM starts on the flash image; no hart runs. -/
def execDeviceReset (atomics : BitVec 1) (s : State) : Res :=
  .next { dev := s.dev.afterReset (atomics == 1), agenda := s.agenda }

/-- POWER_LOSS (R351): all state but fuses and flash is lost, the black box with it. -/
def execPowerLoss (s : State) : Res :=
  let d := s.dev
  .next { dev := { fuses := d.fuses, flash := d.flash, freeCount := d.freeCount, nextId := d.nextId }, agenda := s.agenda }

/-- Why an image is refused (R380, R381), the lowest number of several: magic, key digests, signatures, security version;
0 if all checks hold. -/
def Fuses.refuses (f : Fuses) (image : List Byte) : Nat :=
  let (rsa, slh) := Config.imageKeys image
  if !Config.imageMagic image then 1
  else if Config.sha384 rsa ≠ f.rsaDigest || Config.sha384 slh ≠ f.slhDigest then 2
  else if !Config.rsaVerifies rsa image then 3
  else if !Config.slhVerifies slh image then 4
  else if Config.securityVersion image < f.counter then 5
  else 0

/-- The image that the ROM verifies (R380, R381): the flash image, or the bytes of BAR 4 below the length offered. -/
def Dev.candidate (d : Dev) : List Byte := if d.boot.stage = 1 then d.flash else Memory.readN d.bar4 0 d.boot.len

/-- IMAGE_VERIFICATION_DONE (R380, R381): the ROM has checked an image, and runs it or says why not. -/
def execImageVerificationDone (s : State) : Res :=
  let b := s.dev.boot
  let image := s.dev.candidate
  let reason := s.dev.fuses.refuses image
  let d : Dev :=
    if reason = 0 then { s.dev with boot := { b with stage := 4 }, image := image }
    else { s.dev with boot := { b with stage := 2, reason := reason } }
  happens s (b.stage = 1 || b.stage = 3) { s with dev := d }

/-- The ROM status (R381), and the mailbox status once the image runs (R383): the doubleword at BAR 0 + 0x2010. -/
def Dev.statusRegister (d : Dev) : Word :=
  if d.running then d.mailbox.status
  else word (d.boot.stage + d.boot.reason % 2 ^ 8 * 2 ^ 8 + d.boot.len % 2 ^ 32 * 2 ^ 16)

/-! ### Host reads -/

/-- The doubleword of a BAR 0 register (R352, R375, R381, R383): one that no rule gives a value reads as a free value. -/
def State.readBar0 (s : State) (off : Nat) : Nat :=
  if off < 0x200 then (s.dev.queue (off / 8)).tail
  else if 0x800 ≤ off && off < 0xA00 then (s.dev.queue ((off - 0x800) / 8)).head
  else if off = 0x2000 then s.dev.mailbox.command.toNat
  else if off = 0x2010 then s.dev.statusRegister.toNat
  else if 0x20000 ≤ off then (s.dev.srfHome ((off - 0x20000) / 8)).value.toNat
  else Config.free s.dev.freeCount % 2 ^ 64

/-- What the host's read of `n` bytes at an offset of a BAR returns (R374, R380, R381): before an image runs only BAR 4 and the
ROM registers answer, and a register is read whole. -/
def State.hostAnswer (s : State) (bar off n : Nat) : Reply :=
  if bar = 0 then
    if n ≠ 8 || off % 8 ≠ 0 || 0x40000 ≤ off then .unsupported
    else if s.dev.running || off = 0x2010 || off = 0x2008 then .data (s.readBar0 off)
    else .unsupported
  else if bar = 2 then
    match (if s.dev.running then s.dev.aperture else none) with
    | none => .unsupported
    | some k =>
      let pa := k * 2 ^ 36 + off
      if 2 ^ 36 < off + n || !s.dev.mapped pa n || (s.dev.poisoned (deviceKey pa) n).isSome then .unsupported
      else .data (s.dev.read (deviceKey pa) n)
  else if bar = 4 then
    if 2097152 < off + n then .unsupported else .data (ofBytes (Memory.readN s.dev.bar4 off n))
  else .unsupported

/-- The host's read of device memory meets an uncorrected error (R351). -/
def Dev.hostError (d : Dev) (bar off n : Nat) : Bool :=
  bar = 2 && d.running && off + n ≤ 2 ^ 36 && d.aperture.any fun k =>
    d.mapped (k * 2 ^ 36 + off) n && (d.poisoned (deviceKey (k * 2 ^ 36 + off)) n).isSome

/-- A host read of at most 64 bytes (R374). -/
def State.hostRead (s : State) (bar off n : Nat) : Res :=
  let s' := s.answer (s.hostAnswer bar off n)
  let d := s'.dev.noteIf (s.dev.hostError bar off n)
  happens s (n != 0 && n ≤ 64) { s' with dev := { d with freeCount := d.freeCount + 1 } }

/-- The debug agent reads out a halted hart (R346): what a save area of it would hold (R96), its retired accesses performed. -/
def State.readOutHart (s : State) (uid : Nat) : Res :=
  let t := s.atHart uid State.landAll
  match t.findHart uid with
  | none => .next s
  | some h =>
    let rb := if h.mat.mvl = 0 then h.rb0 else 32 * h.mat.mvl
    happens s (h.status == .halted) { t with dev := { t.dev with readOut := contextImage h rb } }

end Sys2Proof.Machine
end

