-- ==== Sys2Proof/Machine/Hyper.lean ====
section
/-!
DEFINITION. Hypervectors: generation, rotation, bundling, distances, clean-up and factorisation (R218, R219, R224 to
R243).
-/

namespace Sys2Proof.Machine

/-! ### Shared parts -/

/-- The check of R228 that a source carries a tag it must carry (R387). -/
def needCarries (t want : Tag) : M Unit := need (t = want) (tagTrap t want)

/-- The number a source's HDIM bits form. -/
def Src.vector (x : Src) (dim : Nat) : Nat := x.data % 2 ^ dim

/-- ρ^k (R230): component j is taken from component (j − k) mod HDIM. -/
def rotate (dim k x : Nat) : Nat := (x <<< k ||| x >>> (dim - k)) % 2 ^ dim

/-- The Hamming distance of two hypervectors. -/
def hamming (dim a b : Nat) : Nat := popCount dim (a ^^^ b)

/-! ### HGEN -/

/-- Word w of a generated item (R229). -/
def hgenWord (seed index : Word) (w : Nat) : Word :=
  let z := seed ^^^ (index * 0x9E3779B97F4A7C15) ^^^ (word w * 0xC2B2AE3D27D4EB4F)
  let z := (z ^^^ (z >>> 30)) * 0xBF58476D1CE4E5B9
  let z := (z ^^^ (z >>> 27)) * 0x94D049BB133111EB
  z ^^^ (z >>> 31)

/-- HGEN (R229): a lane barrier, never stopped inside (R145). -/
def execHgen (d : BitVec 6) (a b : BitVec 5) (g : BitVec 4) (s : State) : Res :=
  complete4 (do
    needFits .hb
    needUnbound d
    let n := s.range .hb 4
    Run.go { d := d, tag := .hb, n := n, wmax := 4, mask := s.p g n, srcs := [], stops := false
             f := fun i => (item 32 (hgenWord (s.x a) (s.x b) (i / 2)).toNat (i % 2), {}) }) s

/-! ### HROT -/

/-- Element i of a rotated register (R230); the byte 0x80 is read as −127 (R134). -/
def rotElem (t : Tag) (dim k : Nat) (x : Src) (i : Nat) : ElemRes :=
  match t with
  | .hb => (item 32 (rotate dim k (x.vector dim)) i, {})
  | _ => canonElem t (x.elem ((i + dim - k) % dim))

/-- HROT (R230): all of va is read before any element of vd is written. -/
def execHrot (d a : BitVec 6) (x : BitVec 5) (g : BitVec 4) (s : State) : Res :=
  complete4 (do
    let t := (s.v a).tag
    needOne t fun c => c = .hb || c = .hc
    needUnbound d
    let n := s.range t (tagWidth t)
    let dim := s.hart.vec.hdim
    let k := (s.x x).toNat % dim
    let xa ← readSrc a 0 n
    needStrip [xa]
    Run.go { d := d, tag := t, n := n, wmax := tagWidth t, mask := s.p g n, stops := false
             srcs := [spreadTaint (xa.hits (ones n) n) xa], f := rotElem t dim k xa }) s

/-! ### HACC and HSIGN -/

/-- Is a 32-bit element tainted that holds a component of the mask? -/
def Src.hitsComponents (x : Src) (act n : Nat) : Bool :=
  (List.range ((n + 511) / 512)).any fun g => x.taint.testBit g && bits (512 * g) 512 act != 0

/-- HACC (R231). Where neither register fits, TVAL has the HB tag, which R226 leaves open (a DESIGN CHOICE). -/
def execHacc (d a : BitVec 6) (g : BitVec 4) (s : State) : Res :=
  complete4 (do
    let ta := (s.v a).tag
    need (ta = .hb && (s.v d).tag = .hc) (tagTrap ta (s.v d).tag)
    needFits .hb
    needFits .hc
    needUnbound d
    let n := s.range .hc 1
    let start := s.hart.vec.vstart
    let xa ← readSrc a (start / 32) (n / 32)
    let xd ← readSrc d start n
    needStrip [xa]
    let act := maskFrom (s.p g n) start n
    let hit := xa.hitsComponents act n || xd.hits act n
    Run.go { d := d, tag := .hc, n := n, wmax := 1, mask := act, srcs := [spreadTaint hit xa], stops := false
             f := fun j => hcResult (elemInt .hc (xd.elem j) + (if xa.data.testBit j then -1 else 1)) }) s

/-- Bit j of the sign of a counter (R232). -/
def signBit (counter tie : Nat) (j : Nat) : Nat :=
  let c := elemInt .hc counter
  if 0 < c then 0 else if c < 0 then 1 else (tie.testBit j).toNat

/-- Is a counter tainted that a 32-bit element of the mask takes its bits from? -/
def Src.hitsWords (x : Src) (act n : Nat) : Bool :=
  (List.range n).any fun i => act.testBit i && bits (2 * i) 2 x.taint != 0

/-- HSIGN (R232). Where neither register fits, TVAL has the HC tag, which R226 leaves open (a DESIGN CHOICE). -/
def execHsign (d a b : BitVec 6) (g : BitVec 4) (s : State) : Res :=
  complete4 (do
    let ta := (s.v a).tag
    let tb := (s.v b).tag
    need (ta != .none) (tagTrap ta .hc)
    need (tb != .none) (tagTrap tb .hb)
    needCarries ta .hc
    needCarries tb .hb
    needFits .hc
    needFits .hb
    needUnbound d
    let n := s.range .hb 4
    let start := s.hart.vec.vstart
    let xa ← readSrc a (32 * start) (32 * n)
    let xb ← readSrc b start n
    needStrip [xa, xb]
    let act := maskFrom (s.p g n) start n
    let hit := xa.hitsWords act n || xb.hits act n
    Run.go { d := d, tag := .hb, n := n, wmax := 4, mask := act, srcs := [xa, xb].map (spreadTaint hit), stops := false
             f := fun i =>
               ((List.range 32).foldl (fun w j => w + signBit (xa.elem (32 * i + j)) xb.data (32 * i + j) * 2 ^ j) 0, {}) }) s

/-! ### HDIST -/

/-- HDIST (R233). -/
def execHdist (d : BitVec 5) (a b : BitVec 6) (g : BitVec 4) (s : State) : Res :=
  complete4 (do
    let ta := (s.v a).tag
    let tb := (s.v b).tag
    need (ta = tb && ta = .hb) (tagTrap ta tb)
    needFits .hb
    let n := s.range .hb 4
    let start := s.hart.vec.vstart
    let xa ← readSrc a start n
    let xb ← readSecond xa a b start n
    needStrip (bothSrcs xa xb a b)
    let act := maskFrom (s.p g n) start n
    let dist := (List.range n).foldl (fun k i => if act.testBit i then k + popCount 32 (xa.elem i ^^^ xb.elem i) else k) 0
    modify fun s =>
      let s := s.markEscape ((xa.taint ||| xb.taint) &&& groupsOf act n != 0)
      ((consumeAll (bothSrcs xa xb a b) s).setX d (word dist)).setVstart 0) s

/-! ### Descriptors and codebooks -/

/-- The frame of a descriptor's fault (R228). -/
def descFrame (base : Word) : Frame := { kind := 6, acc := 0, size := 8, base := base, stride := 8, remain := 1 }

/-- Check 5 of R228. -/
def needAligned (base : Word) (k : Nat) : M Unit :=
  need (base.toNat % k = 0) { cause := .misaligned, val := base, info := .frame (descFrame base) }

/-- Checks 6 and 7 of R228 for one doubleword: its value and its taint. -/
def descWord (base : Word) (off : Nat) (ok : Nat → Bool) : M (Nat × Bool) := do
  let va := base + word off
  let (v, t) ← readAt va.toNat 8 (descFrame base) 0
  need (ok v) { cause := .access, val := va, info := .frame (descFrame base) }
  pure (v, t)

/-- The clean-up descriptor (R236): the codebook, THRESH, taint. -/
def readCleanup (base : Word) (dim : Nat) : M (Book × Nat × Bool) := do
  needAligned base 32
  let (b, t0) ← descWord base 0 fun v => v % 8 = 0
  let (w, t1) ← descWord base 8 fun v =>
    bits 32 32 v = 0 && bits 13 3 v = 0 && bits 16 16 v < dim && bits 0 13 v ≤ 4096
  let (th, t2) ← descWord base 16 fun v => bits 24 40 v = 0
  let (_, t3) ← descWord base 24 fun v => v = 0
  let t := t0 || t1 || t2 || t3
  modify fun s => s.markRead t
  pure ({ base := b, count := bits 0 13 w, rot := bits 16 16 w }, th, t)

/-- The entries of a factorise descriptor from codebook j on (R240). -/
def readBooks (base : Word) (dim : Nat) : Nat → Nat → M (List Book × Bool)
  | 0, _ => pure ([], false)
  | k + 1, j => do
    let (b, t0) ← descWord base (16 + 16 * j) fun v => v % 8 = 0
    let (w, t1) ← descWord base (24 + 16 * j) fun v =>
      bits 32 32 v = 0 && bits 13 3 v = 0 && 1 ≤ bits 0 13 v && bits 0 13 v ≤ 4096 && bits 16 16 v < dim
    let (rest, t2) ← readBooks base dim k (j + 1)
    pure ({ base := b, count := bits 0 13 w, rot := bits 16 16 w } :: rest, t0 || t1 || t2)

/-- The factorise descriptor (R240): LIMIT, the codebooks, taint. -/
def readFactorise (base : Word) (dim : Nat) : M (Nat × List Book × Bool) := do
  needAligned base 16
  let (h, t0) ← descWord base 0 fun v =>
    2 ≤ bits 0 3 v && bits 0 3 v ≤ 4 && 1 ≤ bits 16 10 v && bits 3 13 v = 0 && bits 26 38 v = 0
  let (_, t1) ← descWord base 8 fun v => v = 0
  let (bs, t2) ← readBooks base dim (bits 0 3 h) 0
  let t := t0 || t1 || t2
  modify fun s => s.markRead t
  pure (bits 16 10 h, bs, t)

/-- Item c of a codebook, rotated (R234, R238), and its taint; a fault has the frame given and the position. An item past address
2^64 has no translation: no rule takes item addresses modulo 2^64 (a DESIGN CHOICE). -/
def readItem (b : Book) (dim c : Nat) (fr : Frame) (elem : Nat) : M (Nat × Bool) := do
  let (ws, t) ← readWords (b.base + c * (dim / 8)) fr elem (dim / 64)
  let x := (ws.zipIdx).foldl (fun x (w, i) => x + w * 2 ^ (64 * i)) 0
  pure (rotate dim b.rot x, t)

/-- The wait of R179 and R243 on a codebook. -/
def awaitBook (b : Book) (dim : Nat) : M Unit := awaitSpan b.base (b.count * (dim / 8))

/-- The frame of a faulting item of HSIMM and HCLEAN (R239). -/
def itemFrame (b : Book) (dim c : Nat) : Frame :=
  { kind := 6, acc := 0, size := 8, stride := 8, base := word (b.base + c * (dim / 8)), remain := (b.count - c) * dim / 64 }

/-- The frame of a faulting codebook of HFSTEP and HFACT (R241). -/
def bookFrame (b : Book) (dim : Nat) : Frame :=
  { kind := 6, acc := 0, size := 8, stride := 8, base := word b.base, remain := b.count * dim / 64 }

/-- The HB query or product in va, read once, and its taint; its range is HDIM's whatever VL is (R225). -/
def readVector (a : BitVec 6) (dim : Nat) : M (Src × Nat × Bool) := do
  let x ← readSrcOf (some (dim / 32)) a 0 (dim / 32)
  needStrip [x]
  pure (x, x.vector dim, x.taint % 2 ^ ((dim / 32 + 15) / 16) != 0)

/-- What an instruction reads once: read now and held, or what it holds since it was stopped inside (R228, R240). -/
def readOnce (read : M Kept) : M Kept := do
  match (← get).hart.kept with
  | some k => pure k
  | none =>
    let k ← read
    modify fun s => { s with hart := { s.hart with kept := some k } }
    pure k

/-- A trap of `m` leaves what `keep` puts into the state it is taken in. -/
def keepOnTrap {α : Type} (keep : State → State) (m : M α) : M α := fun s =>
  match m s with
  | .error (s', .trap t) => .error (keep s', .trap t)
  | r => r

/-- A wait of `m` leaves the instruction at item or iteration `n`, below which all is done (R239, R242). -/
def standAt {α : Type} (n : Nat) (m : M α) : M α := fun s =>
  match m s with
  | .error (s', .wait) => .error ({ s'.setVstart n with hart := { (s'.setVstart n).hart with stopped := true } }, .wait)
  | r => r

/-! ### HSIMM -/

/-- Items `c` to `c + k - 1` of HSIMM (R234): each writes its element as it completes (R239). Old taint of a group that the items
overwrite whole stays: R243 does not say (a DESIGN CHOICE). -/
def hsimmItems (d : BitVec 6) (b : Book) (dim q : Nat) (tq : Bool) : Nat → Nat → M Unit
  | 0, _ => pure ()
  | k + 1, c => do
    let (x, t) ← standAt c (readItem b dim c (itemFrame b dim c) c)
    modify fun s =>
      let v := s.v d
      let tn := tq || t
      ((s.markSeen tn).markRead t).setV d
        { v with data := setItem 32 v.data c (wrap 32 ((dim : Int) - 2 * (hamming dim q x : Int))), tag := .i32
                 taint := taintAfter v.taint (if tn then ones 4096 else 0) (setBit 0 c true) (c + 1) }
    hsimmItems d b dim q tq k (c + 1)

/-- The checks of HSIMM and what it reads once (R228, R234). -/
def readHsimm (d a : BitVec 6) (x : BitVec 5) : M Kept := do
  let s ← get
  need (s.hart.mat.mvl != 0) { cause := .matrix }
  needCarries (s.v a).tag .hb
  needFits .hb
  needUnbound d
  let dim := s.hart.vec.hdim
  let (b, _, td) ← readCleanup (s.x x) dim
  need (b.count ≤ s.rb / 4) { cause := .matrix }
  awaitBook b dim
  let (_, q, tq) ← readVector a dim
  pure { books := [b], bound := 0, vector := q, tainted := tq || td }

/-- The codebook of a clean-up. -/
def Kept.book (k : Kept) : Book := k.books.headD { base := 0, count := 0, rot := 0 }

/-- HSIMM (R234, R239). -/
def execHsimm (d a : BitVec 6) (x : BitVec 5) (s : State) : Res :=
  complete4 (do
    let k ← readOnce (readHsimm d a x)
    let b := k.book
    let dim := s.hart.vec.hdim
    let start := s.hart.vec.vstart
    match s.stopAt start b.count with
    | some c =>
      hsimmItems d b dim k.vector k.tainted (c - start) start
      stopInside c
    | none =>
      hsimmItems d b dim k.vector k.tainted (b.count - start) start
      modify fun s => (consumeReg a (dim / 32) (s.setV d { s.v d with tag := .i32 })).setVstart 0) s

/-! ### HCLEAN -/

/-- What a clean-up keeps while it runs (R238), with the taint of what it has read. -/
structure Nearest where
  idx : Nat := 0xFFFFFFFF
  best : Nat := 0xFFFFFF
  second : Nat := 0xFFFFFF
  tie : Bool := false
  taint : Bool := false

/-- One item of a clean-up at distance d (R238). -/
def Nearest.meet (n : Nearest) (c d : Nat) : Nearest :=
  if d < n.best then { n with second := n.best, best := d, idx := c, tie := false }
  else if d = n.best then { n with second := d, tie := true }
  else if d < n.second then { n with second := d }
  else n

/-- X[D] of a clean-up (R238). -/
def Nearest.result (n : Nearest) (reject empty : Bool) : Word :=
  word (n.idx + n.best * 2 ^ 32 + (n.tie.toNat + 2 * reject.toNat + 4 * empty.toNat) * 2 ^ 56)

/-- HMARGIN of a clean-up (R237). -/
def marginWord (second margin : Nat) : Word := word (margin % 2 ^ 24 + second % 2 ^ 24 * 2 ^ 24)

/-- HMARGIN replaced. -/
def State.setMargin (s : State) (w : Word) : State := { s with hart := { s.hart with engine := { s.hart.engine with hmargin := w } } }

/-- What a stopped clean-up keeps (R239), at whichever item it stops. -/
def Nearest.keep (n : Nearest) (d : BitVec 5) (s : State) : State :=
  ((s.markEscape n.taint).setX d (n.result false false)).setMargin (marginWord n.second 0)

/-- Items `c` to `c + k - 1` of HCLEAN (R238). -/
def hcleanItems (d : BitVec 5) (b : Book) (dim q : Nat) : Nat → Nat → Nearest → M Nearest
  | 0, _, n => pure n
  | k + 1, c, n => do
    let (x, t) ← keepOnTrap (n.keep d) (readItem b dim c (itemFrame b dim c) c)
    modify fun s => s.markRead t
    hcleanItems d b dim q k (c + 1) { n.meet c (hamming dim q x) with taint := n.taint || t }

/-- The checks of HCLEAN and what it reads once (R228, R238). -/
def readHclean (a : BitVec 6) (b : BitVec 5) : M Kept := do
  let s ← get
  needCarries (s.v a).tag .hb
  needFits .hb
  let dim := s.hart.vec.hdim
  let (bk, thresh, td) ← readCleanup (s.x b) dim
  awaitBook bk dim
  let (_, q, tq) ← readVector a dim
  pure { books := [bk], bound := thresh, vector := q, tainted := tq || td }

/-- What a clean-up starts from: nothing, or what it kept at its last stop (R239). -/
def Nearest.start (s : State) (d : BitVec 5) (tainted : Bool) : Nearest :=
  let r := (s.x d).toNat
  if s.hart.vec.vstart = 0 then { taint := tainted }
  else { idx := bits 0 32 r, best := bits 32 24 r, tie := bit 56 r, second := bits 24 24 s.hart.engine.hmargin.toNat
         taint := tainted }

/-- HCLEAN (R238, R239). MARGIN of a resumed one whose handler has made SECOND smaller than the best distance is 0, which R238 leaves
open (a DESIGN CHOICE). -/
def execHclean (d : BitVec 5) (a : BitVec 6) (b : BitVec 5) (s : State) : Res :=
  complete8 (do
    let k ← readOnce (readHclean a b)
    let bk := k.book
    let thresh := k.bound
    let dim := s.hart.vec.hdim
    let start := s.hart.vec.vstart
    let n0 := Nearest.start s d k.tainted
    match s.stopAt start bk.count with
    | some c =>
      let n ← hcleanItems d bk dim k.vector (c - start) start n0
      modify (n.keep d)
      stopInside c
    | none =>
      let n ← hcleanItems d bk dim k.vector (bk.count - start) start n0
      modify fun s =>
        let margin := if 2 ≤ bk.count then n.second - n.best else if bk.count = 1 then 0xFFFFFF else 0
        let s := (s.markEscape n.taint).setX d (n.result (0 < bk.count && thresh < n.best) (bk.count = 0))
        (consumeReg a (dim / 32) (s.setMargin (marginWord n.second margin))).setVstart 0) s

/-! ### HFSTEP and HFACT -/

/-- ITER of HFSTAT (R219). -/
def iterOf (w : Word) : Nat := bits 0 16 w.toNat

/-- Component j as ±1: bit 0 stands for +1 (R218). -/
def component (x j : Nat) : Int := if x.testBit j then -1 else 1

/-- The bits of a weighted sum of items; a zero component takes its bit from `keep` (R218). -/
def bundle (dim keep : Nat) (l : List (Int × Nat)) : Nat :=
  (List.range dim).foldl (fun out j =>
    let z := l.foldl (fun z (w, x) => z + w * component x j) (0 : Int)
    if z < 0 || (z = 0 && keep.testBit j) then setBit out j true else out) 0

/-- The place of the greatest of a list, the lowest of equals, and whether it has an equal. -/
def greatest (l : List Int) : Nat × Bool :=
  let m := l.foldl max (l.headD 0)
  (l.findIdx (· == m), decide (1 < l.count m))

/-- What one iteration comes to (R218): estimates, chosen items, whether an estimate changed, whether there was a tie. -/
structure Iterate where
  est : List Nat
  idx : List Nat := []
  changed : Bool := false
  tie : Bool := false

/-- One factor of an iteration, from the freshest estimates (R218). -/
def Iterate.factor (r : Iterate) (dim s j : Nat) (items : List Nat) : Iterate :=
  let u := (r.est.zipIdx).foldl (fun u (e, i) => if i = j then u else u ^^^ e) s
  let sims := items.map fun e => (dim : Int) - 2 * (hamming dim u e : Int)
  let new := bundle dim (r.est.getD j 0) (sims.zip items)
  let (c, tie) := greatest sims
  { est := r.est.set j new, idx := r.idx ++ [c], changed := r.changed || new != r.est.getD j 0, tie := r.tie || tie }

/-- HFSTAT after an iteration (R218, R240). -/
def hfstatWord (iter : Nat) (conv exact nconv tie : Bool) : Word :=
  word (iter + conv.toNat * 2 ^ 16 + exact.toNat * 2 ^ 17 + nconv.toNat * 2 ^ 18 + tie.toNat * 2 ^ 19)

/-- The estimate register of factor j. -/
def estReg (d : BitVec 6) (j : Nat) : BitVec 6 := d + BitVec.ofNat 6 j

/-- Every item of every codebook, read before anything is written (R241). -/
def readItems (b : Book) (dim elem : Nat) : Nat → Nat → M (List Nat × Bool)
  | 0, _ => pure ([], false)
  | k + 1, c => do
    let (x, t) ← readItem b dim c (bookFrame b dim) elem
    let (xs, t') ← readItems b dim elem k (c + 1)
    pure (x :: xs, t || t')

/-- The codebooks in order. -/
def readAllItems (dim elem : Nat) : List Book → M (List (List Nat) × Bool)
  | [] => pure ([], false)
  | b :: bs => do
    let (x, t) ← readItems b dim elem b.count 0
    let (xs, t') ← readAllItems dim elem bs
    pure (x :: xs, t || t')

/-- The estimates as they stand, and their taint; each is waited for. -/
def readEstimates (d : BitVec 6) (dim : Nat) : Nat → Nat → M (List Nat × Bool)
  | 0, _ => pure ([], false)
  | k + 1, j => do
    let x ← readSrc (estReg d j) 0 (dim / 32)
    let (xs, t) ← readEstimates d dim k (j + 1)
    pure (x.vector dim :: xs, t || x.taint % 2 ^ ((dim / 32 + 15) / 16) != 0)

/-- The estimates, HFIDX and HFSTAT of an iteration written (R218, R219). -/
def State.writeIterate (s : State) (d : BitVec 6) (dim : Nat) (r : Iterate) (stat : Word) (taint : Bool) : State :=
  let n := dim / 32
  let s := (r.est.zipIdx).foldl (fun s (e, j) =>
    let v := s.v (estReg d j)
    s.setV (estReg d j) { v with
      data := v.data / 2 ^ dim * 2 ^ dim + e, tag := .hb
      taint := taintAfter v.taint (if taint then ones 4096 else 0) (ones n) n }) s
  let s := (s.markSeen taint).markEscape taint
  let idx := (Vector.range 4).map fun j => match r.idx[j]? with
    | some c => word (c % 2 ^ 12)
    | none => s.hart.engine.hfidx[j]?.getD 0
  { s with hart := { s.hart with engine := { s.hart.engine with hfidx := idx, hfstat := stat } } }

/-- One iteration of R218, indivisible (R241): is it the last? -/
def iterate (d : BitVec 6) (dim prod limit : Nat) (books : List Book) (tp : Bool) (elem : Nat) : M Bool := do
  let (items, ti) ← readAllItems dim elem books
  let iter := iterOf (← get).hart.engine.hfstat
  let (est, te) ←
    if iter = 0 then pure (items.map fun b => bundle dim 0 (b.map fun e => (1, e)), false)
    else readEstimates d dim books.length 0
  let r := (items.zipIdx).foldl (fun (r : Iterate) (b, j) => r.factor dim prod j b) { est := est }
  let chosen := ((items.zip r.idx).map fun p => p.1.getD p.2 0).foldl (· ^^^ ·) 0
  let iter := min (iter + 1) 65535
  let conv := !r.changed
  let nconv := !conv && limit ≤ iter
  modify fun s => (s.markRead ti).writeIterate d dim r (hfstatWord iter conv (chosen = prod) nconv r.tie) (tp || ti || te)
  pure (conv || nconv)

/-- Checks 9 and 10 of R228 for the estimate registers from j on. -/
def needEstimates (d : BitVec 6) (ok : VReg → Bool) (t : BitVec 6 → VReg → Trap) : Nat → Nat → M Unit
  | 0, _ => pure ()
  | k + 1, j => do
    let v := (← get).v (estReg d j)
    need (ok v) (t (estReg d j) v)
    needEstimates d ok t k (j + 1)

/-- The checks of HFSTEP and HFACT (R228, R240) with `iter` the ITER they read: LIMIT, the codebooks, taint. -/
def factorChecks (d a : BitVec 6) (base : Word) (iter : Nat) : M (Nat × List Book × Bool) := do
  let s ← get
  needCarries (s.v a).tag .hb
  needFits .hb
  let r ← readFactorise base s.hart.vec.hdim
  let f := r.2.1.length
  needEstimates d (fun v => v.bound.isNone) (fun r _ => streamTrap r) f 0
  if iter ≠ 0 then needEstimates d (fun v => v.tag = .hb) (fun _ v => tagTrap v.tag .none) f 0
  r.2.1.forM fun b => awaitBook b s.hart.vec.hdim
  pure r

/-- HFSTEP (R218, R241). -/
def execHfstep (d a : BitVec 6) (x : BitVec 5) (s : State) : Res :=
  complete4 (do
    let (limit, books, td) ← factorChecks d a (s.x x) (iterOf s.hart.engine.hfstat)
    let dim := s.hart.vec.hdim
    let (xa, prod, tp) ← readVector a dim
    let _ ← iterate d dim prod limit books (tp || td) 0
    modify fun s => (consume xa s).setVstart 0) s

/-- The iterations of HFACT (R242), at most `fuel`: each reads the codebooks afresh; between two of them it may stop. -/
def hfactLoop (d : BitVec 6) (dim prod limit : Nat) (books : List Book) (tp : Bool) : Nat → M Unit
  | 0 => pure ()
  | fuel + 1 => do
    let done := iterOf (← get).hart.engine.hfstat
    let last ← standAt done (iterate d dim prod limit books tp done)
    if last then pure ()
    else
      let s ← get
      let t := iterOf s.hart.engine.hfstat
      if s.pause.any fun p => p ≤ t then stopInside t else hfactLoop d dim prod limit books tp fuel

/-- The checks of HFACT and what it reads once (R228, R240). -/
def readHfact (d a : BitVec 6) (b : BitVec 5) (fresh : Bool) : M Kept := do
  let s ← get
  let (limit, books, td) ← factorChecks d a (s.x b) (if fresh then 0 else iterOf s.hart.engine.hfstat)
  let (_, prod, tp) ← readVector a s.hart.vec.hdim
  pure { books := books, bound := limit, vector := prod, tainted := tp || td }

/-- HFACT (R242). ITER rises with each iteration until it reaches LIMIT, or stands at 65,535, above every LIMIT. -/
def execHfact (d a : BitVec 6) (b : BitVec 5) (s : State) : Res :=
  complete8 (do
    let fresh := s.hart.vec.vstart = 0
    let k ← readOnce (readHfact d a b fresh)
    let dim := s.hart.vec.hdim
    if fresh then modify fun s => { s with hart := { s.hart with engine := { s.hart.engine with hfstat := 0 } } }
    hfactLoop d dim k.vector k.bound k.books k.tainted (k.bound + 1)
    modify fun s => (consumeReg a (dim / 32) s).setVstart 0) s

end Sys2Proof.Machine
end

