-- ==== Sys2Proof/Machine/Mailbox.lean ====
section
/-!
DEFINITION. The management mailbox and its commands (R383): summary (R385), queues (R352), power lease (R373), windows (R377),
hart reset (R365), attestation (R382), retirement (R379), debug facilities (R346, R349, R350), contexts (R384), and the
settings of one doubleword.
-/

namespace Sys2Proof.Machine

/-! ### Running a command -/

/-- What a command comes to: refused with an error code, or done, with the bytes written and whether state has changed. -/
inductive Done where
  | refused (code : Nat)
  | done (s : State) (bytes : Nat) (changed : Bool)

/-- What a command leaves (R351, R383, R385): one that is not refused is recorded, but for the summary, which changes
nothing; one that has changed state is counted. -/
def State.endCommand (s : State) (code : Nat) : Done → State
  | .refused e => s.setStatus e 0
  | .done s bytes changed =>
    let d := if code = 0x01 then s.dev else s.dev.record (.command code)
    State.setStatus { s with dev := { d with commands := d.commands + changed.toNat } } 0 bytes

/-- The command doubleword that a command's arguments stand in: the running command's, or the one just written. -/
def Mailbox.current (m : Mailbox) : Word := (m.busy.map (·.1)).getD m.command

/-- No command runs any more. -/
def State.freeMailbox (s : State) : State := { s with dev := { s.dev with mailbox := { s.dev.mailbox with busy := none } } }

/-- A command comes to its end (R383): the running one, or one that a write of the buffer's address starts and that runs to
its end at once. One that starts while another runs is refused with code 0x01. -/
def command (code : Nat) (buf : BitVec 64) (f : State → Done) (s : State) : Res :=
  let run : Res :=
    .next (s.endCommand code (if buf.toNat % 8 = 0 then f s else .refused 0x03)).freeMailbox
  if !s.dev.running then .next s
  else match s.dev.mailbox.busy with
  | none => if s.dev.mailbox.command.toNat % 256 == code then run else .next s
  | some (c, b) =>
    if c.toNat % 256 == code && b == buf then run
    else if s.dev.mailbox.command.toNat % 256 == code then .next (s.setStatus 0x01 0)
    else .next s

/-- The argument bits of the command doubleword. -/
def State.argument (s : State) (lo n : Nat) : Nat := bits lo n s.dev.mailbox.current.toNat

/-- Bytes written to host memory. -/
def Dev.writeHost (d : Dev) (a : Nat) (bs : List Byte) : Dev :=
  let k := hostKey a
  { d with mem := Memory.writeN d.mem k bs, poison := d.poison.filter fun p => !(k ≤ p && p < k + bs.length) }

/-- Host memory's doubleword at an address. -/
def Dev.hostWord (d : Dev) (a : Nat) : Nat := d.read (hostKey a) 8

/-! ### Summary and attestation -/

/-- A black-box event as numbers. -/
def BlackBoxEvent.numbers : BlackBoxEvent → List Nat
  | .doubleTrap h c p n => [1, h, c.toNat, p.toNat, n]
  | .hartReset h => [2, h]
  | .launchError q p c => [3, q, p, c]
  | .transition k d => [4, k, d]
  | .command c => [5, c]
  | .memoryError h => [6, h]

/-- The remaining capacity (R379, R385): what is retired. -/
def Dev.capacity (d : Dev) : List Nat := d.retired.flatMap fun (k, n) => [k, n]

/-- What the summary holds (R385). -/
def Dev.summary (d : Dev) : List Nat :=
  [d.commands, Config.firmwareVersion d.image, Config.securityVersion d.image] ++ d.capacity
    ++ d.queues.toList.flatMap (fun q => [q.head, q.tail, q.error.toNat])
    ++ (d.gangs.filter fun g => g.status == .running).flatMap (fun g => [g.id, g.ctx])
    ++ d.dies.toList.map (fun x => x.throttling.isSome.toNat)
    ++ [d.lease.seq.getD 0, d.lease.cap]
    ++ d.windows.flatMap (fun w => [w.ctx, w.num, w.statusWord])
    ++ d.blackBox.flatMap fun e => e.1 :: e.2.numbers

/-- SUMMARY (R385): it changes nothing but the buffer and the mailbox status. -/
def execSummary (buf : BitVec 64) (s : State) : Res :=
  command 0x01 buf (fun s =>
    let bs := Config.summaryLayout s.dev.summary
    .done { s with dev := s.dev.writeHost buf.toNat bs } bs.length false) s

/-- The registered configuration of a context (R384), as its record holds it. -/
def Context.record (c : Context) : List Byte :=
  bytesOf 64 (packItems 64 [c.root, c.tvec.toNat, c.srfBase + c.srfLen * 2 ^ 16, c.fmin + c.pmax * 2 ^ 16 + c.boost.toNat * 2 ^ 32,
    c.tcount.toNat, c.save, c.saveSize, 0])

/-- What an attestation report holds beside the nonce (R382): the measurements of the ROM, the image and the registered
configurations, the security version, the capacity. -/
def Dev.attested (d : Dev) : List Nat :=
  [Config.sha384 Config.rom, Config.sha384 d.image] ++ d.contexts.map (fun c => Config.sha384 c.record)
    ++ [Config.securityVersion d.image] ++ d.capacity

/-- A report with one signature of each kind, under the device's identity keys (R382). -/
def Dev.sign (d : Dev) (body : List Byte) : List Byte :=
  let m := Config.sha384 d.image
  body ++ Config.rsaSign (Config.rsaIdentity d.fuses.secret m) body ++ Config.slhSign (Config.slhIdentity d.fuses.secret m) body

/-- ATTESTATION_REPORT (R382): the report over the nonce in the buffer. -/
def execAttestationReport (buf : BitVec 64) (s : State) : Res :=
  command 0x06 buf (fun s =>
    let nonce := Memory.readN s.dev.mem (hostKey buf.toNat) 32
    let bs := s.dev.sign (Config.attestation nonce s.dev.attested)
    .done { s with dev := s.dev.writeHost buf.toNat bs } bs.length false) s

/-! ### Queues, leases, windows -/

/-- SET_LAUNCH_QUEUE (R352, R383): the base and k of a queue, as the command names them; a queue with packets waiting is
in use. -/
def execSetLaunchQueue (buf : BitVec 64) (queue : BitVec 6) (k : BitVec 8) (base : BitVec 56) (s : State) : Res :=
  command 0x02 buf (fun s =>
    let q := s.dev.queue queue.toNat
    if k.toNat < 4 || 16 < k.toNat || base.toNat % 4096 ≠ 0 || !s.dev.mapped base.toNat (128 * 2 ^ k.toNat) then .refused 0x03
    else if q.waiting ≠ 0 then .refused 0x02
    else .done { s with dev := s.dev.setQueue queue.toNat { q with base := base.toNat, k := k.toNat } } 0 true) s

/-- RACK_LEASE (R373): a lease whose sequence number is above every one before sets the cap until it ends. -/
def execRackLease (buf : BitVec 64) (seq : BitVec 64) (cap : BitVec 16) (ms : BitVec 32) (s : State) : Res :=
  command 0x03 buf (fun s =>
    if cap.toNat < 600 || 2400 < cap.toNat || ms.toNat < 1 || 60000 < ms.toNat then .refused 0x03
    else if s.dev.lease.seq.any fun n => decide (seq.toNat ≤ n) then .done s 0 false
    else
      .done (s.setCap { seq := some seq.toNat, cap := cap.toNat, ends := some (s.dev.now + ms.toNat * 1000000) }) 0 true) s

/-- SET_WINDOW (R377): a window entry of a context; one with posted accesses on their way is in use. -/
def execSetWindow (buf : BitVec 64) (ctx : BitVec 16) (num : BitVec 8) (peer : BitVec 64) (peerCtx : BitVec 16)
    (base len : BitVec 64) (status : BitVec 56) (s : State) : Res :=
  command 0x04 buf (fun s =>
    let w : Window :=
      { ctx := ctx.toNat, num := num.toNat, peer := peer.toNat, peerCtx := peerCtx.toNat, base := base.toNat
        length := len.toNat, status := status.toNat, state := .up, failed := 0, lost := false, posted := [] }
    let rest := s.dev.windows.filter fun x => !(x.ctx == w.ctx && x.num == w.num)
    if status.toNat % 8 ≠ 0 || !s.dev.mapped status.toNat 8 then .refused 0x03
    else if (s.dev.window w.ctx w.num).any fun x => !x.posted.isEmpty then .refused 0x02
    else .done { s with dev := Dev.updateWindow { s.dev with windows := rest ++ [w] } w.ctx w.num id } 0 true) s

/-! ### Harts and resources -/

/-- What SYBARs have ordered is forgotten when a hart of the gang counts its epochs afresh (R338, R365). -/
def State.forgetOrder (s : State) (gang : Nat) : State :=
  let s := s.mapHarts fun h => if h.ident.gang = gang then { h with ordered := [] } else h
  let f (l : List (Nat × SrfReg)) : List (Nat × SrfReg) := l.map fun x => (x.1, { x.2 with arrived := [], passed := [] })
  { s with dev := { s.dev with srf := f s.dev.srf, mirrors := f s.dev.mirrors, broadcasts := f s.dev.broadcasts } }

/-- A hart restarts at ENTRY with the state of R357 (R365): its copies with scalar targets end, its graph is unbound, its
retired stores stay on their way. -/
def State.restartHart (s : State) (g : Gang) (c : Context) : State :=
  let s := s.discard.landAll.cancelCopies
  let h := s.hart
  let f := freshHart h.ident c g.entry g.detm h.mat.granted h.rb0 h.pavilions h.pavSet
  let s := s.forgetOrder h.ident.gang
  { s with hart := { f with tlb := h.tlb, srfSeen := h.srfSeen }, dev := s.dev.record (.hartReset h.ident.uid) }

/-- RESET_HART (R365): a device hart that a gang has placed. -/
def execResetHart (buf : BitVec 64) (hart : BitVec 8) (s : State) : Res :=
  command 0x05 buf (fun s =>
    match s.findHart hart.toNat with
    | none => .refused 0x03
    | some h =>
      match s.dev.gang h.ident.gang, s.dev.contextOf h.ctx with
      | some g, some c => .done (s.atHart hart.toNat fun s => s.restartHart g c) 0 true
      | _, _ => .refused 0x03) s

/-- The numbers of a kind of resource (R1, R379): HBM channels, stacks, pavilions (4 · core + number), cores. -/
def resourceLimit : Nat → Nat
  | 0 => 2 ^ 16 | 1 => 8 | 2 => 128 | 3 => 32 | _ => 0

/-- RETIRE_RESOURCE (R379): it takes effect at the next reset. -/
def execRetireResource (buf : BitVec 64) (kind : BitVec 8) (number : BitVec 16) (s : State) : Res :=
  command 0x07 buf (fun s =>
    if resourceLimit kind.toNat ≤ number.toNat then .refused 0x03
    else .done { s with dev := { s.dev with retiring := s.dev.retiring ++ [(kind.toNat, number.toNat)] } } 0 true) s

/-! ### Debug facilities -/

/-- A debug request (R350): the doubleword at +0x00 holds OP, core and slot and nothing else; `f` gets the core, the slot and
the request's doublewords by their offsets. -/
def debugCommand (op : Nat) (buf : BitVec 64) (f : Nat → Nat → (Nat → Nat) → State → Done) (s : State) : Res :=
  let m (off : Nat) : Nat := s.dev.hostWord (buf.toNat + off)
  let q := m 0
  if buf.toNat % 8 = 0 && q % 256 ≠ op then .next s
  else
    command 0x08 buf (fun s =>
      if bits 13 3 q ≠ 0 || bits 19 45 q ≠ 0 then .refused 0x03 else f (bits 8 5 q) (bits 16 3 q) m s) s

/-- The watchpoint of its two doublewords (R350). -/
def watchOf (base k : Nat) : List Watch :=
  if bits 0 32 k = 0 then []
  else [{ base := word base, len := bits 0 32 k, load := bit 32 k, store := bit 33 k, fetch := bit 34 k }]

/-- SET_BREAKPOINTS (R346, R350): OP 0 replaces the breakpoints and watchpoints of a hart. -/
def execSetBreakpoints (buf : BitVec 64) (s : State) : Res :=
  debugCommand 0 buf (fun core slot m s =>
    let breaks := [m 0x08, m 0x10, m 0x18, m 0x20]
    let d : Debug :=
      { breaks := (breaks.filter fun a => a != 0).map word
        watches := watchOf (m 0x28) (m 0x30) ++ watchOf (m 0x38) (m 0x40) ++ watchOf (m 0x48) (m 0x50) ++ watchOf (m 0x58) (m 0x60) }
    if breaks.any fun a => a % 4 != 0 then .refused 0x03
    else .done { s with dev := { s.dev with debug := sparseSet {} s.dev.debug (8 * core + slot) d } } 0 true) s

/-- SET_COUNTERS (R349, R350): OP 1 assigns event sets and starts rotation at set 0 with everything cleared. -/
def execSetCounters (buf : BitVec 64) (s : State) : Res :=
  debugCommand 1 buf (fun core _ m s =>
    let period := bits 0 16 (m 8)
    let n := bits 16 4 (m 8)
    if period = 0 || n < 1 || 4 < n then .refused 0x03
    else
      let k : Counters := { period := period, sets := (List.range n).map fun i => m (0x10 + 8 * i) }
      .done (s.mapCore core fun c => { c with counters := some k }) 0 true) s

/-- The events whose number the rules fix (R350): instructions, copied bytes, K steps, edges, SRF operations. -/
def countedEvents : List Nat := [1, 2, 8, 9, 12, 13]

/-- The count that a counter shows (R349): of the other events, which timing, a cache or no rule fixes, a free value. -/
def Counters.shown (k : Counters) (c free : Nat) : Nat :=
  if k.sets.any fun s => let e := bits (8 * c) 8 s; decide (e < 16) && !countedEvents.contains e then Config.free free
  else k.count[c]?.getD 0

/-- READ_COUNTERS (R349, R350): OP 2 writes the count and the two times of each counter at +0x100. -/
def execReadCounters (buf : BitVec 64) (s : State) : Res :=
  debugCommand 2 buf (fun core _ _ s =>
    let free := s.dev.freeCount
    let item (c : Nat) : List Byte :=
      match (s.coreOf core).counters with
      | none => bytesOf 24 0
      | some k => bytesOf 8 (k.shown c (free + c)) ++ bytesOf 8 k.enabled ++ bytesOf 8 (k.running[c]?.getD 0)
    let d := s.dev.writeHost (buf.toNat + 0x100) ((List.range 8).flatMap item)
    .done { s with dev := { d with freeCount := free + 8 } } 192 false) s

/-- SET_TRACE (R348, R350): OP 3 sets up a core's trace buffer; a pipe mask of zero stops tracing. -/
def execSetTrace (buf : BitVec 64) (s : State) : Res :=
  debugCommand 3 buf (fun core _ m s =>
    let k := bits 0 5 (m 0x10)
    if m 8 % 4096 ≠ 0 || k < 12 || 30 < k || !s.dev.mapped (m 8) (2 ^ k) then .refused 0x03
    else
      let t : Trace := { base := m 8, size := 2 ^ k, wrap := bit 8 (m 0x10), mask := bits 16 16 (m 0x10) }
      .done (s.mapCore core fun c => { c with trace := some t }) 0 true) s

/-- READ_TRACE_STATUS (R350): OP 4 writes the write offset, then FULL and WRAPPED, at +0x100. -/
def execReadTraceStatus (buf : BitVec 64) (s : State) : Res :=
  debugCommand 4 buf (fun core _ _ s =>
    let bs := match (s.coreOf core).trace with
      | none => bytesOf 16 0
      | some t => bytesOf 8 t.offset ++ bytesOf 8 (t.full.toNat + 2 * t.wrapped.toNat)
    .done { s with dev := s.dev.writeHost (buf.toNat + 0x100) bs } 16 false) s

/-! ### Contexts and settings -/

/-- The context of a record's doublewords, if it keeps to the layout of R384. -/
def contextOfRecord (num : Nat) (q : Nat → Nat) : Option Context :=
  if q 0 % 4096 = 0 && q 1 % 4 = 0 && bits 31 33 (q 2) = 0 && bits 14 2 (q 2) = 0
      && bits 0 14 (q 2) + bits 16 15 (q 2) ≤ 16384 && bits 33 31 (q 3) = 0 && bits 32 32 (q 4) = 0 && q 5 % 4096 = 0 && q 7 = 0 then
    some { num := num, root := q 0, tvec := word (q 1), srfBase := bits 0 14 (q 2), srfLen := bits 16 15 (q 2)
           boost := bit 32 (q 3), pmax := bits 16 16 (q 3), fmin := bits 0 16 (q 3), tcount := BitVec.ofNat 32 (q 4)
           save := q 5, saveSize := q 6 }
  else none

/-- REGISTER_CONTEXT (R384): refused while a gang of the context runs or is pre-empted. -/
def execRegisterContext (buf : BitVec 64) (s : State) : Res :=
  command 0x09 buf (fun s =>
    let n := s.argument 8 16
    match contextOfRecord n fun i => s.dev.hostWord (buf.toNat + 8 * i) with
    | none => .refused 0x03
    | some c =>
      if !s.dev.mapped c.save c.saveSize then .refused 0x03
      else if s.dev.gangs.any fun g => g.ctx == n then .refused 0x02
      else
        let d : Dev := { s.dev with contexts := (s.dev.contexts.filter fun x => x.num != n) ++ [c] }
        .done { s with dev := d.dropIo n none } 0 true) s

/-- PLACE_APERTURE (R374, R383): BAR 2 maps device memory from n · 64 GiB, n from 0 to 5. -/
def execPlaceAperture (buf : BitVec 64) (s : State) : Res :=
  command 0x0A buf (fun s =>
    let n := s.argument 8 8
    if 5 < n then .refused 0x03 else .done { s with dev := { s.dev with aperture := some n } } 0 true) s

/-- SET_THOT (R370, R383): 85 to 105 °C. -/
def execSetThot (buf : BitVec 64) (s : State) : Res :=
  command 0x0B buf (fun s =>
    let die := s.argument 8 2
    let t := s.argument 16 8
    if t < 85 || 105 < t then .refused 0x03
    else .done { s with dev := s.dev.setDie die { s.dev.dieOf die with thot := t } } 0 true) s

/-- SET_ETHERTYPE (R378, R383). -/
def execSetEthertype (buf : BitVec 64) (s : State) : Res :=
  command 0x0C buf (fun s => .done { s with dev := { s.dev with etherType := s.argument 8 16 } } 0 true) s

/-- ASSIGN_ROOT_PORT (R376, R383): a root port and the context its devices' accesses use. -/
def execAssignRootPort (buf : BitVec 64) (s : State) : Res :=
  command 0x0D buf (fun s =>
    let p := s.argument 8 2
    .done { s with dev := { s.dev with rootPorts := s.dev.rootPorts.setIfInBounds p (some (s.argument 24 16)) } } 0 true) s

end Sys2Proof.Machine
end

