-- ==== Sys2Proof/Machine/MulDiv.lean ====
section
/-!
DEFINITION. Multiplication and division (R49, R50).
-/

namespace Sys2Proof.Machine

/-- Bits [127:64] of a product taken exactly (R49). -/
def highHalf (z : Int) : Word := word (wrap 128 z / 2 ^ 64)

/-- The signed quotient, truncated toward zero; a zero divisor gives all ones, −2^63 / −1 gives −2^63 (R50). -/
def divS (a b : Word) : Word := if b = 0 then BitVec.allOnes 64 else wordI (a.toInt.tdiv b.toInt)

/-- The unsigned quotient; a zero divisor gives all ones (R50). -/
def divU (a b : Word) : Word := if b = 0 then BitVec.allOnes 64 else word (a.toNat / b.toNat)

/-- The signed remainder; the sign follows the dividend; a zero divisor leaves the dividend (R49, R50). -/
def remS (a b : Word) : Word := if b = 0 then a else wordI (a.toInt.tmod b.toInt)

/-- The unsigned remainder; a zero divisor leaves the dividend (R50). -/
def remU (a b : Word) : Word := if b = 0 then a else word (a.toNat % b.toNat)

/-- MUL (R49). -/
def execMul (d a b : BitVec 5) (s : State) : Res := result4 d (s.x a * s.x b) s

/-- MULH (R49). -/
def execMulh (d a b : BitVec 5) (s : State) : Res := result4 d (highHalf ((s.x a).toInt * (s.x b).toInt)) s

/-- MULHU (R49). -/
def execMulhu (d a b : BitVec 5) (s : State) : Res := result4 d (highHalf (((s.x a).toNat * (s.x b).toNat : Nat) : Int)) s

/-- MULHSU (R49). -/
def execMulhsu (d a b : BitVec 5) (s : State) : Res := result4 d (highHalf ((s.x a).toInt * ((s.x b).toNat : Int))) s

/-- DIV (R50). -/
def execDiv (d a b : BitVec 5) (s : State) : Res := result4 d (divS (s.x a) (s.x b)) s

/-- DIVU (R50). -/
def execDivu (d a b : BitVec 5) (s : State) : Res := result4 d (divU (s.x a) (s.x b)) s

/-- REM (R50). -/
def execRem (d a b : BitVec 5) (s : State) : Res := result4 d (remS (s.x a) (s.x b)) s

/-- REMU (R50). -/
def execRemu (d a b : BitVec 5) (s : State) : Res := result4 d (remU (s.x a) (s.x b)) s

/-- MULW (R49). -/
def execMulw (d a b : BitVec 5) (s : State) : Res := result4 d (sext32 (s.x a * s.x b)) s

end Sys2Proof.Machine
end

