-- ==== Sys2Proof/Machine/Regions.lean ====
section
/-!
DEFINITION. The SRG instructions: SRDEF, SRLD, SRST, SRROW, SRTRAV, SRDENSE and SRCNT (R249, R255 to R265, R390).
-/

namespace Sys2Proof.Machine

/-- The fault frame of a region instruction (R249, R256, R257, R390). -/
def regionFrame (base : Word) (acc : Acc) (remain : Nat) (info3 : Word) : Frame :=
  { kind := 6, acc := acc.code, size := 8, base := base, remain := remain, info3 := info3 }

/-- A trap with the frame of a region instruction at (PC, 0). -/
def regionTrap (c : Cause) (base val : Word) : Trap :=
  { cause := c, val := val, info := .frame (regionFrame base .load 1 0) }

/-! ### SRDEF -/

/-- The field rules of a region descriptor (R247). -/
def descriptorValid (q : Nat → Nat) : Bool :=
  let rank := bits 0 3 (q 0)
  let vtag := bits 8 5 (q 0)
  let lim (j : Nat) : Nat := q (1 + j)
  bits 25 39 (q 0) == 0 && bits 18 6 (q 0) == 0 && bits 13 3 (q 0) == 0 && bits 3 5 (q 0) == 0
    && 1 ≤ rank && rank ≤ 4 && 1 ≤ vtag && vtag ≤ 16
    && ((List.range 4).all fun j => if rank ≤ j then lim j == 0 else lim j ≤ 2 ^ coordWidth rank - 2)
    && q 5 % 4096 == 0 && q 6 % 256 == 0 && 512 ≤ q 6 && q 6 ≤ 2 ^ 40 && q 7 == 0

/-- The physical pages of a pool (R249): each device memory that the hart may write, and none twice or of another pool. -/
def poolPages (base : Word) (pool : Nat) : Nat → Nat → List Nat → M (List Nat)
  | 0, _, pages => pure pages
  | k + 1, i, pages => do
    let va := pool + 4096 * i
    let s ← get
    let fail (f : Failure) : Trap := accessTrap f (word va) 0 .store (word va) (regionFrame base .store 1 0)
    if inWindow va then trapNow (fail { cause := .access })
    else
      match s.page va .store with
      | .error f => trapNow (fail f)
      | .ok (e, s') =>
        set s'
        let page := e.frame / 4096
        if e.cls ≠ .device || !s.dev.plainPage page || pages.contains page then trapNow (fail { cause := .access })
        else poolPages base pool k (i + 1) (pages ++ [page])

/-- The region that a valid descriptor declares (R249). -/
def regionOf (s : State) (base : Word) (q : Nat → Nat) (pages : List Nat) : Region :=
  { addr := base, gang := s.hart.ident.gang, ctx := s.hart.ctx, home := bits 16 2 (q 0), rank := bits 0 3 (q 0)
    vtag := (tagOfCode (bits 8 5 (q 0))).getD .none, lims := (List.range (bits 0 3 (q 0))).map fun j => q (1 + j)
    pool := q 5, size := q 6, pages := pages, sound := true }

/-- The hart's earlier accesses are performed at device scope (R249). -/
def State.performEarlier (s : State) : State := (s.performAt .device fun _ => true).applyOwnCombines

/-- SRDEF (R249). -/
def execSrdef (a : BitVec 5) (s : State) : Res :=
  complete8 (do
    let base := s.x a
    modify State.performEarlier
    awaitCombines
    need (base.toNat % 64 = 0) (regionTrap .misaligned base base)
    let (l, t) ← readWords base.toNat (regionFrame base .load 1 0) 0 8
    let q (i : Nat) : Nat := l.getD i 0
    let s ← get
    let home := (s.dev.regions.filter fun r => r.home = bits 16 2 (q 0)).length
    need (descriptorValid q && (s.dev.region base).isNone && home < 256) (regionTrap .access base base)
    let pages ← poolPages base (q 5) ((q 6 + 4095) / 4096) 0 []
    let r := regionOf s base q pages
    let s ← get
    let keep := bit 24 (q 0)
    need (!keep || (Header.ofNat (s.dev.read (r.nodeKey 0) 256)).admitted r.nodes) (regionTrap .access base (word (q 5)))
    modify fun s =>
      let r := { r with sound := !keep || s.dev.treeSound r }
      let d := if keep then s.dev else s.dev.emptyTree r
      let s := { s with dev := { d with regions := d.regions ++ [r] } }
      (((s.markRead t).markEscape t).closeEntries).setVstart 0) s

/-! ### Checks -/

/-- An SRDENSE of the hart that reads the region is pending: later SR instructions of the hart to it take effect after it
(R263). -/
def State.densePending (s : State) (base : Word) : Bool :=
  s.core.copies.any fun c => c.owner == s.hart.ident.uid && (match c.shape with
    | .dense r _ _ => r == base
    | _ => false)

/-- Check 1 of R256: X[A] names a declared region; and the order of R263. -/
def needRegion (base : Word) : M Region := do
  match (← get).dev.region base with
  | some r =>
    if (← get).densePending base then
      modify State.engineProgress
      waitHere
    else pure r
  | none => trapNow (regionTrap .access base base)

/-- The POISON trap of a node's uncorrectable error (R257, R390). -/
def nodeTrap (r : Region) (i elem : Nat) (acc : Acc) (remain : Nat) : Trap :=
  { cause := .poison, val := word (r.pool + 256 * i), elem := elem
    info := .frame (regionFrame r.addr acc remain (word (r.nodePhys i))) }

/-- A step of the home that only reads, for a form that commits nothing when a node's read fails (R390). -/
def askRegion {α : Type} (r : Region) (m : Home α) : M α := fun s =>
  match s.dev.askHome r m with
  | .ok a => .ok (a, s)
  | .error i => .error (s, .trap (nodeTrap r i 0 .load 1))

/-- Check 2 of R256 for the key register. -/
def needKeyTag (t : Tag) : M Unit := need (t = .i64 || t = .w64) (tagTrap t .none)

/-! ### SRLD and SRST -/

/-- What one element of SRLD reads (R257): the value and its taint, or the node with an error. -/
def regionLoad (d : Dev) (r : Region) (k : Nat) : Except Nat (Nat × Bool) :=
  if r.inRange k then (d.askHome r (homeLookup d r k)).map fun (v, t) => (v.getD 0, t) else .ok (0, false)

/-- SRLD (R257): in a region whose tree breaks R251 the values are free (R250). -/
def execSrld (d : BitVec 6) (a : BitVec 5) (k : BitVec 6) (s : State) : Res :=
  complete8 (do
    let r ← needRegion (s.x a)
    let tk := (s.v k).tag
    needKeyTag tk
    needUnbound d
    let n := s.range .w64 8
    let start := s.hart.vec.vstart
    let x ← readSrc k start n
    let s ← get
    let c := s.dev.freeCount
    let load (i : Nat) : Except Nat (Nat × Bool) :=
      if r.sound then regionLoad s.dev r (x.elem i) else .ok (Config.free (c + i) % 2 ^ r.valueBits, false)
    let upTo := min n ((x.fail.map (·.1)).getD n)
    let at' (i : Nat) : Bool := start ≤ i && (match load i with | .error _ => true | .ok _ => false)
    let bad := (List.range upTo).find? at'
    let fail := match bad with
      | some i => (match load i with | .error j => some (i, nodeTrap r j i .load (n - i)) | .ok _ => none)
      | none => x.fail
    let read (i : Nat) : Bool := start ≤ i && (match load i with | .ok (_, t) => t | .error _ => false)
    let tainted := (List.range ((fail.map (·.1)).getD n)).filter read
    let x := { x with fail := fail, taint := tainted.foldl (fun m i => setBit m (i / 16) true) x.taint }
    modify fun s => { s.markRead !tainted.isEmpty with dev := if r.sound then s.dev else { s.dev with freeCount := c + n } }
    Run.go { d := d, tag := r.vtag, n := n, wmax := 8, mask := ones n, srcs := [x]
             f := fun i => (match load i with | .ok (v, _) => v | .error _ => 0, {}) }) s

/-- One element of SRST (R257) into a region whose tree breaks R251: some node takes free bytes (R250). -/
def scribble (d : Dev) (r : Region) : Dev :=
  let c := d.freeCount
  let i := Config.free c % r.nodes
  { d.writeNode (r.nodeKey i) (freeBytes (c + 1) 256) with freeCount := c + 257 }

/-- Elements `i` to `i + k - 1` of SRST in ascending order (R257), each value as the instruction reads it (R131). -/
def regionStores (r : Region) (n : Nat) (xk xv : Src) : Nat → Nat → M Unit
  | 0, _ => pure ()
  | k + 1, i => do
    let key := xk.elem i
    let t := xk.taint.testBit (i / 16) || xv.taint.testBit (i / 16)
    need (r.inRange key)
      { cause := .access, val := r.addr, elem := i, info := .frame (regionFrame r.addr .store (n - i) (word key)) }
    let s ← get
    if r.sound then
      match s.dev.tellHome r t (homeStore s.dev r key (canonElem r.vtag (xv.elem i)).1) with
      | .error j => trapNow (nodeTrap r j i .store (n - i))
      | .ok (.exhausted, _) => trapNow { cause := .spxhaust, val := word key, elem := i }
      | .ok (.done, d) => set (({ s with dev := d }.markSeen t).raise { rninv := rnInvalid r.vtag (xv.elem i) })
    else set { s with dev := scribble s.dev r }
    regionStores r n xk xv k (i + 1)

/-- SRST (R257, R254): it may stop at an element-group boundary (R83). -/
def execSrst (d : BitVec 6) (a : BitVec 5) (k : BitVec 6) (s : State) : Res :=
  complete8 (do
    let r ← needRegion (s.x a)
    let tk := (s.v k).tag
    needKeyTag tk
    need ((s.v d).tag = r.vtag) (tagTrap (s.v d).tag r.vtag)
    let n := s.range .w64 8
    let start := s.hart.vec.vstart
    let xk ← readSrc k start n
    let xv ← readSecond xk k d start n
    let xs := bothSrcs xk xv k d
    let fail := if start < n then lowestFail xs else none
    let pause := (← get).stopAt start n
    let stop := min ((fail.map (·.1)).getD n) (pause.getD n)
    regionStores r n xk xv (stop - start) start
    match fail with
    | some (f, t) => if f = stop then trapNow { t with elem := f } else stopInside stop
    | none => if stop < n then stopInside stop else modify fun s => (consumeAll xs s).setVstart 0) s

/-! ### SRROW, SRTRAV, SRCNT -/

/-- SRROW (R259). -/
def execSrrow (d : BitVec 4) (a b : BitVec 5) (s : State) : Res :=
  complete8 (do
    let r ← needRegion (s.x a)
    let w := coordWidth r.rank
    let k0 := (s.x b).toNat / 2 ^ w * 2 ^ w
    let m := min s.hart.vec.vl s.rb
    if m = 0 then modify fun s => (s.setP d 0).setVstart 0
    else if !r.sound then
      modify fun s => ({ s with dev := { s.dev with freeCount := s.dev.freeCount + 1 } }.setP d
        (Config.free s.dev.freeCount % 2 ^ m)).setVstart 0
    else
      let top := min (m - 1) (r.lims.getD (r.rank - 1) 0)
      let found ← if r.inRange k0 then askRegion r (homeScan s.dev r (k0 + top) (r.nodes + 1) (top + 1) k0) else pure []
      let t := found.any fun p => p.2.2
      modify fun s =>
        (((s.markRead t).markEscape t).setP d (found.foldl (fun p q => setBit p (q.1 - k0) true) 0)).setVstart 0) s

/-- The register after a traversal (R260): element j for each key found, the others kept. -/
def VReg.putFound (v : VReg) (t : Tag) (l : List (Nat × Bool)) : VReg :=
  let w := 8 * tagWidth t
  let data := (l.zipIdx).foldl (fun d (p, j) => setItem w d j p.1) v.data
  let src := (l.zipIdx).foldl (fun m (p, j) => if p.2 then setBit m (j / 16) true else m) 0
  { v with tag := t, data := data, taint := taintAfter v.taint src (ones l.length) l.length }

/-- The free findings of a traversal of a tree that breaks R251: how many, and each key and value. -/
def freeFound (c req vbits : Nat) : List (Nat × Nat × Bool) :=
  (List.range (Config.free c % (req + 1))).map fun i =>
    (Config.free (c + 1 + 2 * i) % 2 ^ 64, Config.free (c + 2 + 2 * i) % 2 ^ vbits, false)

/-- SRTRAV (R260): X[B] is the even register of a pair, X[B + 1] the end key. -/
def execSrtrav (d : BitVec 6) (a : BitVec 5) (b : BitVec 4) (s : State) : Res :=
  complete8 (do
    let r ← needRegion (s.x a)
    needUnbound d
    needUnbound (d + 1)
    let cur := (s.x (even b)).toNat
    let fin := (s.x (odd b)).toNat
    let req := if s.hart.vec.vl = 0 then 0 else min s.hart.vec.vl (s.vlmax 8)
    let found ← if req = 0 then pure []
      else if r.sound then askRegion r (homeScan s.dev r fin (r.nodes + 1) req cur)
      else pure (freeFound s.dev.freeCount req r.valueBits)
    modify fun s =>
      let t := found.any fun p => p.2.2
      let s := if r.sound || req = 0 then s else { s with dev := { s.dev with freeCount := s.dev.freeCount + 2 * req + 2 } }
      let s := if found.isEmpty then s
        else (s.setX (even b) (word ((found.getLast?.map (·.1)).getD 0 + 1))).markEscape t
      let s := ((s.markRead t).markSeen t).setVec { s.hart.vec with vl := found.length, vstart := 0 }
      let s := s.setV d ((s.v d).putFound .w64 (found.map fun p => (p.1, p.2.2)))
      s.setV (d + 1) ((s.v (d + 1)).putFound r.vtag (found.map fun p => p.2))) s

/-- SRCNT (R262): KEYS in the low half, FREECNT in the high half. -/
def execSrcnt (d a : BitVec 5) (s : State) : Res :=
  complete8 (do
    let r ← needRegion (s.x a)
    let h ← askRegion r (do pure (← get).hdr)
    modify fun s => (s.setX d (word (h.keys % 2 ^ 32 + h.freeCnt % 2 ^ 32 * 2 ^ 32))).setVstart 0) s

/-! ### SRDENSE -/

/-- Check 5 of R261: the bounds of the box, its size and the destination's alignment. -/
def boxValid (r : Region) (q : Nat → Nat) (dst : Nat) : Bool :=
  let w := r.valueBits / 8
  let lo := (List.range r.rank).map q
  let hi := (List.range r.rank).map fun j => q (4 + j)
  ((List.range 4).all fun j =>
    if r.rank ≤ j then q j == 0 && q (4 + j) == 0 else q j ≤ q (4 + j) && q (4 + j) ≤ r.lims.getD j 0)
    && boxSize lo hi * w < 2 ^ 48 && dst % w == 0

/-- SRDENSE (R261): with VL = 0 it performs no element (R256). -/
def execSrdense (d a b : BitVec 5) (tk : BitVec 1) (treg : BitVec 5) (s : State) : Res :=
  complete8 (do
    let t ← copyTarget tk treg
    let r ← needRegion (s.x a)
    let box := s.x b
    let fr := regionFrame box .load 1 0
    need (box.toNat % 64 = 0) { cause := .misaligned, val := box, info := .frame fr }
    let (l, tn) ← readWords box.toNat fr 0 8
    let q (i : Nat) : Nat := l.getD i 0
    need (boxValid r q (s.x d).toNat) { cause := .access, val := box, info := .frame fr }
    let lo := (List.range r.rank).map q
    let hi := (List.range r.rank).map fun j => q (4 + j)
    modify fun s => (s.markRead tn).markEscape tn
    issueThread (s.x d) (word (r.valueBits / 8)) 0 t (.dense r.addr lo hi) (s.hart.vec.vl = 0)) s

end Sys2Proof.Machine
end

