-- ==== Sys2Proof/Machine/Sample.lean ====
section
/-!
DEFINITION. Sampling: VSAMPLE and VTOPK (R271 to R274).
-/

namespace Sys2Proof.Machine

/-- An F32 operation of the draw: RNE, nothing flushed, no flag kept (R271). -/
def drawOp (f : Fmt → Rm → Bool → Fv → Fv → Nat × Flags) (a b : Nat) : Nat :=
  (f fmtF32 .rne false (fmtF32.decode a) (fmtF32.decode b)).1

/-- The largest number among the logits, or −∞ (R271). -/
def largestLogit (l : List Nat) : Nat :=
  (l.foldl (fun b k => match b with
    | none => if (fmtF32.decode k).isNan then none else some k
    | some m => if (fpCompare .gt (fmtF32.decode k) (fmtF32.decode m)).1 then some k else some m) none).getD 0xFF800000

/-- The weight of a logit (R272). -/
def drawWeight (m c l : Nat) : Nat :=
  if (fmtF32.decode l).isNan || m = 0xFF800000 then 0
  else if m = 0x7F800000 then (if l = 0x7F800000 then 0x3F800000 else 0)
  else
    let w := (fpExp2 fmtF32 .rne false (fmtF32.decode (drawOp fpMul (drawOp fpSub l m) c))).1
    if (fmtF32.decode w).isNan then 0 else w

/-- The first position whose prefix sum exceeds the threshold, else the last (R271). -/
def drawIndex (t : Nat) : Nat → Nat → List (Nat × Nat) → Nat
  | last, _, [] => last
  | _, acc, (i, w) :: rest =>
    let acc := drawOp fpAdd acc w
    if (fpCompare .gt (fmtF32.decode acc) (fmtF32.decode t)).1 then i else drawIndex t i acc rest

/-- The draw of R271 from the legal positions and their logits; `k` is the 24-bit number u · 2^24. -/
def draw (c k : Nat) (l : List (Nat × Nat)) : Nat :=
  let m := largestLogit (l.map (·.2))
  let ws := l.map fun (i, x) => (i, drawWeight m c x)
  let sum := ((reduce .f32 {} (fun a b => (drawOp fpAdd a b, {})) (ws.map (·.2))).getD (0, {})).1
  let t := (fpMul fmtF32 .rne false (.fin false k (-24)) (fmtF32.decode sum)).1
  drawIndex t 0 0 ws

/-- The word of a VSAMPLE (R33, R271). -/
def vsampleWord (d : BitVec 5) (a : BitVec 6) (x : BitVec 4) (g : BitVec 4) : Word :=
  word (0x3E + d.toNat * 2 ^ 7 + a.toNat * 2 ^ 13 + x.toNat * 2 ^ 20 + g.toNat * 2 ^ 25)

/-- VSSTAT with NOLEGAL made the given truth value (R244). -/
def State.setNoLegal (s : State) (b : Bool) : State :=
  { s with hart := { s.hart with engine := { s.hart.engine with vsstat := (s.hart.engine.vsstat &&& 2) ||| wordB b } } }

/-- VSAMPLE retires; with TRAPEN and nothing legal it then traps EBREAK at the boundary after it (R273). -/
def finishSample (w : Word) (s : State) : State :=
  let s' := s.advance 4
  if s.hart.engine.vsstat = 3 then
    s'.takeTrap { cause := .ebreak, val := w, info := .words s.hart.pc 0 0 0 }
  else s'

/-- VSAMPLE (R271 to R273). -/
def execVsample (d : BitVec 5) (a : BitVec 6) (x : BitVec 4) (g : BitVec 4) (s : State) : Res :=
  complete (do
    let t := (s.v a).tag
    need (t = .f32) (tagTrap t .f32)
    let n := s.range .f32 4
    let xa ← readSrc a 0 n
    needStrip [xa]
    let legal := activeList n (s.p g n)
    let seed := s.x (even x)
    let ctl := s.x (odd x)
    modify fun s =>
      let s := (consume xa s).setVstart 0
      if legal.isEmpty then (s.setNoLegal true).setX d (BitVec.allOnes 64)
      else
        let k := (hgenWord seed (ctl >>> 32) 0).toNat / 2 ^ 40
        let i := draw (ctl.toNat % 2 ^ 32) k (legal.map fun i => (i, xa.elem i))
        let s := (s.setNoLegal false).markEscape (xa.taint &&& groupsOf (s.p g n) n != 0)
        s.setX d (word i)) (finishSample (vsampleWord d a x g)) s

/-- Does element `k` come before element `j` in descending order (R274)? −0 lies below +0, a NaN below every number; FZ = 2 reads a
subnormal as zero (R128). -/
def descends (t : Tag) (fz : Fz) (k j : Nat) : Bool :=
  match tagClass t with
  | .f =>
    let x := (fmtOf t).source fz k
    let y := (fmtOf t).source fz j
    if x.isNan then false
    else if y.isNan then true
    else 0 < x.compare y || (x.isZero && y.isZero && y.neg && !x.neg)
  | _ => elemInt t j < elemInt t k

/-- An element and its index put in their place behind every element it does not come before. -/
def insertDesc (t : Tag) (fz : Fz) (x : Nat × Nat) : List (Nat × Nat) → List (Nat × Nat)
  | [] => [x]
  | y :: ys => if descends t fz x.1 y.1 then x :: y :: ys else y :: insertDesc t fz x ys

/-- Elements with their indices in descending order, equal values in ascending index order (R274). -/
def sortDesc (t : Tag) (fz : Fz) (l : List (Nat × Nat)) : List (Nat × Nat) := l.foldl (fun acc x => insertDesc t fz x acc) []

/-- The first `k` elements of a register replaced, its tag set, and its taint: all written groups when a source read was
tainted (R144). -/
def VReg.putFirst (v : VReg) (t : Tag) (k : Nat) (f : Nat → Nat) (tainted : Bool) : VReg :=
  let w := 8 * tagWidth t
  { v with
    tag := t
    data := (List.range k).foldl (fun d j => setItem w d j (f j)) v.data
    taint := taintAfter v.taint (if tainted then ones 4096 else 0) (ones k) k }

/-- VTOPK (R274). -/
def execVtopk (d a : BitVec 6) (x : BitVec 5) (g : BitVec 4) (s : State) : Res :=
  complete4 (do
    let t := (s.v a).tag
    needOne t fun c => c = .i || c = .w || c = .f
    needUnbound d
    needUnbound (d + 1)
    let n := s.range t (max 4 (tagWidth t))
    let k := min (s.x x).toNat n
    let xa ← readSrc a 0 n
    needStrip [xa]
    let act := s.p g n
    let sorted := sortDesc t s.hart.vec.vtype.fz ((activeList n act).map fun i => (xa.elem i, i))
    let tainted := xa.taint &&& groupsOf act n != 0
    modify fun s =>
      let s := (consume xa s).markSeen (tainted && k != 0)
      let s := s.setV d ((s.v d).putFirst t k (fun j => ((sorted[j]?).map (·.1)).getD 0) tainted)
      (s.setV (d + 1) ((s.v (d + 1)).putFirst .i32 k (fun j => ((sorted[j]?).map (·.2)).getD (ones 32)) tainted)).setVstart 0) s

end Sys2Proof.Machine
end

