-- ==== Sys2Proof/Machine/SparseVec.lean ====
section
/-!
DEFINITION. The sparse vector registers y0 to y7 (R266 to R270).
-/

namespace Sys2Proof.Machine

/-- The most pairs a sparse vector register holds (R266). -/
def sparseLimit : Nat := 4096

/-- The register y[r]. -/
def State.y (s : State) (r : BitVec 3) : YReg := s.hart.y[r.toNat]'(by simpa using r.isLt)

/-- The register y[r] replaced. -/
def State.setY (s : State) (r : BitVec 3) (y : YReg) : State :=
  { s with hart := { s.hart with y := s.hart.y.set r.toNat y (by simpa using r.isLt) } }

/-- The classes a value tag may have (R266). -/
def sparseClass (c : TagClass) : Bool := c = .i || c = .w || c = .f || c = .rn

/-- A source whose tag is NONE traps (R266). -/
def needSparse (t : Tag) : M Unit := need (t != .none) (tagTrap .none .none)

/-- The fault frame of pair `p` of `count` (R87, R268). -/
def pairFrame (base : Word) (acc : Acc) (count p : Nat) : Frame :=
  { kind := 2, acc := acc.code, size := 8, base := base, stride := 16, remain := count - p }

/-- The checks of a pair's access before it is made (R62, R346): where the coordinate and the value lie. -/
def pairPlaces (base : Word) (acc : Acc) (count p w : Nat) : M (Place × Place) := fun s =>
  let va := base + word (16 * p)
  let fr := pairFrame base acc count p
  let fail (e : Failure) (at' : Word) : Trap := accessTrap e at' p acc at' fr
  match s.locate va.toNat 8 acc with
  | .error (e, s) => .error (s, .trap (fail e va))
  | .ok (pc, s) =>
    match s.locate (va.toNat + 8) w acc with
    | .error (e, s) => .error (s, .trap (fail e (va + 8)))
    | .ok (pv, s) => .ok ((pc, pv), s)

/-- The watch of a pair (R346). -/
def needPairUnwatched (base : Word) (acc : Acc) (p w : Nat) : M Unit := fun s =>
  match s.watchHit (base + word (16 * p)).toNat (8 + w) acc with
  | some a => .error (s, .trap (watchTrap a p))
  | none => .ok ((), s)

/-- One word of a pair returns, or its failure traps at the pair; it waits for a window that no port serves (R378). -/
def pairWord (base : Word) (count p off w : Nat) (pl : Place) : M (Nat × Bool) := awaitWindow pl >>= fun _ => fun s =>
  match returnElem w p pl s with
  | .error e =>
    let va := base + word (16 * p + off)
    .error (s, .trap (accessTrap e va p .load va (pairFrame base .load count p)))
  | .ok (v, t, s) => .ok ((v, t), s)

/-- Pair `p` onward loaded while the coordinates ascend (R268); a trap leaves the register the pairs below it. -/
def loadPairs (d : BitVec 3) (t : Tag) (base : Word) (count : Nat) : Nat → Nat → M Unit
  | 0, _ => pure ()
  | k + 1, p => do
    let w := tagWidth t
    let (pc, pv) ← pairPlaces base .load count p w
    let (c, tc) ← pairWord base count p 0 8 pc
    let (v, tv) ← pairWord base count p 8 w pv
    needPairUnwatched base .load p w
    let y := (← get).y d
    if (match y.pairs.getLast? with | some q => decide (c ≤ q.1) | none => false) then pure ()
    else do
      modify fun s => (((s.markRead (tc || tv)).markEscape (tc || tv)).setY d { y with pairs := y.pairs ++ [(c, v)] })
      loadPairs d t base count k (p + 1)

/-- SVLD (R268). -/
def execSvld (y : BitVec 3) (a b : BitVec 5) (s : State) : Res :=
  complete4 (do
    let t := s.hart.vec.vtype.etag
    need (t != .none) (tagTrap .none .none)
    need (sparseClass (tagClass t)) (tagTrap t .none)
    let base := s.x a
    let count := min (s.x b).toNat sparseLimit
    let start := s.hart.vec.vstart
    need (base.toNat % 16 = 0)
      { cause := .misaligned, val := base, elem := start, info := .frame (pairFrame base .load count start) }
    awaitSpan base.toNat (16 * count)
    modify fun s => s.setY y { s.y y with pairs := (s.y y).pairs.take start }
    loadPairs y t base count (count - start) start
    modify fun s => (s.setY y { s.y y with tag := t }).setVstart 0) s

/-- One doubleword of a pair stored (R268, R322): it leaves no record of a vector store (R338). -/
def storePairWord (pl : Place) (v : Nat) (s : State) : State :=
  s.perform { s.entry .vector pl (bytesOf 8 v) with whole := some s.hart.storeId }

/-- The hart's earlier vector accesses to the bytes of pair `p` are performed before its store; while a window holds a combine of
them up, the instruction stands at the pair (R180, R378). -/
def settlePair (p : Nat) (pc pv : Place) : M Unit := do
  modify fun s => (s.settleVector pc.key 8).settleVector pv.key 8
  if (← get).combineHeld pc.key 8 || (← get).combineHeld pv.key 8 then stopInside p

/-- Pairs `p` onward stored (R268), each value as the instruction reads it (R131), zero-extended to a doubleword. -/
def storePairs (t : Tag) (base : Word) (count : Nat) : List (Nat × Nat) → Nat → M Unit
  | [], _ => pure ()
  | (c, v) :: rest, p => do
    let (pc, pv) ← pairPlaces base .store count p 8
    needPairUnwatched base .store p 8
    settlePair p pc pv
    modify fun s => (storePairWord pv (canonElem t v).1 (storePairWord pc c s)).raise { rninv := rnInvalid t v }
    storePairs t base count rest (p + 1)

/-- SVST (R268). -/
def execSvst (y : BitVec 3) (a : BitVec 5) (s : State) : Res :=
  complete4 (do
    let r := s.y y
    needSparse r.tag
    let base := s.x a
    let count := r.pairs.length
    let start := s.hart.vec.vstart
    need (base.toNat % 16 = 0)
      { cause := .misaligned, val := base, elem := start, info := .frame (pairFrame base .store count start) }
    awaitSpan base.toNat (16 * count)
    storePairs r.tag base count (r.pairs.drop start) start
    modify fun s => s.setVstart 0) s

/-- The union of two ascending lists of pairs, both-held coordinates combined; at most `fuel` pairs (R269). -/
def unionPairs (f : Nat → Nat → ElemRes) : Nat → List (Nat × Nat) → List (Nat × Nat) → List (Nat × Nat) × Raised
  | 0, _, _ => ([], {})
  | _, [], q => (q, {})
  | _, p, [] => (p, {})
  | fuel + 1, (c, v) :: p, (e, w) :: q =>
    if c < e then let (l, r) := unionPairs f fuel p ((e, w) :: q); ((c, v) :: l, r)
    else if e < c then let (l, r) := unionPairs f fuel ((c, v) :: p) q; ((e, w) :: l, r)
    else
      let (x, m) := f v w
      let (l, r) := unionPairs f fuel p q
      ((c, x) :: l, m.or r)

/-- The number of coordinates of the union. -/
def unionSize (p q : List (Nat × Nat)) : Nat := p.length + (q.filter fun x => !(p.any fun y => y.1 == x.1)).length

/-- The intersection of two lists of pairs in ascending order, the values combined (R269). -/
def meetPairs (f : Nat → Nat → ElemRes) (p q : List (Nat × Nat)) : List (Nat × Nat) × Raised :=
  p.foldr (fun (c, v) (l, r) => match q.find? fun x => x.1 == c with
    | some (_, w) => let (x, m) := f v w; ((c, x) :: l, m.or r)
    | none => (l, r)) ([], {})

/-- The checks of a form with two y sources (R138, R266, R269). -/
def needSparsePair (a b : YReg) : M Tag := do
  need (a.tag != .none && b.tag != .none) (tagTrap a.tag b.tag)
  need (a.tag = b.tag) (tagTrap a.tag b.tag)
  pure a.tag

/-- The pairs as an instruction reads them: residues reduced, with RNINV when one was not canonical (R131). -/
def canonPairs (t : Tag) (l : List (Nat × Nat)) : List (Nat × Nat) × Raised :=
  (l.map fun p => (p.1, (canonElem t p.2).1), { rninv := l.any fun p => rnInvalid t p.2 })

/-- SVADD (R269). -/
def execSvadd (d a b : BitVec 3) (s : State) : Res :=
  complete4 (do
    let ya := s.y a
    let yb := s.y b
    let t ← needSparsePair ya yb
    let (pa, ra) := canonPairs t ya.pairs
    let (pb, rb) := canonPairs t yb.pairs
    let (l, r) := unionPairs (VecOp.add.elem t s.hart.vec.vtype) sparseLimit pa pb
    let full := sparseLimit < unionSize ya.pairs yb.pairs
    modify fun s => ((s.raise ((r.or (ra.or rb)).or { satf := full })).setY d { tag := t, pairs := l.take sparseLimit }).setVstart 0) s

/-- SVMUL (R269). -/
def execSvmul (d a b : BitVec 3) (s : State) : Res :=
  complete4 (do
    let ya := s.y a
    let yb := s.y b
    let t ← needSparsePair ya yb
    let (l, r) := meetPairs (VecOp.mul.elem t s.hart.vec.vtype) ya.pairs yb.pairs
    modify fun s => ((s.raise r).setY d { tag := t, pairs := l }).setVstart 0) s

/-- SVDOT (R270). -/
def execSvdot (d : BitVec 5) (a b : BitVec 3) (s : State) : Res :=
  complete4 (do
    let ya := s.y a
    let yb := s.y b
    let t ← needSparsePair ya yb
    let vt := s.hart.vec.vtype
    let (l, r) := meetPairs (VecOp.mul.elem t vt) ya.pairs yb.pairs
    let (sum, r') := tree (VecOp.add.elem t vt) l.length (l.map (·.2)) r
    modify fun s => ((s.raise r').setX d (if l.isEmpty then 0 else extendElem t (sum.headD 0))).setVstart 0) s

/-- SVTOV (R270). -/
def execSvtov (d : BitVec 6) (y : BitVec 3) (x : BitVec 5) (s : State) : Res :=
  complete4 (do
    let r := s.y y
    needSparse r.tag
    needUnbound d
    let n := s.range r.tag (tagWidth r.tag)
    let lo := (s.x x).toNat
    Run.go { d := d, tag := r.tag, n := n, wmax := tagWidth r.tag, mask := ones n, srcs := [], stops := false
             f := fun i => canonElem r.tag (((r.pairs.find? fun p => p.1 == lo + i).map (·.2)).getD 0) }) s

/-- The slot layout of a sparse vector register (R266). -/
def YReg.slot (y : YReg) : Word := word (y.pairs.length % 2 ^ 13 + tagCode y.tag * 2 ^ 16)

/-- SVLEN (R270). -/
def execSvlen (d : BitVec 5) (y : BitVec 3) (s : State) : Res :=
  complete4 (do
    needSparse (s.y y).tag
    modify fun s => (s.setX d (s.y y).slot).setVstart 0) s

end Sys2Proof.Machine
end

