-- ==== Sys2Proof/Machine/Trees.lean ====
section
/-!
DEFINITION. The reduction trees: RPOST, RWAIT, the routers' nodes and the closing of rounds (R300 to R303, R318, R319).
-/

namespace Sys2Proof.Machine

/-- The addition of a reduction (R302): RNE with no flag on F32, modulo 2^32 on I32. -/
def treeAdd (t : Tag) (a b : Nat) : Nat :=
  if t = .f32 then (fpAdd fmtF32 .rne false (fmtF32.decode a) (fmtF32.decode b)).1 else (a + b) % 2 ^ 32

/-- Two packets added element by element (R302). -/
def packetAdd (t : Tag) (a b : List Nat) : List Nat := List.zipWith (treeAdd t) a b

/-- The sum of packets in order: the first, plus the second, and so on (R302, R318). -/
def packetSum (t : Tag) : List (List Nat) → Option (List Nat)
  | [] => none
  | a :: l => some (l.foldl (packetAdd t) a)

/-! ### Rounds -/

/-- The logical harts of a logical core, ascending (R318). -/
def Gang.hartsOf (g : Gang) (member : Nat) : List Nat :=
  let l := (g.shape.filter fun h => h.lcore = member).map (·.lhart)
  (List.range 256).filter fun h => l.contains h

/-- The packet of a hart in a round. -/
def Round.packetOf (r : Round) (lhart : Nat) : Option Packet := r.packets.find? fun p => p.lhart == lhart

/-- A member's packet has been accepted: every hart of its logical core has had its own accepted (R318). -/
def Gang.complete (g : Gang) (r : Round) (member : Nat) : Bool :=
  (g.hartsOf member).all fun h => (r.packetOf h).isSome

/-- packet(i) of R302: the left fold over the harts of the logical core (R318). -/
def Gang.contribution (g : Gang) (r : Round) (member : Nat) : Option (List Nat) :=
  packetSum (r.tag.getD .i32) ((g.hartsOf member).filterMap fun h => (r.packetOf h).map (·.data))

/-- MASK of a round (R301). -/
def Gang.mask (g : Gang) (t : Tree) (r : Round) : Nat :=
  (List.range t.children.length).foldl (fun m i => if g.complete r i && !(g.hartsOf i).isEmpty then setBit m i true else m) 0

/-- The node a router has formed in a round. -/
def Round.nodeOf (r : Round) (member : Nat) : Option (List Nat) := (r.nodes.find? fun n => n.1 == member).map (·.2)

/-- The router of a member forms its node (R302), if every packet it needs has arrived and it has not done so; the root's
node is the result. -/
def Gang.formNode (g : Gang) (t : Tree) (member : Nat) (r : Round) : Option Round :=
  match t.children[member]? with
  | none => none
  | some (left, right) =>
    let kids := [left, right].filterMap fun c => c
    if r.status = .running && (r.nodeOf member).isNone && g.complete r member && kids.all fun c => (r.nodeOf c).isSome then
      (g.contribution r member).bind fun own =>
        (packetSum (r.tag.getD .i32) (kids.filterMap r.nodeOf ++ [own])).map fun data =>
          { r with
            nodes := r.nodes ++ [(member, data)]
            status := if member = t.root then .result data (r.packets.any (·.tainted)) else r.status }
    else none

/-- Routers form nodes until none can: at most one for each member and `fuel` passes. -/
def Gang.formAll (g : Gang) (t : Tree) : Nat → Round → Round
  | 0, r => r
  | fuel + 1, r =>
    g.formAll t fuel ((List.range t.children.length).foldl (fun r m => (g.formNode t m r).getD r) r)

/-- The time-out of a tree in nanoseconds (R300). -/
def Tree.timeout (t : Tree) : Nat := (if t.tout = 0 then 50 else t.tout) * 1000

/-- A round whose clock has run TOUT without a result closes (R303). -/
def Round.overdue (t : Tree) (now : Nat) (r : Round) : Bool :=
  r.status = .running && (match r.start with | some s => decide (s + t.timeout ≤ now) | none => false)

/-- The overdue rounds of the gang close (R303). -/
def Gang.closeOverdue (now : Nat) (g : Gang) : Gang :=
  let f (r : Round) : Round :=
    if (match g.trees[r.tree]? with | some t => r.overdue t now | none => false) = true then { r with status := .closed } else r
  { g with rounds := g.rounds.map f }

/-- A round is open from the first packet accepted into it until it has a result or closes (R319). -/
def Round.isOpen (r : Round) : Bool := r.status = .running && !r.packets.isEmpty

/-- The round of a number on a tree. -/
def Gang.round (g : Gang) (tree num : Nat) : Option Round := g.rounds.find? fun r => r.tree == tree && r.num == num

/-- The round, or a new one that nothing has reached. -/
def Gang.roundOr (g : Gang) (tree num : Nat) : Round :=
  (g.round tree num).getD { tree := tree, num := num, start := none, tag := none, packets := [], nodes := [], status := .running }

/-- A round put back. -/
def Gang.setRound (g : Gang) (r : Round) : Gang :=
  { g with rounds := (g.rounds.filter fun q => !(q.tree == r.tree && q.num == r.num)) ++ [r] }

/-- The round's clock starts (R303). -/
def Round.begin (now : Nat) (r : Round) : Round := { r with start := some (r.start.getD now) }

/-! ### RPOST and RWAIT -/

/-- The trap of a tree at or above COUNT (R301, R386). -/
def treeTrap (b : Word) (acc : Acc) : Trap :=
  { cause := .access, val := b, info := .frame { kind := 6, acc := acc.code, size := 8, base := b } }

/-- The check that X[B] names a tree of the gang. -/
def needTree (b : Word) (acc : Acc) : M (Nat × Tree) := do
  let s ← get
  let k := b.toNat % 8
  match s.gang.trees[k]? with
  | some t => pure (k, t)
  | none => trapNow (treeTrap b acc)

/-- The number of a hart's RPOSTs or RWAITs on a tree. -/
def treeKey (lhart tree : Nat) : Nat := 8 * lhart + tree

/-- A packet reaches its round: accepted, or discarded when the round has ended or the tag differs (R302, R303). -/
def Round.accept (now : Nat) (tag : Tag) (p : Packet) (r : Round) : Round :=
  if r.status = .running && (r.tag.getD tag) = tag then
    { r.begin now with tag := some tag, packets := r.packets ++ [p] }
  else r

/-- The routers of a prompt device form what they can at once; else each node is an event of its own. -/
def State.settleRound (s : State) (g : Gang) (t : Tree) (r : Round) : Round :=
  if s.dev.prompt then g.formAll t t.children.length r else r

/-- The rounds of the hart's gang closed where they are overdue. -/
def State.closeRounds (s : State) : State := s.mapGang (Gang.closeOverdue s.dev.now)

/-- RPOST (R301, R318, R319). -/
def execRpost (a : BitVec 6) (x : BitVec 5) (s : State) : Res :=
  complete4 (do
    let v := s.v a
    need (v.tag = .f32 || v.tag = .i32) (tagTrap v.tag .none)
    need v.bound.isNone (streamTrap a)
    let (k, t) ← needTree (s.x x) .store
    let xa ← readSrc a 0 32
    modify State.closeRounds
    let s ← get
    let g := s.gang
    let key := treeKey s.hart.ident.lhart k
    let num := sparseGet 0 g.rposts key
    let r := g.roundOr k num
    if r.status = .running && r.packets.isEmpty && 2 ≤ (g.rounds.filter fun q => q.tree == k && q.isOpen).length then
      waitHere
    else
      modify fun s =>
        let s := s.release .device
        let p : Packet :=
          { lhart := s.hart.ident.lhart, lcore := s.hart.ident.lcore, data := (List.range 32).map xa.elem
            tainted := xa.taint % 4 != 0 }
        let member := s.hart.ident.lcore < t.children.length
        let r := if member then s.settleRound g t (r.accept s.dev.now v.tag p) else r
        (s.mapGang fun g => { g.setRound r with rposts := sparseSet 0 g.rposts key (num + 1) }).setVstart 0) s

/-- The first elements of a register replaced by a result (R301): both element groups tainted when a packet was. -/
def VReg.putResult (v : VReg) (rb : Nat) (t : Tag) (data : List Nat) (tainted : Bool) : VReg :=
  let n := min 32 (rb / 4)
  { v with
    tag := t
    data := (List.range n).foldl (fun d i => setItem 32 d i (data.getD i 0)) v.data
    taint := taintAfter v.taint (if tainted then 3 else 0) (ones n) n }

/-- RWAIT (R301, R303). -/
def execRwait (d : BitVec 5) (v : BitVec 6) (x : BitVec 5) (s : State) : Res :=
  complete4 (do
    needUnbound v
    let (k, t) ← needTree (s.x x) .load
    modify State.closeRounds
    let s ← get
    let g := s.gang
    let key := treeKey s.hart.ident.lhart k
    let num := sparseGet 0 g.rwaits key
    let r := (g.roundOr k num).begin s.dev.now
    let count (s : State) : State :=
      s.mapGang fun g => { g.setRound r with rwaits := sparseSet 0 g.rwaits key (num + 1) }
    match r.status with
    | .running =>
      -- it waits, and a router forms a node that it can (R302)
      modify fun s => (s.mapGang fun g => g.setRound (g.formAll t 1 r)).engineProgress
      waitHere
    | .closed => modify fun s => ((count s).setX d (word (g.mask t r + 2 ^ 32))).setVstart 0
    | .result data tainted =>
      modify fun s =>
        let s := ((count s).closeEntries).markSeen tainted
        ((s.setV v ((s.v v).putResult s.rb (r.tag.getD .i32) data tainted)).setX d (word (g.mask t r))).setVstart 0) s

/-! ### Events of the trees -/

/-- The gang and tree of an event. -/
def Dev.treeOf (d : Dev) (gang tree : Nat) : Option (Gang × Tree) :=
  (d.gangs.find? fun g => g.id == gang).bind fun g => (g.trees[tree]?).map fun t => (g, t)

/-- ROUTER_NODE (R302): in a gang, a member's router forms its node in the lowest round of a tree where it can. -/
def execRouterNode (gang : BitVec 32) (tree : BitVec 3) (member : BitVec 5) (s : State) : Res :=
  match s.dev.treeOf gang.toNat tree.toNat with
  | none => .next s
  | some (g, t) =>
    let g := g.closeOverdue s.dev.now
    let rounds := (g.rounds.filter fun r => r.tree = tree.toNat).filterMap (g.formNode t member.toNat)
    match rounds.foldl (fun b r => match b with
      | none => some r
      | some q => if r.num < q.num then some r else some q) none with
    | none => .next s
    | some r => .next { s with dev := s.dev.mapGang g.id fun _ => g.setRound r }

/-- ROUND_CLOSE (R303): a round of a tree has run TOUT without a result. -/
def execRoundClose (gang : BitVec 32) (tree : BitVec 3) (s : State) : Res :=
  match s.dev.treeOf gang.toNat tree.toNat with
  | none => .next s
  | some (g, t) =>
    if g.rounds.any fun r => r.tree == tree.toNat && r.overdue t s.dev.now then
      .next { s with dev := s.dev.mapGang g.id (Gang.closeOverdue s.dev.now) }
    else .next s

end Sys2Proof.Machine
end

