-- ==== Sys2Proof/Machine/Dispatch.lean ====
section
/-!
DEFINITION. The dispatch: one arm per constructor of `Instr`, each one call of that instruction's meaning.
-/

namespace Sys2Proof.Machine

def exec (i : Instr) (s : State) : Host.Outcome State Fault Refusal :=
  match i with
  | .add d a b => Sys2Proof.Machine.execAdd d a b s
  | .sub d a b => Sys2Proof.Machine.execSub d a b s
  | .and d a b => Sys2Proof.Machine.execAnd d a b s
  | .or d a b => Sys2Proof.Machine.execOr d a b s
  | .xor d a b => Sys2Proof.Machine.execXor d a b s
  | .sll d a b => Sys2Proof.Machine.execSll d a b s
  | .srl d a b => Sys2Proof.Machine.execSrl d a b s
  | .sra d a b => Sys2Proof.Machine.execSra d a b s
  | .slt d a b => Sys2Proof.Machine.execSlt d a b s
  | .sltu d a b => Sys2Proof.Machine.execSltu d a b s
  | .min d a b => Sys2Proof.Machine.execMin d a b s
  | .max d a b => Sys2Proof.Machine.execMax d a b s
  | .minu d a b => Sys2Proof.Machine.execMinu d a b s
  | .maxu d a b => Sys2Proof.Machine.execMaxu d a b s
  | .andn d a b => Sys2Proof.Machine.execAndn d a b s
  | .orn d a b => Sys2Proof.Machine.execOrn d a b s
  | .clz d a => Sys2Proof.Machine.execClz d a s
  | .ctz d a => Sys2Proof.Machine.execCtz d a s
  | .popc d a => Sys2Proof.Machine.execPopc d a s
  | .sextw d a => Sys2Proof.Machine.execSextw d a s
  | .addw d a b => Sys2Proof.Machine.execAddw d a b s
  | .subw d a b => Sys2Proof.Machine.execSubw d a b s
  | .addi d a imm => Sys2Proof.Machine.execAddi d a imm s
  | .andi d a imm => Sys2Proof.Machine.execAndi d a imm s
  | .ori d a imm => Sys2Proof.Machine.execOri d a imm s
  | .xori d a imm => Sys2Proof.Machine.execXori d a imm s
  | .slti d a imm => Sys2Proof.Machine.execSlti d a imm s
  | .sltiu d a imm => Sys2Proof.Machine.execSltiu d a imm s
  | .slli d a n => Sys2Proof.Machine.execSlli d a n s
  | .srli d a n => Sys2Proof.Machine.execSrli d a n s
  | .srai d a n => Sys2Proof.Machine.execSrai d a n s
  | .lui d imm => Sys2Proof.Machine.execLui d imm s
  | .auipc d imm => Sys2Proof.Machine.execAuipc d imm s
  | .mul d a b => Sys2Proof.Machine.execMul d a b s
  | .mulh d a b => Sys2Proof.Machine.execMulh d a b s
  | .mulhu d a b => Sys2Proof.Machine.execMulhu d a b s
  | .mulhsu d a b => Sys2Proof.Machine.execMulhsu d a b s
  | .div d a b => Sys2Proof.Machine.execDiv d a b s
  | .divu d a b => Sys2Proof.Machine.execDivu d a b s
  | .rem d a b => Sys2Proof.Machine.execRem d a b s
  | .remu d a b => Sys2Proof.Machine.execRemu d a b s
  | .mulw d a b => Sys2Proof.Machine.execMulw d a b s
  | .beq a b o => Sys2Proof.Machine.execBeq a b o s
  | .bne a b o => Sys2Proof.Machine.execBne a b o s
  | .blt a b o => Sys2Proof.Machine.execBlt a b o s
  | .bge a b o => Sys2Proof.Machine.execBge a b o s
  | .bltu a b o => Sys2Proof.Machine.execBltu a b o s
  | .bgeu a b o => Sys2Proof.Machine.execBgeu a b o s
  | .jal d o => Sys2Proof.Machine.execJal d o s
  | .jalr d a imm => Sys2Proof.Machine.execJalr d a imm s
  | .loop k a imm => Sys2Proof.Machine.execLoop k a imm s
  | .loopi k dist count => Sys2Proof.Machine.execLoopi k dist count s
  | .lb d a imm => Sys2Proof.Machine.execLb d a imm s
  | .lh d a imm => Sys2Proof.Machine.execLh d a imm s
  | .lw d a imm => Sys2Proof.Machine.execLw d a imm s
  | .ld d a imm => Sys2Proof.Machine.execLd d a imm s
  | .lbu d a imm => Sys2Proof.Machine.execLbu d a imm s
  | .lhu d a imm => Sys2Proof.Machine.execLhu d a imm s
  | .lwu d a imm => Sys2Proof.Machine.execLwu d a imm s
  | .sb d a imm => Sys2Proof.Machine.execSb d a imm s
  | .sh d a imm => Sys2Proof.Machine.execSh d a imm s
  | .sw d a imm => Sys2Proof.Machine.execSw d a imm s
  | .sd d a imm => Sys2Proof.Machine.execSd d a imm s
  | .amoswap d a b z o sc => Sys2Proof.Machine.execAmoswap d a b z o sc s
  | .amoadd d a b z o sc => Sys2Proof.Machine.execAmoadd d a b z o sc s
  | .amoand d a b z o sc => Sys2Proof.Machine.execAmoand d a b z o sc s
  | .amoor d a b z o sc => Sys2Proof.Machine.execAmoor d a b z o sc s
  | .amoxor d a b z o sc => Sys2Proof.Machine.execAmoxor d a b z o sc s
  | .amomin d a b z o sc => Sys2Proof.Machine.execAmomin d a b z o sc s
  | .amomax d a b z o sc => Sys2Proof.Machine.execAmomax d a b z o sc s
  | .amominu d a b z o sc => Sys2Proof.Machine.execAmominu d a b z o sc s
  | .amomaxu d a b z o sc => Sys2Proof.Machine.execAmomaxu d a b z o sc s
  | .amocas d a b z o sc => Sys2Proof.Machine.execAmocas d a b z o sc s
  | .fence sc x y => Sys2Proof.Machine.execFence sc x y s
  | .tfence sc => Sys2Proof.Machine.execTfence sc s
  | .ecall => Sys2Proof.Machine.execEcall s
  | .ebreak => Sys2Proof.Machine.execEbreak s
  | .tret => Sys2Proof.Machine.execTret s
  | .wfi => Sys2Proof.Machine.execWfi s
  | .cvb => Sys2Proof.Machine.execCvb s
  | .tmark a => Sys2Proof.Machine.execTmark a s
  | .csrrw d a c => Sys2Proof.Machine.execCsrrw d a c s
  | .csrrs d a c => Sys2Proof.Machine.execCsrrs d a c s
  | .csrrc d a c => Sys2Proof.Machine.execCsrrc d a c s
  | .csrrwi d u c => Sys2Proof.Machine.execCsrrwi d u c s
  | .csrrsi d u c => Sys2Proof.Machine.execCsrrsi d u c s
  | .csrrci d u c => Sys2Proof.Machine.execCsrrci d u c s
  | .faddS d a b => Sys2Proof.Machine.execFaddS d a b s
  | .faddD d a b => Sys2Proof.Machine.execFaddD d a b s
  | .fsubS d a b => Sys2Proof.Machine.execFsubS d a b s
  | .fsubD d a b => Sys2Proof.Machine.execFsubD d a b s
  | .fmulS d a b => Sys2Proof.Machine.execFmulS d a b s
  | .fmulD d a b => Sys2Proof.Machine.execFmulD d a b s
  | .fdivS d a b => Sys2Proof.Machine.execFdivS d a b s
  | .fdivD d a b => Sys2Proof.Machine.execFdivD d a b s
  | .fsqrtS d a => Sys2Proof.Machine.execFsqrtS d a s
  | .fsqrtD d a => Sys2Proof.Machine.execFsqrtD d a s
  | .fminS d a b => Sys2Proof.Machine.execFminS d a b s
  | .fminD d a b => Sys2Proof.Machine.execFminD d a b s
  | .fmaxS d a b => Sys2Proof.Machine.execFmaxS d a b s
  | .fmaxD d a b => Sys2Proof.Machine.execFmaxD d a b s
  | .fsgnjS d a b => Sys2Proof.Machine.execFsgnjS d a b s
  | .fsgnjD d a b => Sys2Proof.Machine.execFsgnjD d a b s
  | .fsgnjnS d a b => Sys2Proof.Machine.execFsgnjnS d a b s
  | .fsgnjnD d a b => Sys2Proof.Machine.execFsgnjnD d a b s
  | .fsgnjxS d a b => Sys2Proof.Machine.execFsgnjxS d a b s
  | .fsgnjxD d a b => Sys2Proof.Machine.execFsgnjxD d a b s
  | .feqS d a b => Sys2Proof.Machine.execFeqS d a b s
  | .feqD d a b => Sys2Proof.Machine.execFeqD d a b s
  | .fltS d a b => Sys2Proof.Machine.execFltS d a b s
  | .fltD d a b => Sys2Proof.Machine.execFltD d a b s
  | .fleS d a b => Sys2Proof.Machine.execFleS d a b s
  | .fleD d a b => Sys2Proof.Machine.execFleD d a b s
  | .fclassS d a => Sys2Proof.Machine.execFclassS d a s
  | .fclassD d a => Sys2Proof.Machine.execFclassD d a s
  | .fmaddS d a b c => Sys2Proof.Machine.execFmaddS d a b c s
  | .fmaddD d a b c => Sys2Proof.Machine.execFmaddD d a b c s
  | .fmsubS d a b c => Sys2Proof.Machine.execFmsubS d a b c s
  | .fmsubD d a b c => Sys2Proof.Machine.execFmsubD d a b c s
  | .fnmaddS d a b c => Sys2Proof.Machine.execFnmaddS d a b c s
  | .fnmaddD d a b c => Sys2Proof.Machine.execFnmaddD d a b c s
  | .fnmsubS d a b c => Sys2Proof.Machine.execFnmsubS d a b c s
  | .fnmsubD d a b c => Sys2Proof.Machine.execFnmsubD d a b c s
  | .fcvtws d a => Sys2Proof.Machine.execFcvtws d a s
  | .fcvtwus d a => Sys2Proof.Machine.execFcvtwus d a s
  | .fcvtls d a => Sys2Proof.Machine.execFcvtls d a s
  | .fcvtlus d a => Sys2Proof.Machine.execFcvtlus d a s
  | .fcvtsw d a => Sys2Proof.Machine.execFcvtsw d a s
  | .fcvtswu d a => Sys2Proof.Machine.execFcvtswu d a s
  | .fcvtsl d a => Sys2Proof.Machine.execFcvtsl d a s
  | .fcvtslu d a => Sys2Proof.Machine.execFcvtslu d a s
  | .fcvtwd d a => Sys2Proof.Machine.execFcvtwd d a s
  | .fcvtwud d a => Sys2Proof.Machine.execFcvtwud d a s
  | .fcvtld d a => Sys2Proof.Machine.execFcvtld d a s
  | .fcvtlud d a => Sys2Proof.Machine.execFcvtlud d a s
  | .fcvtdw d a => Sys2Proof.Machine.execFcvtdw d a s
  | .fcvtdwu d a => Sys2Proof.Machine.execFcvtdwu d a s
  | .fcvtdl d a => Sys2Proof.Machine.execFcvtdl d a s
  | .fcvtdlu d a => Sys2Proof.Machine.execFcvtdlu d a s
  | .fcvtsd d a => Sys2Proof.Machine.execFcvtsd d a s
  | .fcvtds d a => Sys2Proof.Machine.execFcvtds d a s
  | .syld d a o sc => Sys2Proof.Machine.execSyld d a o sc s
  | .syst a b o sc => Sys2Proof.Machine.execSyst a b o sc s
  | .sytas d a o sc => Sys2Proof.Machine.execSytas d a o sc s
  | .syfaa d a b o sc => Sys2Proof.Machine.execSyfaa d a b o sc s
  | .sycas d a b o sc => Sys2Proof.Machine.execSycas d a b o sc s
  | .sywait d a b o sc c => Sys2Proof.Machine.execSywait d a b o sc c s
  | .sybar d a b o sc => Sys2Proof.Machine.execSybar d a b o sc s
  | .ipost a b => Sys2Proof.Machine.execIpost a b s
  | .iwait d a b => Sys2Proof.Machine.execIwait d a b s
  | .tspawn d a => Sys2Proof.Machine.execTspawn d a s
  | .ttake d => Sys2Proof.Machine.execTtake d s
  | .tjoin d a => Sys2Proof.Machine.execTjoin d a s
  | .tdone a => Sys2Proof.Machine.execTdone a s
  | .li d ext imm => Sys2Proof.Machine.execLi d ext imm s
  | .setvl d b => Sys2Proof.Machine.execSetvl d b s
  | .vcfg e sc r f t => Sys2Proof.Machine.execVcfg e sc r f t s
  | .vtag e => Sys2Proof.Machine.execVtag e s
  | .vretag d t => Sys2Proof.Machine.execVretag d t s
  | .mmode d b => Sys2Proof.Machine.execMmode d b s
  | .settile d b => Sys2Proof.Machine.execSettile d b s
  | .vaddV d a b g => Sys2Proof.Machine.execVaddV d a b g s
  | .vsubV d a b g => Sys2Proof.Machine.execVsubV d a b g s
  | .vmulV d a b g => Sys2Proof.Machine.execVmulV d a b g s
  | .vmulhV d a b g => Sys2Proof.Machine.execVmulhV d a b g s
  | .vminV d a b g => Sys2Proof.Machine.execVminV d a b g s
  | .vmaxV d a b g => Sys2Proof.Machine.execVmaxV d a b g s
  | .vdivV d a b g => Sys2Proof.Machine.execVdivV d a b g s
  | .vremV d a b g => Sys2Proof.Machine.execVremV d a b g s
  | .vaddW d a x g => Sys2Proof.Machine.execVaddW d a x g s
  | .vsubW d a x g => Sys2Proof.Machine.execVsubW d a x g s
  | .vmulW d a x g => Sys2Proof.Machine.execVmulW d a x g s
  | .vmulhW d a x g => Sys2Proof.Machine.execVmulhW d a x g s
  | .vminW d a x g => Sys2Proof.Machine.execVminW d a x g s
  | .vmaxW d a x g => Sys2Proof.Machine.execVmaxW d a x g s
  | .vdivW d a x g => Sys2Proof.Machine.execVdivW d a x g s
  | .vremW d a x g => Sys2Proof.Machine.execVremW d a x g s
  | .vandV d a b g => Sys2Proof.Machine.execVandV d a b g s
  | .vorV d a b g => Sys2Proof.Machine.execVorV d a b g s
  | .vxorV d a b g => Sys2Proof.Machine.execVxorV d a b g s
  | .vandnV d a b g => Sys2Proof.Machine.execVandnV d a b g s
  | .vsllV d a b g => Sys2Proof.Machine.execVsllV d a b g s
  | .vsrlV d a b g => Sys2Proof.Machine.execVsrlV d a b g s
  | .vsraV d a b g => Sys2Proof.Machine.execVsraV d a b g s
  | .vmulhuV d a b g => Sys2Proof.Machine.execVmulhuV d a b g s
  | .vandW d a x g => Sys2Proof.Machine.execVandW d a x g s
  | .vorW d a x g => Sys2Proof.Machine.execVorW d a x g s
  | .vxorW d a x g => Sys2Proof.Machine.execVxorW d a x g s
  | .vandnW d a x g => Sys2Proof.Machine.execVandnW d a x g s
  | .vsllW d a x g => Sys2Proof.Machine.execVsllW d a x g s
  | .vsrlW d a x g => Sys2Proof.Machine.execVsrlW d a x g s
  | .vsraW d a x g => Sys2Proof.Machine.execVsraW d a x g s
  | .vmulhuW d a x g => Sys2Proof.Machine.execVmulhuW d a x g s
  | .vfmaV d a b g => Sys2Proof.Machine.execVfmaV d a b g s
  | .vfmsV d a b g => Sys2Proof.Machine.execVfmsV d a b g s
  | .vfnmaV d a b g => Sys2Proof.Machine.execVfnmaV d a b g s
  | .vfnmsV d a b g => Sys2Proof.Machine.execVfnmsV d a b g s
  | .vfmaW d a x g => Sys2Proof.Machine.execVfmaW d a x g s
  | .vfmsW d a x g => Sys2Proof.Machine.execVfmsW d a x g s
  | .vfnmaW d a x g => Sys2Proof.Machine.execVfnmaW d a x g s
  | .vfnmsW d a x g => Sys2Proof.Machine.execVfnmsW d a x g s
  | .vneg d a g => Sys2Proof.Machine.execVneg d a g s
  | .vabs d a g => Sys2Proof.Machine.execVabs d a g s
  | .vsqrt d a g => Sys2Proof.Machine.execVsqrt d a g s
  | .vexp2 d a g => Sys2Proof.Machine.execVexp2 d a g s
  | .vlog2 d a g => Sys2Proof.Machine.execVlog2 d a g s
  | .vrcp d a g => Sys2Proof.Machine.execVrcp d a g s
  | .vnot d a g => Sys2Proof.Machine.execVnot d a g s
  | .viota d a g => Sys2Proof.Machine.execViota d a g s
  | .vcmpeqV d a b g => Sys2Proof.Machine.execVcmpeqV d a b g s
  | .vcmpneV d a b g => Sys2Proof.Machine.execVcmpneV d a b g s
  | .vcmpltV d a b g => Sys2Proof.Machine.execVcmpltV d a b g s
  | .vcmpleV d a b g => Sys2Proof.Machine.execVcmpleV d a b g s
  | .vcmpgtV d a b g => Sys2Proof.Machine.execVcmpgtV d a b g s
  | .vcmpgeV d a b g => Sys2Proof.Machine.execVcmpgeV d a b g s
  | .vcmpunV d a b g => Sys2Proof.Machine.execVcmpunV d a b g s
  | .vcmpeqW d a x g => Sys2Proof.Machine.execVcmpeqW d a x g s
  | .vcmpneW d a x g => Sys2Proof.Machine.execVcmpneW d a x g s
  | .vcmpltW d a x g => Sys2Proof.Machine.execVcmpltW d a x g s
  | .vcmpleW d a x g => Sys2Proof.Machine.execVcmpleW d a x g s
  | .vcmpgtW d a x g => Sys2Proof.Machine.execVcmpgtW d a x g s
  | .vcmpgeW d a x g => Sys2Proof.Machine.execVcmpgeW d a x g s
  | .vcmpunW d a x g => Sys2Proof.Machine.execVcmpunW d a x g s
  | .vmv d a g => Sys2Proof.Machine.execVmv d a g s
  | .vsplat d x g => Sys2Proof.Machine.execVsplat d x g s
  | .vsel d a b g => Sys2Proof.Machine.execVsel d a b g s
  | .vmvx d a x => Sys2Proof.Machine.execVmvx d a x s
  | .vins d a x => Sys2Proof.Machine.execVins d a x s
  | .vcvt d a t g => Sys2Proof.Machine.execVcvt d a t g s
  | .pand d a b g => Sys2Proof.Machine.execPand d a b g s
  | .por d a b g => Sys2Proof.Machine.execPor d a b g s
  | .pxor d a b g => Sys2Proof.Machine.execPxor d a b g s
  | .pandn d a b g => Sys2Proof.Machine.execPandn d a b g s
  | .pnot d a g => Sys2Proof.Machine.execPnot d a g s
  | .pfirst d a g => Sys2Proof.Machine.execPfirst d a g s
  | .pcnt d a g => Sys2Proof.Machine.execPcnt d a g s
  | .psetvl d a g => Sys2Proof.Machine.execPsetvl d a g s
  | .vslideup d a x g => Sys2Proof.Machine.execVslideup d a x g s
  | .vslidedn d a x g => Sys2Proof.Machine.execVslidedn d a x g s
  | .vperm d a vi g => Sys2Proof.Machine.execVperm d a vi g s
  | .vbfly d a k g => Sys2Proof.Machine.execVbfly d a k g s
  | .vcompress d a g => Sys2Proof.Machine.execVcompress d a g s
  | .vexpand d a g => Sys2Proof.Machine.execVexpand d a g s
  | .vscan d a g => Sys2Proof.Machine.execVscan d a g s
  | .vrev d a g => Sys2Proof.Machine.execVrev d a g s
  | .vredsum d a g => Sys2Proof.Machine.execVredsum d a g s
  | .vredmin d a g => Sys2Proof.Machine.execVredmin d a g s
  | .vredmax d a g => Sys2Proof.Machine.execVredmax d a g s
  | .vredand d a g => Sys2Proof.Machine.execVredand d a g s
  | .vredor d a g => Sys2Proof.Machine.execVredor d a g s
  | .vredxor d a g => Sys2Proof.Machine.execVredxor d a g s
  | .vredmini d a g => Sys2Proof.Machine.execVredmini d a g s
  | .vredmaxi d a g => Sys2Proof.Machine.execVredmaxi d a g s
  | .vsample d a x g => Sys2Proof.Machine.execVsample d a x g s
  | .vtopk d a x g => Sys2Proof.Machine.execVtopk d a x g s
  | .vld d x o g => Sys2Proof.Machine.execVld d x o g s
  | .vlds d x xs o g => Sys2Proof.Machine.execVlds d x xs o g s
  | .vldx d x vi o g => Sys2Proof.Machine.execVldx d x vi o g s
  | .loadDataReturn k => Sys2Proof.Machine.execLoadDataReturn k s
  | .vst d x o g => Sys2Proof.Machine.execVst d x o g s
  | .vsts d x xs o g => Sys2Proof.Machine.execVsts d x xs o g s
  | .vstx d x vi o g => Sys2Proof.Machine.execVstx d x vi o g s
  | .vcadd d x vi o g => Sys2Proof.Machine.execVcadd d x vi o g s
  | .vcmin d x vi o g => Sys2Proof.Machine.execVcmin d x vi o g s
  | .vcmax d x vi o g => Sys2Proof.Machine.execVcmax d x vi o g s
  | .vcor d x vi o g => Sys2Proof.Machine.execVcor d x vi o g s
  | .vaadd d x vi o g => Sys2Proof.Machine.execVaadd d x vi o g s
  | .vamin d x vi o g => Sys2Proof.Machine.execVamin d x vi o g s
  | .vamax d x vi o g => Sys2Proof.Machine.execVamax d x vi o g s
  | .vaand d x vi o g => Sys2Proof.Machine.execVaand d x vi o g s
  | .vaor d x vi o g => Sys2Proof.Machine.execVaor d x vi o g s
  | .vaxor d x vi o g => Sys2Proof.Machine.execVaxor d x vi o g s
  | .vaswap d x vi o g => Sys2Proof.Machine.execVaswap d x vi o g s
  | .vfence sc => Sys2Proof.Machine.execVfence sc s
  | .vbind d k x => Sys2Proof.Machine.execVbind d k x s
  | .vunbind k => Sys2Proof.Machine.execVunbind k s
  | .vbstat d k => Sys2Proof.Machine.execVbstat d k s
  | .streamFetch k => Sys2Proof.Machine.execStreamFetch k s
  | .mzero t => Sys2Proof.Machine.execMzero t s
  | .mmac t a b g => Sys2Proof.Machine.execMmac t a b g s
  | .mmacw t a g => Sys2Proof.Machine.execMmacw t a g s
  | .mcvt t c => Sys2Proof.Machine.execMcvt t c s
  | .mrdrow d t x => Sys2Proof.Machine.execMrdrow d t x s
  | .mwrrow t a x => Sys2Proof.Machine.execMwrrow t a x s
  | .mwld e f a b => Sys2Proof.Machine.execMwld e f a b s
  | .mscl t a b => Sys2Proof.Machine.execMscl t a b s
  | .hgen d a b g => Sys2Proof.Machine.execHgen d a b g s
  | .hrot d a x g => Sys2Proof.Machine.execHrot d a x g s
  | .hacc d a g => Sys2Proof.Machine.execHacc d a g s
  | .hsign d a b g => Sys2Proof.Machine.execHsign d a b g s
  | .hdist d a b g => Sys2Proof.Machine.execHdist d a b g s
  | .hsimm d a x => Sys2Proof.Machine.execHsimm d a x s
  | .hfstep d a x => Sys2Proof.Machine.execHfstep d a x s
  | .hclean d a b => Sys2Proof.Machine.execHclean d a b s
  | .hfact d a b => Sys2Proof.Machine.execHfact d a b s
  | .svld y a b => Sys2Proof.Machine.execSvld y a b s
  | .svst y a => Sys2Proof.Machine.execSvst y a s
  | .svadd d a b => Sys2Proof.Machine.execSvadd d a b s
  | .svmul d a b => Sys2Proof.Machine.execSvmul d a b s
  | .svdot d a b => Sys2Proof.Machine.execSvdot d a b s
  | .svtov d y x => Sys2Proof.Machine.execSvtov d y x s
  | .svlen d y => Sys2Proof.Machine.execSvlen d y s
  | .rpost a x => Sys2Proof.Machine.execRpost a x s
  | .rwait d v x => Sys2Proof.Machine.execRwait d v x s
  | .routerNode gang tree member => Sys2Proof.Machine.execRouterNode gang tree member s
  | .roundClose gang tree => Sys2Proof.Machine.execRoundClose gang tree s
  | .cpy d a b slack tk treg => Sys2Proof.Machine.execCpy d a b slack tk treg s
  | .cpys d a b slack tk treg sz xs => Sys2Proof.Machine.execCpys d a b slack tk treg sz xs s
  | .cpyx d a b slack tk treg sz vi => Sys2Proof.Machine.execCpyx d a b slack tk treg sz vi s
  | .cpyt d a => Sys2Proof.Machine.execCpyt d a s
  | .copyComplete => Sys2Proof.Machine.execCopyComplete s
  | .srdef a => Sys2Proof.Machine.execSrdef a s
  | .srld d a k => Sys2Proof.Machine.execSrld d a k s
  | .srst d a k => Sys2Proof.Machine.execSrst d a k s
  | .srrow d a b => Sys2Proof.Machine.execSrrow d a b s
  | .srtrav d a b => Sys2Proof.Machine.execSrtrav d a b s
  | .srdense d a b tk treg => Sys2Proof.Machine.execSrdense d a b tk treg s
  | .srcnt d a => Sys2Proof.Machine.execSrcnt d a s
  | .edef a b off => Sys2Proof.Machine.execEdef a b off s
  | .erun d b => Sys2Proof.Machine.execErun d b s
  | .eend => Sys2Proof.Machine.execEend s
  | .estat d b => Sys2Proof.Machine.execEstat d b s
  | .efront d => Sys2Proof.Machine.execEfront d s
  | .timerExpiry => Sys2Proof.Machine.execTimerExpiry s
  | .interrupt => Sys2Proof.Machine.execInterrupt s
  | .preempt hart area => Sys2Proof.Machine.execPreempt hart area s
  | .hostmsg hart => Sys2Proof.Machine.execHostmsg hart s
  | .breakpointHalt => Sys2Proof.Machine.execBreakpointHalt s
  | .wcbDrain k => Sys2Proof.Machine.execWcbDrain k s
  | .srfMirrorUpdate die => Sys2Proof.Machine.execSrfMirrorUpdate die s
  | .ringPostDelivery gang => Sys2Proof.Machine.execRingPostDelivery gang s
  | .tail q v => Sys2Proof.Machine.execTail q v s
  | .gangStart q cores slots => Sys2Proof.Machine.execGangStart q cores slots s
  | .gangComplete gang => Sys2Proof.Machine.execGangComplete gang s
  | .gangPreempt gang record areas => Sys2Proof.Machine.execGangPreempt gang record areas s
  | .gangResume gang cores slots => Sys2Proof.Machine.execGangResume gang cores slots s
  | .probeTokenSend unit queue left => Sys2Proof.Machine.execProbeTokenSend unit queue left s
  | .probeTokenReceive k waits => Sys2Proof.Machine.execProbeTokenReceive k waits s
  | .l2Window slice misses accesses fits => Sys2Proof.Machine.execL2Window slice misses accesses fits s
  | .throttleStart die temp steps => Sys2Proof.Machine.execThrottleStart die temp steps s
  | .throttleEnd die temp => Sys2Proof.Machine.execThrottleEnd die temp s
  | .leaseExpiry => Sys2Proof.Machine.execLeaseExpiry s
  | .counterRotation core => Sys2Proof.Machine.execCounterRotation core s
  | .replayInputApply gang => Sys2Proof.Machine.execReplayInputApply gang s
  | .hostApertureWrite off n data => Sys2Proof.Machine.execHostApertureWrite off n data s
  | .hostSrfRead idx => Sys2Proof.Machine.execHostSrfRead idx s
  | .hostSrfWrite idx v => Sys2Proof.Machine.execHostSrfWrite idx v s
  | .registerWrite bar off size v => Sys2Proof.Machine.execRegisterWrite bar off size v s
  | .ralbaFrameReceive inward ctx win count peer seq op tag va n data expect taint => Sys2Proof.Machine.execRalbaFrameReceive inward ctx win count peer seq op tag va n data expect taint s
  | .frameRetry ctx win reaches => Sys2Proof.Machine.execFrameRetry ctx win reaches s
  | .linkLoss ctx win => Sys2Proof.Machine.execLinkLoss ctx win s
  | .deviceReset atomics => Sys2Proof.Machine.execDeviceReset atomics s
  | .powerLoss => Sys2Proof.Machine.execPowerLoss s
  | .recoveryDoorbell len => Sys2Proof.Machine.execRecoveryDoorbell len s
  | .summary buf => Sys2Proof.Machine.execSummary buf s
  | .setLaunchQueue buf queue k base => Sys2Proof.Machine.execSetLaunchQueue buf queue k base s
  | .rackLease buf seq cap ms => Sys2Proof.Machine.execRackLease buf seq cap ms s
  | .setWindow buf ctx num peer peerCtx base len status => Sys2Proof.Machine.execSetWindow buf ctx num peer peerCtx base len status s
  | .resetHart buf hart => Sys2Proof.Machine.execResetHart buf hart s
  | .attestationReport buf => Sys2Proof.Machine.execAttestationReport buf s
  | .retireResource buf kind number => Sys2Proof.Machine.execRetireResource buf kind number s
  | .setBreakpoints buf => Sys2Proof.Machine.execSetBreakpoints buf s
  | .setCounters buf => Sys2Proof.Machine.execSetCounters buf s
  | .readCounters buf => Sys2Proof.Machine.execReadCounters buf s
  | .setTrace buf => Sys2Proof.Machine.execSetTrace buf s
  | .readTraceStatus buf => Sys2Proof.Machine.execReadTraceStatus buf s
  | .registerContext buf => Sys2Proof.Machine.execRegisterContext buf s
  | .placeAperture buf => Sys2Proof.Machine.execPlaceAperture buf s
  | .setThot buf => Sys2Proof.Machine.execSetThot buf s
  | .setEthertype buf => Sys2Proof.Machine.execSetEthertype buf s
  | .assignRootPort buf => Sys2Proof.Machine.execAssignRootPort buf s
  | .illegal w => Sys2Proof.Machine.execIllegal w s
  | .fetchTrap => Sys2Proof.Machine.execFetchTrap s
  | .combineApplied k => Sys2Proof.Machine.execCombineApplied k s
  | .haltedHartResume hart => Sys2Proof.Machine.execHaltedHartResume hart s
  | .remoteLinkRestored ctx win => Sys2Proof.Machine.execRemoteLinkRestored ctx win s
  | .rootPortDeviceAccess port write va n data => Sys2Proof.Machine.execRootPortDeviceAccess port write va n data s
  | .boostEnd => Sys2Proof.Machine.execBoostEnd s
  | .endedBySupervisorSide gang => Sys2Proof.Machine.execEndedBySupervisorSide gang s
  | .imageVerificationDone => Sys2Proof.Machine.execImageVerificationDone s

end Sys2Proof.Machine
end

