-- ==== Sys2Proof/Machine/Ahead.lean ====
section
/-!
DEFINITION. How a hart runs ahead of its oldest instruction that has not completed: issue behind it, accesses performed
early, and how what has issued comes up when it completes (R64, R85, R105, R171, R180, R320, R322, R326).
-/

namespace Sys2Proof.Machine

/-! ### The words at pc -/

/-- The words at pc as an instruction (R31). -/
noncomputable def decodeWords (w : Word) : Option Instr :=
  match decode (layBytes w.toNat) with
  | .ok (i, _) => some i
  | .error _ => none

/-! ### The scalar stream at a point of the program -/

/-- What the scalar stream holds in the hart (R85). -/
def Hart.side (h : Hart) : Side :=
  { pc := h.pc, x := h.x, fcsr := h.fcsr, loops := h.loops, instret := h.counts.instret, ucount := h.counts.ucount
    fetchPin := h.fetchPin, cycle := h.counts.cycle }

/-- The hart with its scalar stream at another point. -/
def Side.onto (d : Side) (h : Hart) : Hart :=
  { h with
    pc := d.pc, x := d.x, fcsr := d.fcsr, loops := d.loops, fetchPin := d.fetchPin, taint := h.taint.afterLoad d.tainted
    counts := { h.counts with
      instret := d.instret, ucount := d.ucount, cycle := if d.cycle.ult h.counts.cycle then h.counts.cycle else d.cycle } }

/-- The scalar stream behind an instruction at pc that issues and completes later (R85, R105). -/
noncomputable def State.after (s : State) (i : Instr) : Side := (s.advance i.size).hart.side

/-- An x register of the stream written. -/
def Side.put (r : BitVec 5) (v : Word) (d : Side) : Side :=
  { d with x := if r = 0 then d.x else d.x.set r.toNat v (by simpa using r.isLt) }

/-- The register that an instruction has written when it completed, for the stream behind it: no instruction that has issued
behind it names it (R105). -/
def Side.patch (i : Option Instr) (x : Vector Word 32) (d : Side) : Side :=
  match i.bind Instr.lateReg with
  | some r => d.put r (x[r.toNat]'(by simpa using r.isLt))
  | none => d

/-! ### The issue point -/

/-- The number of the youngest instruction that waits behind the oldest (R85). -/
def Ahead.youngest (a : Ahead) (head : Word) : Word := (a.queue.getLast?.map fun q => q.side.instret).getD head

/-- The hart as it stands at its issue point: a scalar instruction there is provisional (R85). -/
def Hart.atIssue (h : Hart) (a : Ahead) : Hart :=
  { a.now.onto h with
    held := none, load := none, early := [], stopped := false, passed := false, tfencing := false
    prov := some (a.youngest h.counts.instret) }

/-- A register that the instruction names is not to be read or written yet: an instruction that has issued writes it when it
completes (R105), or it is the target of a copy (R65). -/
def State.mustWait (s : State) (i : Instr) : Bool :=
  i.xregs.any fun r => r != 0 && (s.pending r || s.hart.issued.any fun j => j.lateReg == some r)

/-- The instruction is a fence that orders vector accesses (R181, R335). -/
def isVectorFence : Instr → Bool
  | .vfence _ => true
  | .fence _ x y => fenceV x || fenceV y
  | _ => false

/-- Does a scalar access wait at the issue point for an instruction that has issued: a copy whose range it might overlap
(R65), or for a store a vector fence under DETM.DRAIN (R335)? -/
def State.accessWaits (s : State) (c : Issue) : Bool :=
  ((c == .store || c == .load) && s.hart.issued.any Instr.isCopy) ||
    (c == .store && s.hart.detm.drain && s.hart.issued.any isVectorFence)

/-- The hart can take no interrupt, input, timer expiry or breakpoint before the instruction at its issue point (R79, R83,
R342, R346): `head` counts the instructions retired so far. -/
def State.clear (s : State) (head : Word) : Bool :=
  let t := s.hart.trap.status
  s.inputDue.isNone && !s.atBreak && !(t.first s.hart.priv).isSome &&
    !(s.hart.priv = .u && t.tcount != 0 && t.tcount.toNat ≤ (s.hart.counts.instret - head).toNat)

/-- The instructions of the VIQ among those that wait (R105). -/
def Ahead.viq (a : Ahead) : Nat := (a.queue.filter fun q => q.instr.issue == .vector).length

/-- An instruction waits behind those that have issued (R105). -/
noncomputable def State.enqueue (s t : State) (a : Ahead) (i : Instr) : State :=
  let q : Queued := { instr := i, side := { t.hart.side with fetchPin := none, tainted := a.now.tainted } }
  let now : Side := { { t with hart := { t.hart with held := some i } }.after i with tainted := a.now.tainted }
  let t := if i.partsStores then t.closeAll else t
  { t with hart := { s.hart with tlb := t.hart.tlb, ahead := some { queue := a.queue ++ [q], now := now } } }

/-- A scalar instruction executes at the issue point, if it neither waits nor traps there (R85). -/
def State.executeAhead (s t : State) (a : Ahead) (i : Instr) : Option State :=
  match exec i t with
  | .next r =>
    if r.hart.counts.instret = t.hart.counts.instret + 1 then
      let now : Side := { r.hart.side with tainted := a.now.tainted }
      some { r with hart := { s.hart with tlb := r.hart.tlb, ahead := some { a with now := now, waiting := none } } }
    else none
  | _ => none

/-- The instruction at the issue point waits there: it stays decoded, and its fetch pin is released (R94). -/
def State.waitAhead (s t : State) (a : Ahead) (i : Instr) : State :=
  let a := { a with now := { a.now with fetchPin := none }, waiting := some i }
  { t with hart := { s.hart with tlb := t.hart.tlb, ahead := some a } }

/-- The instruction at the issue point, with the state that has fetched it: the one that waits there, or the next (R94). -/
noncomputable def State.nextIssue (t : State) (a : Ahead) : Option (Instr × State) :=
  match a.waiting with
  | some i => some (i, t)
  | none =>
    match t.fetchInstr with
    | .error _ => none
    | .ok (w, t) => (decodeWords w).map fun i => (i, t)

/-- The next instruction behind one that has not completed issues, or waits at the issue point (R85, R105). -/
noncomputable def State.issueBehind (s : State) (a : Ahead) : Option State :=
  let t := { s with hart := s.hart.atIssue a }
  if !t.clear s.hart.counts.instret then none
  else (t.nextIssue a).map fun (i, t) =>
    let t := { t with hart := { t.hart with held := s.hart.held } }
    let stays := s.waitAhead t a i
    if t.mustWait i || t.accessWaits i.issue then stays
    else match i.issue with
    | .waits => stays
    | .scalar | .store => (s.executeAhead t a i).getD stays
    | .load | .mark => s.enqueue t a i
    | .vector => if Config.viqSize ≤ a.viq then stays else s.enqueue t a i

/-- The instruction that the issue point issues when nothing waits, with the state that has fetched it: the one at pc, if it
does not complete there. -/
noncomputable def State.oldest (s : State) : Option (Instr × State) :=
  match s.hart.held with
  | some i => some (i, s)
  | none =>
    if !s.clear s.hart.counts.instret then none
    else match s.fetchInstr with
    | .error _ => none
    | .ok (w, s) => (decodeWords w).map fun i => (i, s.recordAll 0 i s.hart.vec.vstart s.hart.pc)

/-- The issue point issues its next instruction (R85, R105): the one at pc, which then waits to complete, or the next behind
those that wait. The accesses that are still to be performed are performed first. -/
noncomputable def State.issueNext (s : State) : Option State :=
  if s.hart.status ≠ .running then none
  else match s.hart.ahead with
  | some a => s.issueBehind a
  | none =>
    s.landAll.oldest.bind fun (i, s) =>
      if i.issue.outlasts && !i.xregs.any s.pending then
        let now := s.after i
        some { s with hart := { s.hart with held := some i, fetchPin := none, ahead := some { now := now } } }
      else none

/-! ### Completion -/

/-- The timer after `n` retirements in U (R79). -/
def TStatus.ticks (t : TStatus) : Nat → TStatus
  | 0 => t
  | n + 1 => t.tick.ticks n

/-- What an older instruction's completion releases (R85): `n` instructions have retired. -/
def stillProvisional (n : Word) (p : Option Word) : Option Word := p.filter fun b => !b.ult n

/-- The entry with its provisional stores below `n` instructions retired. -/
def WcbEntry.releasedBy (e : WcbEntry) (n : Word) : WcbEntry :=
  match stillProvisional n e.prov with
  | none => { e with prov := none, under := [] }
  | some b => { e with prov := some b, under := e.under.map fun l => { l with prov := stillProvisional n l.prov } }

/-- The stores of the hart that no older instruction keeps provisional any more drain from now on (R85, R322). -/
def State.releaseStores (s : State) : State :=
  let u := s.hart.ident.uid
  let f (e : WcbEntry) : WcbEntry := if e.hart = u then e.releasedBy s.hart.counts.instret else e
  let s := { s with core := { s.core with wcb := s.core.wcb.map f } }
  if s.core.eager then s.drainHart u else s

/-- The oldest instruction has completed (R85, R105): the provisional instructions up to the next that waits retire, and it
comes up, or the instruction that waits at the issue point; `done` is what has completed. -/
def State.comeUp (s : State) (done : Option Instr) : State :=
  match s.hart.ahead with
  | none => s
  | some a =>
    let patch := Side.patch done s.hart.x
    let queue := a.queue.map fun q => { q with side := patch q.side }
    let now := patch a.now
    let side := (queue.head?.map Queued.side).getD now
    let n := (side.instret - s.hart.counts.instret).toNat
    let t := s.hart.trap
    let h : Hart :=
      { side.onto s.hart with
        held := (queue.head?.map Queued.instr).or a.waiting
        early := (queue.head?.map Queued.early).getD []
        ahead := if queue.isEmpty then none else some { a with queue := queue.tail, now := now }
        trap := if s.hart.priv = .u then { t with status := t.status.ticks n } else t }
    let s := State.releaseStores ({ s with hart := h }.countEvent 2 n)
    match s.hart.held with
    | some i => s.recordAll 0 i 0 s.hart.pc
    | none => s

/-- The outcome of the oldest instruction, with what has issued behind it brought up when it has retired. -/
def comeUpAfter (before : Hart) : Res → Res
  | .next s =>
    .next (if s.hart.ahead.isSome && s.hart.counts.instret != before.counts.instret then s.comeUp before.held else s)
  | .fault f => .fault f
  | .refused r => .refused r

/-! ### Accesses performed early -/

/-- The fields of a scalar load (R61): its size, whether it extends the sign, D, A and the offset. -/
def scalarLoadForm : Instr → Option (Nat × Bool × BitVec 5 × BitVec 5 × BitVec 15)
  | .lb d a imm => some (1, true, d, a, imm)
  | .lbu d a imm => some (1, false, d, a, imm)
  | .lh d a imm => some (2, true, d, a, imm)
  | .lhu d a imm => some (2, false, d, a, imm)
  | .lw d a imm => some (4, true, d, a, imm)
  | .lwu d a imm => some (4, false, d, a, imm)
  | .ld d a imm => some (8, false, d, a, imm)
  | _ => none

/-- A scalar load that waits reads now (R64, R322), unless it would wait or trap. -/
def earlyScalar (n : Nat) (va : Word) (s : State) : Option (Early × State) :=
  let m : M Early := do
    awaitRange va.toNat n
    let pl ← scalarPlace va n .load
    awaitWindow pl
    let s ← get
    let s := if pl.cls = .remote then s.flushWindow s.hart.ctx pl.win else s
    if (s.viewPoison s.hart.ident.uid .scalar pl.key n).isSome || (s.watchHit va.toNat n .load).isSome then waitHere
    else
      let (v, t, s) := s.loadValue false 0 pl n
      set s
      pure { elem := 0, key := pl.key, size := n, vector := false, value := v, tainted := t }
  (m s).toOption

/-- The base, form and guard of a vector load (R163). -/
def vectorLoadForm : Instr → Option (BitVec 5 × AddrForm × BitVec 4)
  | .vld _ x _ g => some (x, .unit, g)
  | .vlds _ x xs _ g => some (x, .strided xs, g)
  | .vldx _ x vi _ g => some (x, .indexed vi, g)
  | _ => none

/-- One instruction runs in the lanes behind loads that have not returned (R171), on a copy of the machine whose vector side alone
counts: a load leaves its groups absent, and so does a lane instruction that has to wait for some; `none` if it does not leave
the VIQ or has to complete first. -/
def slipOne (s : State) (i : Instr) (d : Side) : Option State :=
  if i.issue != .vector then some s
  else if i.staysBehind then none
  else
    let h := { d.onto s.hart with
      held := some i, load := none, early := [], kept := none, pinned := none, ahead := none, prov := none }
    let t := { s with hart := h, core := { s.core with flying := true }, pause := none, deferring := false }
    let waits : Option State := i.lane.map fun r => s.setV r { s.v r with absent := ones 4096 }
    match exec i t with
    | .next r =>
      if r.hart.load.isSome || r.hart.counts.instret != h.counts.instret then
        some { r with hart := { r.hart with load := none, vec := { r.hart.vec with vstart := 0 } } }
      else waits
    | _ => waits

/-- The instructions run one behind the other in the lanes (R171). -/
def slip : List (Instr × Side) → State → Option State
  | [], s => some s
  | (i, d) :: t, s => (slipOne s i d).bind (slip t)

/-- The vector side that the instructions before a place in the queue leave to a load there (R171): an outstanding load at pc has left
already, and behind the oldest load at most eight instructions have. -/
def State.lanesAt (s : State) (older : List Queued) : Option State :=
  let held := if s.hart.load.isSome then [] else (s.hart.held.map fun i => (i, s.hart.side)).toList
  let vs := (s.hart.held.toList ++ older.map Queued.instr).filter fun i => i.issue == .vector
  if 8 < (vs.dropWhile fun i => (vectorLoadForm i).isNone).length then none
  else
    let h := s.hart
    let start := if h.load.isSome then { s with hart := { h with load := none, vec := { h.vec with vstart := 0 } } } else s
    slip (held ++ older.map fun q => (q.instr, q.side)) start

/-- What the load `q` behind the instructions `older` reads early of its element, and the state in which it has (R64, R171,
R180); `t` is the machine as `q` finds it. -/
def State.earlyRead (s t : State) (older : List Queued) (q : Queued) (elem : Nat) : Option (Early × State) :=
  match scalarLoadForm q.instr with
  | some (n, _, _, a, imm) => if elem = 0 then earlyScalar n (scalarAddr a imm t) t else none
  | none =>
    match vectorLoadForm q.instr, s.lanesAt older with
    | some (x, form, g), some r =>
      let h := { t.hart with v := r.hart.v, p := r.hart.p, vec := { r.hart.vec with vstart := 0 } }
      let copies := heldBy s.hart.rb0 ((s.hart.held.map fun i => (i, s.hart.x)).toList ++ older.map fun o => (o.instr, o.side.x))
      earlyElem x form q.instr.isOrdered g q.early copies elem { t with hart := h }
    | _, _ => none

/-- What a scalar load that has read gives its register, with the taint of what it read (R85). -/
def Queued.value (q : Queued) : Option (BitVec 5 × Word × Bool) :=
  match scalarLoadForm q.instr, q.early with
  | some (n, signExtends, d, _, _), e :: _ => some (d, fillReg n signExtends e.value, e.tainted)
  | _, _ => none

/-- The stream behind a scalar load that has its value (R85). -/
def Side.load (d : Side) (v : BitVec 5 × Word × Bool) : Side := { d.put v.1 v.2.1 with tainted := d.tainted || v.2.2 }

/-- The scalar loads that have read, and behind which no older one has still to (R64), leave the queue: their results are visible to
what issues later (R85). What stays, and what they have done to the stream. -/
def settleLoads : Bool → (Side → Side) → List Queued → List Queued × (Side → Side)
  | _, f, [] => ([], f)
  | blocked, f, q :: t =>
    match (if blocked then none else q.value) with
    | some v => settleLoads blocked (fun d => (f d).load v) t
    | none =>
      let (l, g) := settleLoads (blocked || q.instr.issue == .load) f t
      ({ q with side := f q.side } :: l, g)

/-- An element of the instruction at a place behind the oldest is read ahead of older accesses (R64, R180, R322). -/
def State.readEarly (s : State) (place elem : Nat) : Option State :=
  s.hart.ahead.bind fun a => a.queue[place]?.bind fun q =>
    let older := a.queue.take place
    let young : Ahead := { a with queue := a.queue.drop (place + 1) }
    let h := q.side.onto s.hart
    let h := { h with vec := { h.vec with vstart := 0 }, load := none, early := [], ahead := some young
                      prov := some (({ a with queue := older } : Ahead).youngest s.hart.counts.instret) }
    if q.early.any fun e => e.elem == elem then none
    else (s.earlyRead { s with hart := h } older q elem).map fun (e, r) =>
      let young := (r.hart.ahead.map Ahead.queue).getD []
      let unread := s.hart.early.isEmpty && s.hart.held.any fun i => i.issue == .load
      let (queue, f) := settleLoads unread id (older ++ [{ q with early := q.early ++ [e] }] ++ young)
      { r with hart := { s.hart with tlb := r.hart.tlb, ahead := some { a with queue := queue, now := f a.now } } }

end Sys2Proof.Machine
end

