-- ==== Sys2Proof/Machine/Run.lean ====
section
/-!
DEFINITION. What a step runs: an instruction from its fetch to its retirement, with what a trace and the counters see of it,
and the other turns of the agenda.
-/

namespace Sys2Proof.Machine

/-! ### What a trace and the counters see -/

/-- The records and counts of an instruction that has retired (R348 to R350). The ELEM of an end record is a free value; a
copy's end record is its engine's. -/
def State.sawRetired (s : State) (i : Instr) (pc : Word) : State :=
  let s := s.countEvent (if i.isVector then 1 else 2) 1
  let s := if i.isSrf then s.countEvent 13 1 else s
  if !i.isCopy && i.pipes.any s.tracing then
    let c := s.dev.freeCount
    State.recordAll { s with dev := { s.dev with freeCount := c + 1 } } 1 i (Config.free c) pc
  else s

/-- What is recorded of an instruction at `pc` after its step, when `n` instructions had retired before it: its end, its stop
at a trap, or nothing while it waits. -/
def State.saw (s : State) (i : Instr) (pc : Word) (n : Word) : State :=
  if s.hart.held.isSome then s
  else if s.hart.counts.instret ≠ n then s.sawRetired i pc
  else s.recordAll 2 i s.hart.trap.tstart pc

/-- The outcome of an instruction with what is recorded of it. -/
def observed (i : Instr) (pc n : Word) : Res → Res
  | .next s => .next (s.saw i pc n)
  | .fault f => .fault f
  | .refused r => .refused r

/-! ### One instruction -/

/-- What the hart still has to perform before an instruction of it executes (R322): a load of a register that the instruction names,
and everything before one that waits for it; an atomic orders what its own rules say. -/
def State.landFor (s : State) (i : Instr) : State :=
  let all := i.issue == .waits && !i.isAmo
  if s.hart.late.isEmpty then s
  else s.landLate s.hart.ident.uid fun l => all || l.reg.any fun r => i.xregs.contains r

/-- An instruction that has been fetched issues (R65): it waits while a register it names is the target of a pending copy,
and is held until it has retired (R94). -/
def State.issue (s : State) (i : Instr) : Res :=
  let s := s.landFor i
  let s : State := { s with hart := { s.hart with held := some i }, deferring := s.deferring && i.mayDefer }
  if i.xregs.any s.pending then
    let s := s.engineProgress
    .next { s with hart := { s.hart with fetchPin := none } }
  else observed i s.hart.pc s.hart.counts.instret (exec i s)

/-- An instruction issues for the first time: its begin records (R348). -/
def State.issueFresh (s : State) (i : Instr) : Res := (s.recordAll 0 i s.hart.vec.vstart s.hart.pc).issue i

/-- The instruction at pc is fetched, decoded and issued (R31). -/
noncomputable def State.fetchAndIssue (s : State) : Res :=
  match s.fetchInstr with
  | .error _ => exec .fetchTrap s
  | .ok (w, s) =>
    match decodeWords w with
    | some i => s.issueFresh i
    | none => exec (.illegal w) s

/-- The next step of the hart at the front: a recorded input, an interrupt, a halt, the instruction it is in, behind which
others may have issued, or the one at pc; a hart that does not run stays as it is. -/
noncomputable def State.hartStep (s : State) : Res :=
  if s.hart.status ≠ .running then .next s
  else match s.inputDue with
  | some g => exec (.replayInputApply (BitVec.ofNat 32 g)) s
  | none => if s.interruptDue.isSome then exec .interrupt s
  else if s.atBreak then exec .breakpointHalt s
  else match s.hart.held with
    | some i => comeUpAfter s.hart (s.issue i)
    | none => s.fetchAndIssue

/-! ### Turns -/

/-- Nanoseconds pass. -/
def State.tick (s : State) (ns : Nat) : State :=
  let f (c : Core) : Core := { c with counters := c.counters.map fun k => k.tick ns }
  { s with core := f s.core, cores := s.cores.map f, dev := { s.dev with now := s.dev.now + ns } }

/-- The outcome with what the agenda asked of the step forgotten. -/
def unpaused : Res → Res
  | .next s => .next { s with pause := none, deferring := false }
  | .fault f => .fault f
  | .refused r => .refused r

/-- A piece of the ERUN or EFRONT that the hart runs (R289), with what is recorded of it when it traps. -/
def State.edgeStep (s : State) (place : Nat) : Res :=
  match s.hart.held with
  | some i => observed i s.hart.pc s.hart.counts.instret (s.edgeTurn place)
  | none => .next s

/-- A turn that cannot take place changes nothing. -/
def orStay (s : State) (o : Option State) : Res := .next (o.getD s)

/-- What one turn does. -/
noncomputable def State.take (s : State) : Turn → Res
  | .hart => s.hartStep
  | .pauseAt n => unpaused (State.hartStep { s with pause := some n })
  | .defer => unpaused (State.hartStep { s with deferring := true })
  | .perform place => orStay s (s.performPlace place)
  | .merge place => orStay s (s.mergePlace place)
  | .edge place => s.edgeStep place
  | .select uid => .next (s.select (uid % 256))
  | .event i => if i.isEvent then exec i s else .next s
  | .tick ns => .next (s.tick ns)
  | .issue => orStay s s.issueNext
  | .early place elem => orStay s (s.readEarly place elem)
  | .copyUnit unit => orStay s (s.moveUnit unit)
  | .refuseWindow ctx num => s.refuseWindow ctx num
  | .leaveAttic queue => s.leaveAttic queue
  | .evictIo ctx vpn => .next { s with dev := s.dev.dropIo ctx (some vpn) }
  | .hostRead bar off n => s.hostRead bar off n
  | .startCommand buf => s.startCommand buf
  | .readOut uid => s.readOutHart uid
  | .throttleStep die => s.throttleStep die
  | .evict vpn => .next { s with hart := { s.hart with tlb := s.hart.tlb.filter fun e => e.vpn != vpn } }

/-! ### Placing an instruction -/

/-- The translation that maps a page onto the physical page of the same number, modulo the memory's size, for a fetch. -/
def fetchEntry (s : State) (vpn : Nat) : TlbEntry :=
  { vpn := vpn, frame := vpn * 4096 % Config.memorySize, cls := .device, r := true, w := true, x := true
    u := s.hart.priv = .u, g := false, dirty := true }

/-- The hart at the front runs, at a boundary with nothing pending. -/
def Hart.ready (h : Hart) : Hart :=
  let t := h.trap.status
  { h with
    status := .running, fetchPin := none, held := none, load := none, ahead := none, early := [], kept := none, prov := none
    pinned := none, late := [], edgeRun := none, reload := [], inWfi := false, passed := true
    trap := { h.trap with status := { t with hpend := false, ppend := false, tpend := false } } }

/-- The bytes of an instruction stored where the hart at the front fetches next, as a loaded program has them there: the
page mapped for the fetch, the hart running, nothing else to be done first. -/
def State.place (s : State) (bs : List Byte) : State :=
  let pc := s.hart.pc.toNat
  let h := s.hart.ready
  let h := { h with tlb := fill (fill h.tlb (fetchEntry s ((pc + 4) % 2 ^ 64 / 4096))) (fetchEntry s (pc / 4096)) }
  let d := s.dev.writeNumber (deviceKey (pc % Config.memorySize)) bs.length (ofBytes bs)
  { s with hart := h, dev := { d with debug := sparseSet {} d.debug h.ident.uid {}, retired := [] }, agenda := []
           pause := none, deferring := false }

end Sys2Proof.Machine
end

