-- ==== Sys2Proof/Machine/Step.lean ====
section
/-!
DEFINITION. One step of the machine: the first turn of the agenda, or the next step of the hart at the front when the
agenda is empty.
-/

namespace Sys2Proof.Machine

/-- One step. -/
noncomputable def step (s : State) : Host.Outcome State Fault Refusal :=
  match s.agenda with
  | [] => s.hartStep
  | t :: rest => State.take { s with agenda := rest } t

/-- The state with the instruction of `nbits` bits `w`, every higher bit zero, where `step` fetches next. -/
def State.withFetchWord (s : State) (nbits w : Nat) : State := s.place (layBytes (w % 2 ^ nbits))

end Sys2Proof.Machine
end

