-- ==== Sys2Proof/Safety.lean ====
section
/-!
DEFINITION. The terms in which claims about the machine are stated: what a retirement counts, what an instruction leaves
as it was, and the invariant of memory.
-/

namespace Sys2Proof.Machine

/-! ### Retirement -/

/-- One instruction has retired (R10, R79): INSTRET counts it, and the timer ticks if it issued in U. -/
def Counted (s t : State) : Prop :=
  t.hart.counts.instret = s.hart.counts.instret + 1 ∧
  t.hart.trap.status = (if s.hart.priv = .u then s.hart.trap.status.tick else s.hart.trap.status)

/-- The instruction at pc has retired in sequence (R10, R56): pc is its successor, or the begin of a loop whose body it
ends. -/
def Sequential (size : Nat) (s t : State) : Prop :=
  Counted s t ∧ t.hart.loops = (s.hart.loops.step s.hart.pc).1 ∧
  t.hart.pc = ((s.hart.loops.step s.hart.pc).2).getD (s.hart.pc + word size)

/-- The instruction at pc has retired with a transfer of control (R56): no loop step takes place. -/
def Transferred (target : Word) (s t : State) : Prop := Counted s t ∧ t.hart.pc = target

/-! ### What stays as it was -/

/-- Every x register but `d`. -/
def KeepsXBut (d : BitVec 5) (s t : State) : Prop := ∀ r, r ≠ d → t.x r = s.x r

/-- Every x register. -/
def KeepsX (s t : State) : Prop := ∀ r, t.x r = s.x r

/-- Every vector register but `d`: its bits, tag, slot, presence and taint. -/
def KeepsVBut (d : BitVec 6) (s t : State) : Prop := ∀ r, r ≠ d → t.v r = s.v r

/-- Every vector register. -/
def KeepsV (s t : State) : Prop := ∀ r, t.v r = s.v r

/-- Every predicate but `d`. -/
def KeepsPBut (d : BitVec 4) (s t : State) : Prop := ∀ r n, r ≠ d → t.p r n = s.p r n

/-- Every predicate. -/
def KeepsP (s t : State) : Prop := ∀ r n, t.p r n = s.p r n

/-- FCSR: the rounding mode and every flag. -/
def KeepsFcsr (s t : State) : Prop := t.hart.fcsr = s.hart.fcsr

/-- VL, VSTART, VTYPE, LSLIP and HDIM. -/
def KeepsVec (s t : State) : Prop := t.hart.vec = s.hart.vec

/-- The loop registers. -/
def KeepsLoops (s t : State) : Prop := t.hart.loops = s.hart.loops

/-- The trap registers but TSTATUS: TCAUSE, TPC, TVAL, TSTART, TINFO0 to TINFO3, TVEC, TVTYPE. -/
def KeepsTrap (s t : State) : Prop := { t.hart.trap with status := s.hart.trap.status } = s.hart.trap

/-- The accumulators, slots, engines and settings of the hart: tiles and weight buffer, stream slots, sparse vector
registers, engine status, the bound graph, DETM; and its privilege and identity. -/
def KeepsUnits (s t : State) : Prop :=
  t.hart.mat = s.hart.mat ∧ t.hart.streams = s.hart.streams ∧ t.hart.y = s.hart.y ∧ t.hart.engine = s.hart.engine ∧
  t.hart.edge = s.hart.edge ∧ t.hart.detm = s.hart.detm ∧ t.hart.priv = s.hart.priv ∧ t.hart.ident = s.hart.ident

/-- TAINT. -/
def KeepsTaint (s t : State) : Prop := t.hart.taint = s.hart.taint

/-- Every byte of memory: at the coherence point, and as every reader of every hart of the core sees it. -/
def KeepsMemory (s t : State) : Prop :=
  ∀ k, Memory.read t.dev.mem k = Memory.read s.dev.mem k ∧ ∀ h r, t.viewByte h r k = s.viewByte h r k

/-- Every byte of memory outside `n` bytes from a key on. -/
def KeepsMemoryBut (key n : Nat) (s t : State) : Prop :=
  ∀ k, k < key ∨ key + n ≤ k →
    Memory.read t.dev.mem k = Memory.read s.dev.mem k ∧ ∀ h r, t.viewByte h r k = s.viewByte h r k

/-- Everything outside the hart at the front: its core with the write-combining buffer, copies and tasks; the other harts
and cores; and the whole device but the model's counter of free values. -/
def KeepsOutside (s t : State) : Prop :=
  t.core = s.core ∧ t.parked = s.parked ∧ t.cores = s.cores ∧ { t.dev with freeCount := s.dev.freeCount } = s.dev

/-- The registers of the hart beside x, v, p, FCSR, the vector controls and the loops. -/
def KeepsRest (s t : State) : Prop := KeepsTrap s t ∧ KeepsUnits s t ∧ KeepsTaint s t

/-- An instruction that writes X[d] alone: its value there (nothing for x0), and everything else but pc, the loop step and
the counts as it was. -/
def WritesX (d : BitVec 5) (v : Word) (s t : State) : Prop :=
  t.x d = (if d = 0 then 0 else v) ∧ KeepsXBut d s t ∧ KeepsV s t ∧ KeepsP s t ∧ KeepsFcsr s t ∧ KeepsVec s t ∧
  KeepsRest s t ∧ KeepsMemory s t ∧ KeepsOutside s t

/-- An instruction that changes no register but pc, the loop step and the counts. -/
def WritesNothing (s t : State) : Prop :=
  KeepsX s t ∧ KeepsV s t ∧ KeepsP s t ∧ KeepsFcsr s t ∧ KeepsVec s t ∧ KeepsRest s t ∧ KeepsMemory s t ∧ KeepsOutside s t

/-- The trap entry of R81 has been taken from `s` for a trap at (pc of `s`, the trap's element): the saved registers, the
handler's address, privilege S, VSTART and LACT zero; the other loop and vector controls and the rest of TSTATUS stay, but for
the pending bit of an interrupt that is taken, and nothing is counted. -/
def Entered (tr : Trap) (s t : State) : Prop :=
  t.hart.trap.cause = BitVec.ofNat 8 (causeCode tr.cause) ∧ t.hart.trap.tpc = s.hart.pc ∧ t.hart.trap.tval = tr.val ∧
  t.hart.trap.tstart = tr.elem ∧ t.hart.trap.tvtype = word s.hart.vec.vtype.pack ∧
  t.hart.trap.tvec = s.hart.trap.tvec ∧ t.hart.pc = s.hart.trap.tvec ∧ t.hart.priv = .s ∧
  t.hart.vec = { s.hart.vec with vstart := 0 } ∧ t.hart.loops = { s.hart.loops with lact := 0 } ∧
  t.hart.trap.status = { s.hart.trap.status with
    slact := s.hart.loops.lact, pprv := s.hart.priv, pie := s.hart.trap.status.ie, ie := false, eip := true
    ppend := s.hart.trap.status.ppend && decide (causeCode tr.cause ≠ 0x20)
    tpend := s.hart.trap.status.tpend && decide (causeCode tr.cause ≠ 0x21)
    hpend := s.hart.trap.status.hpend && decide (causeCode tr.cause ≠ 0x22) } ∧
  t.hart.counts = s.hart.counts

/-- What a synchronous trap leaves as it was (R81, R85): the registers of the program, memory once what has issued beyond is
discarded, and every unit, but for the strips whose fetch has failed, which are made again (R192). -/
def TrapKeeps (s t : State) : Prop :=
  KeepsX s t ∧ KeepsV s t ∧ KeepsP s t ∧ KeepsFcsr s t ∧ KeepsTaint s t ∧ KeepsMemory s.discard t ∧
  KeepsUnits { s with hart := { s.hart with priv := .s, streams := s.hart.streams.map fun b => b.map Binding.refetch } } t

/-! ### Numbers -/

/-- A number as a multiple of 2^−k, exact when its exponent is at least −k; none for an infinity or a NaN. -/
def Fv.scaled (k : Nat) : Fv → Option Int
  | .fin n m e => some ((if n then -1 else 1) * (m * 2 ^ (e + k).toNat : Nat))
  | _ => none

/-- An integer that x / S rounds to under a mode (R70): the nearest, a tie to the even one under RNE and away from zero
under RNA; the greatest not above, the least not below, or the greatest not beyond in magnitude. -/
def RoundsInt (rm : Rm) (S : Nat) (x r : Int) : Prop :=
  match rm with
  | .rne => 2 * (x - r * S).natAbs ≤ S ∧ (2 * (x - r * S).natAbs = S → r % 2 = 0)
  | .rna => 2 * (x - r * S).natAbs ≤ S ∧ (2 * (x - r * S).natAbs = S → x.natAbs < (r * S).natAbs)
  | .rtz => (r * S).natAbs ≤ x.natAbs ∧ x.natAbs < (r * S).natAbs + S ∧ 0 ≤ x * r
  | .rdn => r * S ≤ x ∧ x < r * S + S
  | .rup => x ≤ r * S ∧ r * S < x + S

/-- An exact result z / q · 2^−2200 lies where a mode rounds it to a number of the format (R70): under RNE and RNA below the
middle between the greatest number and the next that a wider exponent would give. -/
def Fmt.inRange (f : Fmt) (rm : Rm) (z : Int) (q : Nat) : Prop :=
  let top : Int := ((f.decode f.maxFinite).scaled 2200).getD 0
  let ulp : Int := top - ((f.decode (f.maxFinite - 1)).scaled 2200).getD 0
  match rm with
  | .rne | .rna => 2 * (z.natAbs : Int) < (2 * top + ulp) * q
  | .rtz => True
  | .rdn => -(top * q) ≤ z
  | .rup => z ≤ top * q

/-- The encoding `k` is the exact result z / q · 2^−2200 rounded once to the format (R70, R71): among the numbers of the
format the one that the mode names, a tie to the even encoding under RNE and away from zero under RNA; beyond the range an
infinity of its sign, in F8E4 the greatest number (R123). -/
def Fmt.RoundsTo (f : Fmt) (rm : Rm) (z : Int) (q k : Nat) : Prop :=
  (f.inRange rm z q → ∃ r, (f.decode k).scaled 2200 = some r ∧ ∀ n v, (f.decode n).scaled 2200 = some v →
    let far := (r * q - z).natAbs
    let other := (v * q - z).natAbs
    match rm with
    | .rne => far ≤ other ∧ (far = other → v ≠ r → k % 2 = 0)
    | .rna => far ≤ other ∧ (far = other → v ≠ r → v.natAbs < r.natAbs)
    | .rdn => r * q ≤ z ∧ (v * q ≤ z → v ≤ r)
    | .rup => z ≤ r * q ∧ (z ≤ v * q → r ≤ v)
    | .rtz => (r * q).natAbs ≤ z.natAbs ∧ 0 ≤ r * z ∧ ((v * q).natAbs ≤ z.natAbs → v.natAbs ≤ r.natAbs)) ∧
  (¬f.inRange rm z q → if f.e4 then k % 2 ^ 7 = f.maxFinite ∧ f.sign k = decide (z < 0) else f.decode k = .inf (decide (z < 0)))

/-- The encoding `k` is the root of x · 2^−2200 rounded once to the format (R73): of any other number v of the format the root
lies on the side of the middle between the two where the result is; under the directed modes the result is the greatest
not above the root or the least not below. -/
def Fmt.RootOf (f : Fmt) (rm : Rm) (x : Int) (k : Nat) : Prop :=
  ∃ r, (f.decode k).scaled 2200 = some r ∧ 0 ≤ r ∧ ∀ n v, (f.decode n).scaled 2200 = some v → 0 ≤ v →
    match rm with
    | .rne | .rna => (v < r → (r + v) ^ 2 ≤ 4 * x * 2 ^ 2200) ∧ (r < v → 4 * x * 2 ^ 2200 ≤ (r + v) ^ 2)
    | .rdn | .rtz => r ^ 2 ≤ x * 2 ^ 2200 ∧ (v ^ 2 ≤ x * 2 ^ 2200 → v ≤ r)
    | .rup => x * 2 ^ 2200 ≤ r ^ 2 ∧ (x * 2 ^ 2200 ≤ v ^ 2 → r ≤ v)

/-! ### Control -/

/-- An address lies in a loop body, both ends included. -/
def inBody (b e a : Word) : Bool := b.toNat ≤ a.toNat && a.toNat ≤ e.toNat

/-- Control leaves the instruction at pc for `target` (R57): each active loop whose body holds pc and not the target ends,
and nothing else of the loop registers changes. -/
def LoopsLeft (target : Word) (s t : State) : Prop :=
  { t.hart.loops with lact := s.hart.loops.lact } = s.hart.loops ∧
  t.hart.loops.lact.getLsbD 0 = (s.hart.loops.lact.getLsbD 0 &&
    !(inBody s.hart.loops.lb0 s.hart.loops.le0 s.hart.pc && !inBody s.hart.loops.lb0 s.hart.loops.le0 target)) ∧
  t.hart.loops.lact.getLsbD 1 = (s.hart.loops.lact.getLsbD 1 &&
    !(inBody s.hart.loops.lb1 s.hart.loops.le1 s.hart.pc && !inBody s.hart.loops.lb1 s.hart.loops.le1 target))

/-- TINFO0 to TINFO3 after a trap (R80, R87). -/
def TrapInfoIs (a b c d : Word) (t : State) : Prop :=
  t.hart.trap.tinfo0 = a ∧ t.hart.trap.tinfo1 = b ∧ t.hart.trap.tinfo2 = c ∧ t.hart.trap.tinfo3 = d

/-! ### Accesses -/

/-- The hart has performed every access of the instructions that have retired, and performs those of the next as it executes
(R322). -/
abbrev State.inOrder (s : State) : Prop := s.hart.late = [] ∧ s.deferring = false

/-- A scalar access of `n` bytes passes the wait of R65 and steps 1 to 4 of R62: it lies at `pl`, in the state `u` that its
translation leaves; it is performed as it executes, after every earlier one of the hart. -/
abbrev Reaches (s : State) (va : Word) (n : Nat) (acc : Acc) (pl : Place) (u : State) : Prop :=
  s.held va.toNat n = false ∧ va.toNat % n = 0 ∧ s.locate va.toNat n acc = .ok (pl, u) ∧ s.inOrder

/-- A store of `n` bytes at a place disturbs no other: the write-combining buffer holds nothing there; of the hart's own entries
none waits for a younger instruction than the store does; and where stores drain as they are made, none waits under
DETM.ARB, and none has been posted on the window before. -/
abbrev State.storesAlone (s : State) (pl : Place) (n : Nat) : Prop :=
  (∀ e ∈ s.core.wcb, overlaps e.key e.bytes.length pl.key n = false ∧
    (e.hart = s.hart.ident.uid → ∀ b, e.prov = some b → ∀ p, s.hart.prov = some p → p.ult b = false)) ∧
  (s.core.eager = true → (s.arb s.hart.ident.uid = true → s.core.wcb = []) ∧
    ∀ w, s.windowOf pl = some w → w.posted = [] ∧ w.state = .up)

/-- What was posted through the window of a remote place has arrived (R378). -/
def State.arrived (s : State) (pl : Place) : State :=
  if pl.cls = .remote then s.flushWindow s.hart.ctx pl.win else s

/-- What an access of `n` bytes of a load gives (R323), and whether it is tainted: what it read when it was performed ahead of
older accesses, or what the hart's loads of its kind see now; none where that holds an uncorrected error. -/
def State.seen (s : State) (vector : Bool) (elem key n : Nat) : Option (Nat × Bool) :=
  let u := s.hart.ident.uid
  let r : Reader := if vector then .vector else .scalar
  match s.earlyAt elem key with
  | some e => some (e.value, e.tainted)
  | none => if (s.viewPoison u r key n).isSome then none else some (s.view u r key n, s.viewTainted u r key n)

/-- Every register of a hart but x, pc, the loops, TAINT and the strip buffers' spoiled marks. -/
def KeepsRegisters (s t : State) : Prop :=
  KeepsV s t ∧ KeepsP s t ∧ KeepsFcsr s t ∧ KeepsVec s t ∧ KeepsTrap s t ∧ t.hart.mat = s.hart.mat ∧ t.hart.y = s.hart.y ∧
  t.hart.engine = s.hart.engine ∧ t.hart.edge = s.hart.edge ∧ t.hart.detm = s.hart.detm ∧ t.hart.priv = s.hart.priv ∧
  t.hart.ident = s.hart.ident

/-- The device but memory, its error marks and its block metadata, and the model's counter of free values. -/
def KeepsDevice (s t : State) : Prop :=
  { t.dev with mem := s.dev.mem, poison := s.dev.poison, blocks := s.dev.blocks, freeCount := s.dev.freeCount } = s.dev

/-! ### Vector instructions -/

/-- Element `i` of a register as elements of a tag. -/
def VReg.elem (v : VReg) (t : Tag) (i : Nat) : Nat := item (8 * tagWidth t) v.data i

/-- A source that is not bound and whose element groups from element `lo` to `n - 1` are present. -/
abbrev VReg.readable (v : VReg) (lo n : Nat) : Prop := v.bound = none ∧ v.present lo n = true

/-- The destination of an element-wise instruction (R130, R141): from VSTART on, the elements below `n` that `act` selects
hold `f`; under TAIL the elements from VL to VLMAX are zero, where the tag has a tail; every other element keeps its bits.
The register has the result tag, and its binding and presence stay. -/
def ElementWise (d : BitVec 6) (tag : Tag) (n w : Nat) (act : Nat → Bool) (f : Nat → Nat) (s t : State) : Prop :=
  (t.v d).tag = tag ∧ (t.v d).bound = (s.v d).bound ∧ (t.v d).absent = (s.v d).absent ∧
  ∀ i, i < s.vlmax w → (t.v d).elem tag i =
    if i < n ∧ s.hart.vec.vstart ≤ i ∧ act i = true then f i % 2 ^ (8 * tagWidth tag)
    else if s.hart.vec.vtype.tail = true ∧ s.hart.vec.vl ≤ i ∧ tagClass tag ≠ .hb ∧ tagClass tag ≠ .hc then 0
    else (s.v d).elem tag i

/-- VSTART is 0 again, the sticky bits of VTYPE have only gained (R126, R127), and the other vector controls stay. -/
def VecGained (s t : State) : Prop :=
  t.hart.vec = { s.hart.vec with
    vstart := 0
    vtype := { s.hart.vec.vtype with
      flags := t.hart.vec.vtype.flags, satf := t.hart.vec.vtype.satf, rninv := t.hart.vec.vtype.rninv } } ∧
  s.hart.vec.vtype.flags &&& t.hart.vec.vtype.flags = s.hart.vec.vtype.flags ∧
  (s.hart.vec.vtype.satf = true → t.hart.vec.vtype.satf = true) ∧
  (s.hart.vec.vtype.rninv = true → t.hart.vec.vtype.rninv = true)

/-- TAINT may have gained SEEN and ESCAPE (R339, R340), and nothing else of it changes. -/
def TaintGained (s t : State) : Prop :=
  { t.hart.taint with seen := s.hart.taint.seen, escape := s.hart.taint.escape } = s.hart.taint ∧
  (s.hart.taint.seen = true → t.hart.taint.seen = true) ∧ (s.hart.taint.escape = true → t.hart.taint.escape = true)

/-- What a vector instruction that accesses no memory leaves as it was, beside the x, v and p registers: FCSR, the trap
registers, the units, memory and everything outside the hart; of the vector controls and TAINT only what they gain. -/
def VectorFrame (s t : State) : Prop :=
  KeepsFcsr s t ∧ VecGained s t ∧ TaintGained s t ∧ KeepsTrap s t ∧ KeepsUnits s t ∧ KeepsMemory s t ∧ KeepsOutside s t

/-- Bit `i` of predicate p[r]; every bit of p0 is set (R33, R96). -/
def State.pbit (s : State) (r : BitVec 4) (i : Nat) : Bool := (s.p r (i + 1)).testBit i

/-- The positions from VSTART to `n - 1` that a predicate selects, ascending. -/
def State.selected (s : State) (g : BitVec 4) (n : Nat) : List Nat :=
  (List.range n).filter fun i => decide (s.hart.vec.vstart ≤ i) && s.pbit g i

/-- A predicate destination (R158, R160): the selected bits from VSTART to `n - 1` hold `f`, under TAIL the bits from VL on
are clear where the instruction has a tail, and every other bit stays. -/
def PredWise (d g : BitVec 4) (n : Nat) (hasTail : Bool) (f : Nat → Bool) (s t : State) : Prop :=
  KeepsPBut d s t ∧ (d ≠ 0 → ∀ i, t.pbit d i =
    if s.hart.vec.vstart ≤ i ∧ i < n ∧ s.pbit g i = true then f i
    else if s.hart.vec.vtype.tail = true ∧ s.hart.vec.vl ≤ i ∧ hasTail = true then false else s.pbit d i)

/-- Elements of `w` bytes whose accesses pass steps 1 to 4 of R168 without a walk: aligned, on pages of device memory whose
translations the hart holds and permits, unwatched and free of copies; element `i` lies at `key i`. -/
abbrev OnPinnedPages (s : State) (acc : Acc) (w : Nat) (sel : List Nat) (addr : Nat → Word) (key : Nat → Nat) : Prop :=
  ∀ i ∈ sel, (addr i).toNat % w = 0 ∧ s.locate (addr i).toNat w acc = .ok ({ key := key i, cls := .device }, s) ∧
    s.watchHit (addr i).toNat w acc = none ∧ s.held (s.pageBytes (addr i).toNat).1 (s.pageBytes (addr i).toNat).2 = false

/-- The value of an element of an I or W tag (R120). -/
def intValue (t : Tag) (k : Nat) : Int := if tagClass t = .w then (k % 2 ^ (8 * tagWidth t) : Nat) else signed (8 * tagWidth t) k

/-- The bits of an integer result (R129): clamped to the tag's range under SAT, and modulo the width. -/
def intFit (t : Tag) (sat : Bool) (z : Int) : Nat :=
  let n := 8 * tagWidth t
  let lo : Int := if tagClass t = .w then 0 else -2 ^ (n - 1)
  let hi : Int := if tagClass t = .w then 2 ^ n - 1 else 2 ^ (n - 1) - 1
  wrap n (if sat then max lo (min hi z) else z)

/-- The canonical NaN of a tag (R125). -/
def canonicalNan : Tag → Nat
  | .f8e4 => 0x7F | .f8e5 => 0x7E | .bf16 => 0x7FC0 | .f16 => 0x7E00 | .f32 => 0x7FC00000 | _ => 0x7FF8000000000000

/-- A number or an infinity of a format in their order, none for a NaN. -/
def Fmt.order (f : Fmt) (k : Nat) : Option Int :=
  match f.decode k with
  | .inf n => some (if n then -2 ^ 4000 else 2 ^ 4000)
  | v => v.scaled 2200

/-- The two-source forms of R153, each with its scalar form and its operation. -/
def binaryForms (d a b : BitVec 6) (x : BitVec 5) (g : BitVec 4) : List (Instr × Instr × VecOp) :=
  [(.vaddV d a b g, .vaddW d a x g, .add), (.vsubV d a b g, .vsubW d a x g, .sub),
   (.vmulV d a b g, .vmulW d a x g, .mul), (.vmulhV d a b g, .vmulhW d a x g, .mulh),
   (.vmulhuV d a b g, .vmulhuW d a x g, .mulhu), (.vminV d a b g, .vminW d a x g, .min),
   (.vmaxV d a b g, .vmaxW d a x g, .max), (.vdivV d a b g, .vdivW d a x g, .div), (.vremV d a b g, .vremW d a x g, .rem),
   (.vandV d a b g, .vandW d a x g, .and), (.vorV d a b g, .vorW d a x g, .or), (.vxorV d a b g, .vxorW d a x g, .xor),
   (.vandnV d a b g, .vandnW d a x g, .andn), (.vsllV d a b g, .vsllW d a x g, .sll),
   (.vsrlV d a b g, .vsrlW d a x g, .srl), (.vsraV d a b g, .vsraW d a x g, .sra)]

/-- The fused forms of R155, each with its scalar form, and whether it negates the product and the destination's element. -/
def fusedForms (d a b : BitVec 6) (x : BitVec 5) (g : BitVec 4) : List (Instr × Instr × Bool × Bool) :=
  [(.vfmaV d a b g, .vfmaW d a x g, false, false), (.vfmsV d a b g, .vfmsW d a x g, false, true),
   (.vfnmaV d a b g, .vfnmaW d a x g, true, true), (.vfnmsV d a b g, .vfnmsW d a x g, true, false)]

/-- The unary forms of R156. -/
def unaryForms (d a : BitVec 6) (g : BitVec 4) : List (Instr × UnOp) :=
  [(.vneg d a g, .neg), (.vabs d a g, .abs), (.vsqrt d a g, .sqrt), (.vexp2 d a g, .exp2), (.vlog2 d a g, .log2),
   (.vrcp d a g, .rcp), (.vnot d a g, .not)]

/-- The compares of R158, each with its scalar form, its relation, and that relation of two integers. -/
def compareForms (d g : BitVec 4) (a b : BitVec 6) (x : BitVec 5) : List (Instr × Instr × Rel × (Int → Int → Bool)) :=
  [(.vcmpeqV d a b g, .vcmpeqW d a x g, .eq, fun k l => decide (k = l)),
   (.vcmpneV d a b g, .vcmpneW d a x g, .ne, fun k l => decide (k ≠ l)),
   (.vcmpltV d a b g, .vcmpltW d a x g, .lt, fun k l => decide (k < l)),
   (.vcmpleV d a b g, .vcmpleW d a x g, .le, fun k l => decide (k ≤ l)),
   (.vcmpgtV d a b g, .vcmpgtW d a x g, .gt, fun k l => decide (l < k)),
   (.vcmpgeV d a b g, .vcmpgeW d a x g, .ge, fun k l => decide (l ≤ k)),
   (.vcmpunV d a b g, .vcmpunW d a x g, .un, fun _ _ => false)]

/-- The element-wise forms with vector sources (R141): each with the second tag that its TAGMISMATCH reports (R387), whether
its tags pass the checks of R138, and whether it writes a vector register, which may not be bound. -/
def elementForms (s : State) (d a b : BitVec 6) (q g : BitVec 4) (x c : BitVec 5) : List (Instr × Tag × Bool × Bool) :=
  let ta := (s.v a).tag
  let tb := (s.v b).tag
  let td := (s.v d).tag
  let one (f : TagClass → Bool) := ta != .none && f (tagClass ta)
  let two (f : TagClass → Bool) := ta == tb && one f
  (binaryForms d a b x g).map (fun p => (p.1, tb, two p.2.2.defined, true)) ++
  (binaryForms d a b x g).map (fun p => (p.2.1, .none, one p.2.2.defined, true)) ++
  (fusedForms d a b x g).map (fun p => (p.1, tb, ta == td && two fusedDefined, true)) ++
  (fusedForms d a b x g).map (fun p => (p.2.1, td, ta == td && one fusedDefined, true)) ++
  (unaryForms d a g).map (fun p => (p.1, .none, one p.2.defined, true)) ++
  (compareForms q g a b x).map (fun p => (p.1, tb, two (relDefined p.2.2.1), false)) ++
  (compareForms q g a b x).map (fun p => (p.2.1, .none, one (relDefined p.2.2.1), false)) ++
  [(.vmv d a g, .none, one fun _ => true, true), (.vsel d a b g, tb, two fun _ => true, true),
   (.vcvt d a c g, if ta = .none then .none else tagField c, ta != .none && convertible ta (tagField c), true)]

/-! ### Units -/

/-- What an instruction of the matrix unit leaves as it was, beside the v registers and the tiles. -/
def MatrixFrame (s t : State) : Prop :=
  KeepsX s t ∧ KeepsP s t ∧ KeepsFcsr s t ∧ VecGained s t ∧ TaintGained s t ∧ KeepsTrap s t ∧
  { t.hart.mat with tiles := s.hart.mat.tiles } = s.hart.mat ∧ t.hart.streams = s.hart.streams ∧ t.hart.y = s.hart.y ∧
  t.hart.engine = s.hart.engine ∧ t.hart.edge = s.hart.edge ∧ t.hart.detm = s.hart.detm ∧ t.hart.priv = s.hart.priv ∧
  t.hart.ident = s.hart.ident ∧ KeepsMemory s t ∧ KeepsOutside s t

/-- Pieces of `w` bytes from a virtual address on that an engine instruction reads without a wait, a walk or a fault: on
pages of device memory whose translations the hart holds, piece `i` at `key i`, with no copy over their pages, no
watchpoint, no error mark and no taint. No store of the core waits in its write-combining buffer, no combine waits to be
applied, every earlier access of the hart is performed, and the instruction has read nothing early. -/
abbrev InPlainMemory (s : State) (va n w : Nat) (key : Nat → Nat) : Prop :=
  s.core.wcb = [] ∧ s.dev.combines = [] ∧ s.hart.early = [] ∧ s.hart.late = [] ∧ ∀ i, i < n →
    s.locate (va + w * i) w .load = .ok ({ key := key i, cls := .device }, s) ∧ s.dev.poisoned (key i) w = none ∧
    s.dev.rangeTainted (key i) w = false ∧ s.held (s.pageBytes (va + w * i)).1 (s.pageBytes (va + w * i)).2 = false ∧
    s.watchHit (va + w * i) w .load = none

/-- A state but for the performance counters of its core, which stand as in `s` (R349). -/
def State.countersOf (s u : State) : State := { u with core := { u.core with counters := s.core.counters } }

/-- On registers of at least one 64-bit element, under a VTYPE and with the x registers `x`, the body of a bound graph raises
nothing, reads no taint and finds for each edge the candidate that `f` gives for the values of source, weight and destination,
if any (R284, R285). -/
def EdgeBinding.Computes (b : EdgeBinding) (x : Vector Word 32) (vt : VType) (f : Nat → Nat → Nat → Option Nat) : Prop :=
  ∀ (s : State) (src wt dst : Nat) (t : Tally), 8 ≤ s.rb → t.marks = vt →
    edgeCandidate b x (src, false) (wt, false) (dst, false) t s =
      .ok (((f src wt dst).map fun c => (c, false), false, { t with edges := t.edges + 1 }), s)

/-- The places of a bound graph's entries (R281), each with its size: edge lists, weights, values, bitmaps. -/
def EdgeBinding.cells (b : EdgeBinding) : List (Nat × Nat) :=
  let row (base n k : Nat) : List (Nat × Nat) := (List.range k).map fun i => (deviceKey (b.phys (base + n * i)), n)
  row b.outptr 4 (b.nv + 1) ++ row b.outidx 4 b.ne ++ row b.inptr 4 (b.nv + 1) ++ row b.inidx 4 b.ne ++
  (if b.outw = 0 then [] else row b.outw (tagWidth b.wtag) b.ne) ++ (if b.inw = 0 then [] else row b.inw (tagWidth b.wtag) b.ne) ++
  row b.val0 b.w b.nv ++ row b.val1 b.w b.nv ++ row b.fr0 1 (bitmapSize b.nv) ++ row b.fr1 1 (bitmapSize b.nv) ++
  row b.fin 1 (bitmapSize b.nv)

/-- A graph's entries lie apart from one another, with no error mark and no taint. -/
def State.plainGraph (s : State) (b : EdgeBinding) : Prop :=
  (b.cells.Pairwise fun p q => p.1 + p.2 ≤ q.1 ∨ q.1 + q.2 ≤ p.1) ∧ s.dev.poison = [] ∧
  ∀ c ∈ b.cells, s.dev.rangeTainted c.1 c.2 = false

/-- An item of a codebook: the doublewords at `key`, rotated (R234). -/
def State.itemAt (s : State) (dim rot : Nat) (key : Nat → Nat) : Nat :=
  rotate dim rot ((List.range (dim / 64)).foldl (fun x w => x + s.dev.read (key w) 8 * 2 ^ (64 * w)) 0)

/-- One iteration of a factorisation (R218) over the items of each codebook, from the estimates given. -/
def factorPass (dim prod : Nat) (items : List (List Nat)) (est : List Nat) : Iterate :=
  items.zipIdx.foldl (fun (r : Iterate) (p : List Nat × Nat) => r.factor dim prod p.2 p.1) { est := est }

/-- HFSTAT after iteration `t`, that of `r` (R218, R219). -/
def factorStatus (prod limit t : Nat) (items : List (List Nat)) (r : Iterate) : Nat :=
  t + (!r.changed).toNat * 2 ^ 16 +
    (decide (((items.zip r.idx).map fun p => p.1.getD p.2 0).foldl (· ^^^ ·) 0 = prod)).toNat * 2 ^ 17 +
    (r.changed && decide (limit ≤ t)).toNat * 2 ^ 18 + r.tie.toNat * 2 ^ 19

/-- An instruction has left a factorisation of `f` factors at iteration `t` with the result `r`: its estimates, chosen items
and status, and nothing else changed but VSTART, which is 0 (R218). -/
def FactorLeft (d : BitVec 6) (f dim prod limit t : Nat) (items : List (List Nat)) (r : Iterate) (s u : State) : Prop :=
  KeepsX s u ∧ KeepsP s u ∧ KeepsFcsr s u ∧ TaintGained s u ∧ u.hart.vec = { s.hart.vec with vstart := 0 } ∧ KeepsTrap s u ∧
  KeepsMemory s u ∧ KeepsOutside s u ∧ KeepsUnits { s with hart := { s.hart with engine := u.hart.engine } } u ∧
  { u.hart.engine with hfidx := s.hart.engine.hfidx, hfstat := s.hart.engine.hfstat } = s.hart.engine ∧
  (∀ q, (∀ j, j < f → q ≠ estReg d j) → u.v q = s.v q) ∧
  (∀ j, j < f → (u.v (estReg d j)).tag = .hb ∧ (u.v (estReg d j)).data % 2 ^ dim = r.est.getD j 0 ∧
    (u.v (estReg d j)).data / 2 ^ dim = (s.v (estReg d j)).data / 2 ^ dim ∧
    u.hart.engine.hfidx[j]? = some (word (r.idx.getD j 0))) ∧
  (∀ j, f ≤ j → u.hart.engine.hfidx[j]? = s.hart.engine.hfidx[j]?) ∧
  u.hart.engine.hfstat.toNat = factorStatus prod limit t items r

/-! ### Memory -/

/-- Memory is in its canonical form: keys rise and no listed byte is what an unlisted one reads as. -/
abbrev State.memoryWf (s : State) : Prop := Memory.wf s.dev.mem = true

end Sys2Proof.Machine
end

