-- ==== Sys2Proof/Certificates/Slice0/Obligations.lean ====
section
/-!
DEFINITION. The statements about the machine.
-/

open Sys2Proof Sys2Proof.Machine

/-! ### Integer arithmetic -/

/-- R45, R46, R48: the register, immediate and upper-immediate forms write X[D] by the table of each rule and nothing else,
and retire in sequence. R45, R47: a shift by X[B][5:0], or by the immediate, moves every bit by that many places; zeros come
in, or copies of bit 63 on the right of an arithmetic shift. R45: clz, ctz and popc write the number of zero bits above the
highest one bit, below the lowest one bit (64 for 0), and the number of one bits. R37: li writes its 32-bit value,
sign-extended for extension 0 and zero-extended for 1, and is eight bytes long. R49, R50: products, their high halves,
quotients truncated toward zero and remainders; division by zero and the signed overflow case give the values of R50 and
never trap. -/
def Obligations.IntegerResults : Prop :=
  (∀ (s : State) (d a b : BitVec 5) (i : BitVec 15) (u : BitVec 20),
     ∀ p ∈ [(Instr.add d a b, s.x a + s.x b), (.sub d a b, s.x a - s.x b),
       (.and d a b, s.x a &&& s.x b), (.or d a b, s.x a ||| s.x b), (.xor d a b, s.x a ^^^ s.x b),
       (.andn d a b, s.x a &&& ~~~s.x b), (.orn d a b, s.x a ||| ~~~s.x b),
       (.slt d a b, if (s.x a).toInt < (s.x b).toInt then 1 else 0),
       (.sltu d a b, if (s.x a).toNat < (s.x b).toNat then 1 else 0),
       (.min d a b, if (s.x a).toInt ≤ (s.x b).toInt then s.x a else s.x b),
       (.max d a b, if (s.x a).toInt ≤ (s.x b).toInt then s.x b else s.x a),
       (.minu d a b, if (s.x a).toNat ≤ (s.x b).toNat then s.x a else s.x b),
       (.maxu d a b, if (s.x a).toNat ≤ (s.x b).toNat then s.x b else s.x a),
       (.addw d a b, ((s.x a).setWidth 32 + (s.x b).setWidth 32).signExtend 64),
       (.subw d a b, ((s.x a).setWidth 32 - (s.x b).setWidth 32).signExtend 64),
       (.sextw d a, ((s.x a).setWidth 32).signExtend 64),
       (.addi d a i, s.x a + i.signExtend 64), (.andi d a i, s.x a &&& i.signExtend 64),
       (.ori d a i, s.x a ||| i.signExtend 64), (.xori d a i, s.x a ^^^ i.signExtend 64),
       (.slti d a i, if (s.x a).toInt < i.toInt then 1 else 0),
       (.sltiu d a i, if (s.x a).toNat < (i.signExtend 64).toNat then 1 else 0),
       (.lui d u, (u ++ 0#12).signExtend 64), (.auipc d u, s.hart.pc + (u ++ 0#12).signExtend 64)],
     ∃ t, exec p.1 s = .next t ∧ WritesX d p.2 s t ∧ Sequential 4 s t) ∧
  (∀ (s : State) (d a b : BitVec 5) (n : BitVec 6),
     ∀ p ∈ [(Instr.sll d a b, false, false, (s.x b).toNat % 64), (.srl d a b, true, false, (s.x b).toNat % 64),
       (.sra d a b, true, true, (s.x b).toNat % 64), (.slli d a n, false, false, n.toNat),
       (.srli d a n, true, false, n.toNat), (.srai d a n, true, true, n.toNat)],
     ∃ t v, exec p.1 s = .next t ∧ WritesX d v s t ∧ Sequential 4 s t ∧
       ∀ j, j < 64 → v.getLsbD j =
         (if p.2.1 then (if j + p.2.2.2 < 64 then (s.x a).getLsbD (j + p.2.2.2) else p.2.2.1 && (s.x a).getLsbD 63)
          else if p.2.2.2 ≤ j then (s.x a).getLsbD (j - p.2.2.2) else false)) ∧
  (∀ (s : State) (d a : BitVec 5),
     (∃ t n, exec (.clz d a) s = .next t ∧ WritesX d (word n) s t ∧ Sequential 4 s t ∧ n ≤ 64 ∧
       (∀ j, 64 - n ≤ j → (s.x a).getLsbD j = false) ∧ (n < 64 → (s.x a).getLsbD (63 - n) = true)) ∧
     (∃ t n, exec (.ctz d a) s = .next t ∧ WritesX d (word n) s t ∧ Sequential 4 s t ∧ n ≤ 64 ∧
       (∀ j, j < n → (s.x a).getLsbD j = false) ∧ (n < 64 → (s.x a).getLsbD n = true)) ∧
     (∃ t, exec (.popc d a) s = .next t ∧ Sequential 4 s t ∧
       WritesX d (word ((List.range 64).filter fun j => (s.x a).getLsbD j).length) s t)) ∧
  (∀ (s : State) (d : BitVec 5) (e : BitVec 1) (i : BitVec 32),
     ∃ t, exec (.li d e i) s = .next t ∧ WritesX d (if e = 0 then i.signExtend 64 else i.setWidth 64) s t ∧ Sequential 8 s t) ∧
  (∀ (s : State) (d a b : BitVec 5),
     ∀ p ∈ [(Instr.mul d a b, s.x a * s.x b),
       (.mulh d a b, (((s.x a).signExtend 128 * (s.x b).signExtend 128) >>> 64).setWidth 64),
       (.mulhu d a b, (((s.x a).setWidth 128 * (s.x b).setWidth 128) >>> 64).setWidth 64),
       (.mulhsu d a b, (((s.x a).signExtend 128 * (s.x b).setWidth 128) >>> 64).setWidth 64),
       (.mulw d a b, ((s.x a).setWidth 32 * (s.x b).setWidth 32).signExtend 64),
       (.div d a b, if s.x b = 0 then BitVec.allOnes 64 else (s.x a).sdiv (s.x b)),
       (.divu d a b, if s.x b = 0 then BitVec.allOnes 64 else (s.x a).udiv (s.x b)),
       (.rem d a b, if s.x b = 0 then s.x a else (s.x a).srem (s.x b)),
       (.remu d a b, if s.x b = 0 then s.x a else (s.x a).umod (s.x b))],
     ∃ t, exec p.1 s = .next t ∧ WritesX d p.2 s t ∧ Sequential 4 s t)

/-! ### Control -/

/-- R51, R57: a branch compares X[A] and X[B] as its mnemonic says; taken, control goes to the word offset from the branch
and the loops it leaves end; not taken, the next instruction follows. It writes no register. R52, R57: jal and jalr go to
their target with the address after them in X[D]; with D = 0 they end the loops they leave, and otherwise the loops stay. The
address of jalr is read before X[D] is written (R44). R52, R386: a jalr whose target is no multiple of 4 traps MISALIGNED
with the target in TVAL, links nothing and does not retire. -/
def Obligations.ControlTransfers : Prop :=
  (∀ (s : State) (a b : BitVec 5) (o : BitVec 12),
     ∀ p ∈ [(Instr.beq a b o, decide (s.x a = s.x b)), (.bne a b o, decide (s.x a ≠ s.x b)),
       (.blt a b o, decide ((s.x a).toInt < (s.x b).toInt)), (.bge a b o, decide ((s.x b).toInt ≤ (s.x a).toInt)),
       (.bltu a b o, decide ((s.x a).toNat < (s.x b).toNat)), (.bgeu a b o, decide ((s.x b).toNat ≤ (s.x a).toNat))],
     ∃ t, exec p.1 s = .next t ∧ WritesNothing s t ∧
       (if p.2 then Transferred (s.hart.pc + o.signExtend 64 * 4) s t ∧ LoopsLeft (s.hart.pc + o.signExtend 64 * 4) s t
        else Sequential 4 s t)) ∧
  (∀ (s : State) (d a : BitVec 5) (o : BitVec 20) (i : BitVec 15),
     ∀ p ∈ [(Instr.jal d o, s.hart.pc + o.signExtend 64 * 4), (.jalr d a i, s.x a + i.signExtend 64)],
     p.2.toNat % 4 = 0 ∨ p.1 = .jal d o →
     ∃ t, exec p.1 s = .next t ∧ WritesX d (s.hart.pc + 4) s t ∧ Transferred p.2 s t ∧
       (if d = 0 then LoopsLeft p.2 s t else KeepsLoops s t)) ∧
  (∀ (s : State) (d a : BitVec 5) (i : BitVec 15), s.hart.trap.status.eip = false →
     (s.x a + i.signExtend 64).toNat % 4 ≠ 0 →
     ∃ t, exec (.jalr d a i) s = .next t ∧ KeepsX s t ∧
       Entered { cause := .misaligned, val := s.x a + i.signExtend 64 } s t ∧
       TrapInfoIs (s.x a + i.signExtend 64) 0 (word (3 * 2 ^ 16 + 4 * 2 ^ 24 + 4 * 2 ^ 28 + 2 ^ 32)) 0 t)

/-- R54, R55: LOOP takes its count from X[A] and its distance from the instruction; LOOPI takes both from its words. A
nonzero count sets begin, end and count of loop K, makes it active and goes on; the other loop keeps its registers. R54: with
a zero count the body is not entered: the loop is left inactive, the word at the body's end is read with the checks of an
instruction fetch, and control goes past that instruction, eight bytes long when its word says so. R54, R55: where the word
at the body's end cannot be read, LOOP and LOOPI with a zero count trap PAGEFAULT_FETCH at their own address with the body's
end in TVAL, and the loop registers keep their values (trap entry saves and clears LACT). R56: the loop step at an address
takes the loop with the greater begin first, loop 1 when they are equal. A loop that is active and ends there repeats while
its count is above 1, and then nothing else is stepped; else it ends, and the other loop is stepped in the same way. -/
def Obligations.HardwareLoops : Prop :=
  (∀ (s : State) (k : BitVec 1) (a : BitVec 5) (i : BitVec 15) (e c : BitVec 16),
     ∀ p ∈ [(Instr.loop k a i, 4, s.hart.pc + i.setWidth 64 * 4, s.x a),
       (.loopi k e c, 8, s.hart.pc + e.setWidth 64 * 4, c.setWidth 64)],
     p.2.2.2 ≠ 0 →
     let l := s.hart.loops
     let b := s.hart.pc + word p.2.1
     ∃ t, exec p.1 s = .next t ∧ WritesNothing s t ∧
       Sequential p.2.1 (s.setLoops (if k = 0 then { l with lb0 := b, le0 := p.2.2.1, lc0 := p.2.2.2, lact := l.lact ||| 1 }
         else { l with lb1 := b, le1 := p.2.2.1, lc1 := p.2.2.2, lact := l.lact ||| 2 })) t) ∧
  (∀ (s u : State) (k : BitVec 1) (a : BitVec 5) (i : BitVec 15) (e : BitVec 16) (w : Word32),
     ∀ p ∈ [(Instr.loop k a i, 4, s.hart.pc + i.setWidth 64 * 4, s.x a), (.loopi k e 0, 8, s.hart.pc + e.setWidth 64 * 4, 0)],
     p.2.2.2 = 0 → fetchWord s p.2.2.1.toNat = .ok (w, u) →
     let l := s.hart.loops
     let b := s.hart.pc + word p.2.1
     ∃ t, exec p.1 s = .next t ∧ WritesNothing u t ∧
       Transferred (p.2.2.1 + (if w.toNat / 16 % 8 = 7 then 8 else 4)) u t ∧
       t.hart.loops = (if k = 0 then { l with lb0 := b, le0 := p.2.2.1, lc0 := 0, lact := l.lact &&& 2 }
         else { l with lb1 := b, le1 := p.2.2.1, lc1 := 0, lact := l.lact &&& 1 })) ∧
  (∀ (s u : State) (k : BitVec 1) (a : BitVec 5) (i : BitVec 15) (e : BitVec 16) (f : Failure),
     ∀ p ∈ [(Instr.loop k a i, s.hart.pc + i.setWidth 64 * 4, s.x a), (.loopi k e 0, s.hart.pc + e.setWidth 64 * 4, 0)],
     p.2.2 = 0 → fetchWord s p.2.1.toNat = .error (f, u) → u.hart.trap.status.eip = false →
     ∃ t, exec p.1 s = .next t ∧ Entered { cause := .pageFaultFetch, val := p.2.1 } u t ∧ KeepsX u t ∧ KeepsMemory u.discard t) ∧
  (∀ (l : Loops) (a : Word),
     let ends (k : Bool) : Bool := if k then l.lact.getLsbD 1 && a == l.le1 else l.lact.getLsbD 0 && a == l.le0
     let more (k : Bool) : Prop := 1 < (if k then l.lc1 else l.lc0).toNat
     let back (k : Bool) : Word := if k then l.lb1 else l.lb0
     let repeated (k : Bool) (l : Loops) : Loops := if k then { l with lc1 := l.lc1 - 1 } else { l with lc0 := l.lc0 - 1 }
     let ended (k : Bool) (l : Loops) : Loops :=
       if k then { l with lc1 := 0, lact := l.lact &&& 1 } else { l with lc0 := 0, lact := l.lact &&& 2 }
     let i := decide (l.lb0.toNat ≤ l.lb1.toNat)
     (ends i = true → more i → l.step a = (repeated i l, some (back i))) ∧
     (ends i = true → ¬more i → ends (!i) = true → more (!i) → l.step a = (repeated (!i) (ended i l), some (back !i))) ∧
     (ends i = true → ¬more i → ends (!i) = true → ¬more (!i) → l.step a = (ended (!i) (ended i l), none)) ∧
     (ends i = true → ¬more i → ends (!i) = false → l.step a = (ended i l, none)) ∧
     (ends i = false → ends (!i) = true → more (!i) → l.step a = (repeated (!i) l, some (back !i))) ∧
     (ends i = false → ends (!i) = true → ¬more (!i) → l.step a = (ended (!i) l, none)) ∧
     (ends i = false → ends (!i) = false → l.step a = (l, none)))

/-! ### Scalar memory -/

/-- R88, R91, R92: finding where an access lies changes nothing but the hart's cached translations and bit A, for a store or
an atomic also bit D, of the leaf entry that its walk uses. -/
def Obligations.TranslationFrame : Prop :=
  ∀ (s u : State) (va n : Nat) (acc : Acc) (pl : Place), s.memoryWf → s.locate va n acc = .ok (pl, u) →
    u = { s with hart := { s.hart with tlb := u.hart.tlb }, dev := { s.dev with mem := u.dev.mem } } ∧
    (if inWindow va ∨ (cached s.hart.tlb va acc).isSome then u = s
     else ∃ pa e l, walk s.dev s.hart.root va = .leaf pa e l ∧
       u.dev.read (deviceKey pa) 8 = s.dev.read (deviceKey pa) 8 ||| 2 ^ 7 ||| (if acc.writes then 2 ^ 8 else 0) ∧
       ∀ k, k < deviceKey pa ∨ deviceKey pa + 8 ≤ k → Memory.read u.dev.mem k = Memory.read s.dev.mem k)

/-- R61, R62, R65, R323: a scalar load that passes its checks writes the little-endian value at its address, sign- or
zero-extended, to X[D] and nothing else; every byte reads as before. The value is what the hart's scalar loads see there, or
what the load's access read there when it was performed ahead of older accesses. R61, R62, R322: a scalar store that passes
its checks gives the low bytes of X[D] to the bytes at its address, as the hart's own later loads see them, and to no other
byte for any reader; it writes no register. It disturbs no other store: the write-combining buffer holds no entry for those
bytes (an older one drains at that moment), and an eager core has nothing posted before it or waiting under DETM.ARB; what
happens to those is left out here. -/
def Obligations.ScalarMemory : Prop :=
  (∀ (s u : State) (d a : BitVec 5) (i : BitVec 15) (pl : Place),
     ∀ p ∈ [(Instr.lb d a i, 1, fun k => (BitVec.ofNat 8 k).signExtend 64), (.lh d a i, 2, fun k => (BitVec.ofNat 16 k).signExtend 64),
       (.lw d a i, 4, fun k => (BitVec.ofNat 32 k).signExtend 64), (.ld d a i, 8, fun k => BitVec.ofNat 64 k),
       (.lbu d a i, 1, fun k => (BitVec.ofNat 8 k).setWidth 64), (.lhu d a i, 2, fun k => (BitVec.ofNat 16 k).setWidth 64),
       (.lwu d a i, 4, fun k => (BitVec.ofNat 32 k).setWidth 64)],
     let va := s.x a + i.signExtend 64
     Reaches s va p.2.1 .load pl u → (u.windowOf pl).any Window.isCut = false →
     let r := u.arrived pl
     r.watchHit va.toNat p.2.1 .load = none → ∀ k tainted, r.seen false 0 pl.key p.2.1 = some (k, tainted) →
     ∃ t, exec p.1 s = .next t ∧ Sequential 4 r t ∧ t.x d = (if d = 0 then 0 else p.2.2 k) ∧ KeepsXBut d r t ∧
       KeepsRegisters r t ∧ t.hart.streams = r.hart.streams ∧ KeepsMemory r t ∧ KeepsDevice r t ∧ t.parked = r.parked ∧
       t.hart.taint = (if tainted then { r.hart.taint with read := true, escape := true } else r.hart.taint)) ∧
  (∀ (s u : State) (d a : BitVec 5) (i : BitVec 15) (pl : Place),
     ∀ p ∈ [(Instr.sb d a i, 1), (.sh d a i, 2), (.sw d a i, 4), (.sd d a i, 8)],
     let va := s.x a + i.signExtend 64
     s.memoryWf → Reaches s va p.2 .store pl u → u.watchHit va.toNat p.2 .store = none →
     (u.windowOf pl).any Window.isCut = false → (s.hart.prov.isSome = true → pl.cls = .device ∨ pl.cls = .scratch) →
     u.storesAlone pl p.2 →
     ∃ t, exec p.1 s = .next t ∧ Sequential 4 u t ∧ KeepsX u t ∧ KeepsRegisters u t ∧ t.hart.taint = u.hart.taint ∧
       (pl.cls ≠ .scratch → t.hart.streams = u.hart.streams ∧ t.parked = u.parked) ∧
       KeepsDevice { u with dev := { u.dev with windows := if pl.cls = .remote then t.dev.windows else u.dev.windows } } t ∧
       (∀ j, j < p.2 → t.viewByte u.hart.ident.uid .scalar (pl.key + j) = BitVec.ofNat 8 ((s.x d).toNat / 2 ^ (8 * j))) ∧
       KeepsMemoryBut pl.key p.2 u t)

/-- R62 step 1: a scalar load, store or atomic whose address is no multiple of its size traps MISALIGNED at once with the
address in TVAL and the frame of R87, and moves nothing; what the hart has issued ahead is discarded (R85). -/
def Obligations.ScalarMisaligned : Prop :=
  ∀ (s : State) (d a b : BitVec 5) (i : BitVec 15) (z : BitVec 1) (o : BitVec 2) (sc : BitVec 3),
    s.hart.trap.status.eip = false → s.hart.detm.atom = false →
    let n := if z = 0 then 4 else 8
    ∀ p ∈ [(Instr.lh d a i, s.x a + i.signExtend 64, 2, 0), (.lhu d a i, s.x a + i.signExtend 64, 2, 0),
      (.lw d a i, s.x a + i.signExtend 64, 4, 0), (.lwu d a i, s.x a + i.signExtend 64, 4, 0),
      (.ld d a i, s.x a + i.signExtend 64, 8, 0), (.sh d a i, s.x a + i.signExtend 64, 2, 1),
      (.sw d a i, s.x a + i.signExtend 64, 4, 1), (.sd d a i, s.x a + i.signExtend 64, 8, 1)]
      ++ [(Instr.amoswap d a b z o sc, s.x a, n, 2), (.amoadd d a b z o sc, s.x a, n, 2), (.amoand d a b z o sc, s.x a, n, 2),
      (.amoor d a b z o sc, s.x a, n, 2), (.amoxor d a b z o sc, s.x a, n, 2), (.amomin d a b z o sc, s.x a, n, 2),
      (.amomax d a b z o sc, s.x a, n, 2), (.amominu d a b z o sc, s.x a, n, 2), (.amomaxu d a b z o sc, s.x a, n, 2),
      (.amocas d a b z o sc, s.x a, n, 2)],
    s.held p.2.1.toNat p.2.2.1 = false → p.2.1.toNat % p.2.2.1 ≠ 0 →
    ∃ t, exec p.1 s = .next t ∧ Entered { cause := .misaligned, val := p.2.1 } s t ∧
      TrapInfoIs p.2.1 0 (word (p.2.2.2 * 2 ^ 16 + p.2.2.1 * 2 ^ 24 + 2 ^ 32)) 0 t ∧ KeepsX s t ∧ KeepsMemory s.discard t ∧
      KeepsOutside s.discard t

/-- R66, R67, R68, R325: an atomic that passes its checks returns the old value, extended from 32 bits in the word form, and
puts the new value of its table in its place, at the coherence point; a failed cas writes nothing. Before it the entries that
overlap it drain, and a release performs the hart's earlier scalar accesses; everything else stays. R325: amoswap with D = 0
and order relaxed or release performs as a store: no register is written, the bytes at its address are those of X[B] for the
hart's own later loads, and every other byte reads as it did after the release part. -/
def Obligations.ScalarAtomics : Prop :=
  (∀ (s u : State) (d a b : BitVec 5) (z : BitVec 1) (o : BitVec 2) (sc : BitVec 3) (pl : Place),
     let n := if z = 0 then 4 else 8
     let m := (s.x b).toNat % 2 ^ (8 * n)
     ∀ p ∈ [(Instr.amoswap d a b z o sc, AmoOp.swap, fun _ => m), (.amoadd d a b z o sc, .add, fun k => (k + m) % 2 ^ (8 * n)),
       (.amoand d a b z o sc, .and, fun k => k &&& m), (.amoor d a b z o sc, .or, fun k => k ||| m),
       (.amoxor d a b z o sc, .xor, fun k => k ^^^ m),
       (.amomin d a b z o sc, .min, fun k => if signed (8 * n) k ≤ signed (8 * n) m then k else m),
       (.amomax d a b z o sc, .max, fun k => if signed (8 * n) m ≤ signed (8 * n) k then k else m),
       (.amominu d a b z o sc, .minu, fun k => if k ≤ m then k else m),
       (.amomaxu d a b z o sc, .maxu, fun k => if m ≤ k then k else m),
       (.amocas d a b z o sc, .cas, fun k => if k = (s.x d).toNat % 2 ^ (8 * n) then m else k)],
     s.memoryWf → ¬(s.hart.detm.atom = true ∧ d ≠ 0) → ¬(p.2.1 = .swap ∧ d = 0 ∧ (o = 0 ∨ o = 2)) →
     Reaches s (s.x a) n .atomic pl u → amoAllowed p.2.1 (scopeOf sc) s.dev.hostAtomics pl.cls = true →
     (u.windowOf pl).any Window.isCut = false →
     let q := u.settle pl n
     q.viewPoison q.hart.ident.uid .scalar pl.key n = none → q.watchHit (s.x a).toNat n .atomic = none →
     (o = 2 ∨ o = 3 → q.postsHeld (scopeOf sc) = false) →
     let old := q.dev.read pl.key n
     let r := if (o = 2 ∨ o = 3) ∧ ¬(p.2.1 = .cas ∧ old ≠ (s.x d).toNat % 2 ^ (8 * n)) then q.release (scopeOf sc) else q
     ∃ t, exec p.1 s = .next t ∧ Sequential 4 r t ∧
       t.x d = (if d = 0 then 0 else if n = 4 then (BitVec.ofNat 32 old).signExtend 64 else BitVec.ofNat 64 old) ∧
       KeepsXBut d s t ∧ KeepsRegisters s t ∧
       (r.gang.replay ≠ 1 →
         (∀ j, j < n → Memory.read t.dev.mem (pl.key + j) = BitVec.ofNat 8 (p.2.2 old / 2 ^ (8 * j))) ∧
         (∀ k, k < pl.key ∨ pl.key + n ≤ k → Memory.read t.dev.mem k = Memory.read r.dev.mem k)) ∧
       (d ≠ 0 → t.hart.taint.atom = true)) ∧
  (∀ (s u : State) (a b : BitVec 5) (z : BitVec 1) (sc : BitVec 3) (pl : Place),
     let n := if z = 0 then 4 else 8
     s.memoryWf → Reaches s (s.x a) n .atomic pl u → amoAllowed .swap (scopeOf sc) s.dev.hostAtomics pl.cls = true →
     (u.windowOf pl).any Window.isCut = false → u.viewPoison u.hart.ident.uid .scalar pl.key n = none →
     u.watchHit (s.x a).toNat n .atomic = none →
     ∀ o ∈ [0, 2], (o = 2 → u.postsHeld (scopeOf sc) = false) →
       let r := if o = 2 then u.release (scopeOf sc) else u
       r.storesAlone pl n →
       ∃ t, exec (.amoswap 0 a b z o sc) s = .next t ∧ Sequential 4 r t ∧ KeepsX s t ∧ KeepsRegisters s t ∧
         t.hart.taint = r.hart.taint ∧
         (∀ j, j < n → t.viewByte s.hart.ident.uid .scalar (pl.key + j) = BitVec.ofNat 8 ((s.x b).toNat / 2 ^ (8 * j))) ∧
         KeepsMemoryBut pl.key n r t)

/-! ### Scalar floating point -/

/-- R70, R71: a scalar floating-point instruction writes X[D] and adds to the flags of FCSR; its rounding mode, every other
register and memory stay, it never traps, and an F32 result has bits [63:32] zero. R71, R73: the sign injections give the
magnitude of a with the sign of b, its inverse or the exclusive or of the two signs, whatever the bits mean, and set no flag.
That they keep the payload of a NaN, where R72 makes a NaN result canonical, is the model's choice (log 103). R73: fclass
writes the one bit of the class of a, and sets no flag. R72, R73, R74: an arithmetic instruction with a NaN source writes the
canonical NaN of its size, and NV is set when a source is a signalling NaN; so do minimum and maximum of two NaNs. -/
def Obligations.FloatingPoint : Prop :=
  (∀ (s : State) (d a b c : BitVec 5),
     ∀ i ∈ [Instr.faddS d a b, .fsubS d a b, .fmulS d a b, .fdivS d a b, .fsqrtS d a, .fminS d a b, .fmaxS d a b,
       .fsgnjS d a b, .fsgnjnS d a b, .fsgnjxS d a b, .fmaddS d a b c, .fmsubS d a b c, .fnmaddS d a b c, .fnmsubS d a b c,
       .fcvtsw d a, .fcvtswu d a, .fcvtsl d a, .fcvtslu d a, .fcvtsd d a, .faddD d a b, .fsubD d a b, .fmulD d a b,
       .fdivD d a b, .fsqrtD d a, .fminD d a b, .fmaxD d a b, .fsgnjD d a b, .fsgnjnD d a b, .fsgnjxD d a b, .fmaddD d a b c,
       .fmsubD d a b c, .fnmaddD d a b c, .fnmsubD d a b c, .fcvtdw d a, .fcvtdwu d a, .fcvtdl d a, .fcvtdlu d a, .fcvtds d a,
       .feqS d a b, .fltS d a b, .fleS d a b, .fclassS d a, .feqD d a b, .fltD d a b, .fleD d a b, .fclassD d a,
       .fcvtws d a, .fcvtwus d a, .fcvtls d a, .fcvtlus d a, .fcvtwd d a, .fcvtwud d a, .fcvtld d a, .fcvtlud d a],
     ∃ t, exec i s = .next t ∧ KeepsXBut d s t ∧ t.hart.fcsr.rm = s.hart.fcsr.rm ∧
       s.hart.fcsr.flags &&& t.hart.fcsr.flags = s.hart.fcsr.flags ∧ KeepsV s t ∧ KeepsP s t ∧ KeepsVec s t ∧
       KeepsRest s t ∧ KeepsMemory s t ∧ KeepsOutside s t ∧ Sequential 4 s t ∧
       (i ∈ [Instr.faddS d a b, .fsubS d a b, .fmulS d a b, .fdivS d a b, .fsqrtS d a, .fminS d a b, .fmaxS d a b,
         .fsgnjS d a b, .fsgnjnS d a b, .fsgnjxS d a b, .fmaddS d a b c, .fmsubS d a b c, .fnmaddS d a b c, .fnmsubS d a b c,
         .fcvtsw d a, .fcvtswu d a, .fcvtsl d a, .fcvtslu d a, .fcvtsd d a] → (t.x d).toNat < 2 ^ 32)) ∧
  (∀ (s : State) (d a b : BitVec 5), d ≠ 0 →
     ∀ p ∈ [(Instr.fsgnjS d a b, 31, fun (_ y : Bool) => y), (.fsgnjnS d a b, 31, fun _ y => !y), (.fsgnjxS d a b, 31, fun x y => x ^^ y),
       (.fsgnjD d a b, 63, fun _ y => y), (.fsgnjnD d a b, 63, fun _ y => !y), (.fsgnjxD d a b, 63, fun x y => x ^^ y)],
     ∃ t, exec p.1 s = .next t ∧ KeepsFcsr s t ∧ ∀ j, j < 64 → (t.x d).getLsbD j =
       (if j < p.2.1 then (s.x a).getLsbD j
        else if j = p.2.1 then p.2.2 ((s.x a).getLsbD p.2.1) ((s.x b).getLsbD p.2.1) else false)) ∧
  (∀ (s : State) (d a : BitVec 5), d ≠ 0 →
     ∀ p ∈ [(Instr.fclassS d a, 8, 23), (.fclassD d a, 11, 52)],
     let w := 1 + p.2.1 + p.2.2
     let k := (s.x a).toNat % 2 ^ w
     let neg := decide (2 ^ (w - 1) ≤ k)
     let m := k % 2 ^ (w - 1)
     let inf := (2 ^ p.2.1 - 1) * 2 ^ p.2.2
     ∃ t, exec p.1 s = .next t ∧ KeepsFcsr s t ∧ t.x d = word (2 ^ (
       if m = 0 then (if neg then 3 else 4)
       else if m < 2 ^ p.2.2 then (if neg then 2 else 5)
       else if m < inf then (if neg then 1 else 6)
       else if m = inf then (if neg then 0 else 7)
       else if m < inf + 2 ^ (p.2.2 - 1) then 8 else 9))) ∧
  (∀ (s : State) (d a b c : BitVec 5), d ≠ 0 →
     let f (r : BitVec 5) := fmtF32.decode ((s.x r).toNat % 2 ^ 32)
     let g (r : BitVec 5) := fmtF64.decode (s.x r).toNat
     ∀ p ∈ [(Instr.faddS d a b, [f a, f b], false), (.fsubS d a b, [f a, f b], false), (.fmulS d a b, [f a, f b], false),
       (.fdivS d a b, [f a, f b], false), (.fsqrtS d a, [f a], false), (.fmaddS d a b c, [f a, f b, f c], false),
       (.fmsubS d a b c, [f a, f b, f c], false), (.fnmaddS d a b c, [f a, f b, f c], false),
       (.fnmsubS d a b c, [f a, f b, f c], false), (.fcvtsd d a, [g a], false), (.faddD d a b, [g a, g b], true),
       (.fsubD d a b, [g a, g b], true), (.fmulD d a b, [g a, g b], true), (.fdivD d a b, [g a, g b], true),
       (.fsqrtD d a, [g a], true), (.fmaddD d a b c, [g a, g b, g c], true), (.fmsubD d a b c, [g a, g b, g c], true),
       (.fnmaddD d a b c, [g a, g b, g c], true), (.fnmsubD d a b c, [g a, g b, g c], true), (.fcvtds d a, [f a], true)],
     (p.2.1.any Fv.isNan = true →
       ∃ t, exec p.1 s = .next t ∧ t.x d = (if p.2.2 then 0x7FF8000000000000 else 0x7FC00000) ∧
         (p.2.1.any Fv.isSnan = true → t.hart.fcsr.flags.getLsbD 4 = true)) ∧
     ∀ q ∈ [(Instr.fminS d a b, f a, f b, false), (.fmaxS d a b, f a, f b, false), (.fminD d a b, g a, g b, true),
       (.fmaxD d a b, g a, g b, true)],
       q.2.1.isNan = true → q.2.2.1.isNan = true →
       ∃ t, exec q.1 s = .next t ∧ t.x d = (if q.2.2.2 then 0x7FF8000000000000 else 0x7FC00000) ∧
         (q.2.1.isSnan = true ∨ q.2.2.1.isSnan = true → t.hart.fcsr.flags.getLsbD 4 = true))

/-- R73: the comparisons write 1 or 0. A NaN compares unequal and not less; of two numbers exactly one of a < b, a = b and b
< a holds, and a ≤ b is a < b or a = b. feq sets NV for a signalling NaN alone, flt and fle for any NaN. R75: a conversion to
an integer rounds under FCSR.RM, to the nearest integer with ties to even under RNE and away from zero under RNA. A NaN (the
upper end), an infinity or a rounded value outside the range gives the end of the range with NV; otherwise the rounded value
results, NX telling whether it differs from the source; w and wu results are sext32. -/
def Obligations.FloatComparisons : Prop :=
  (∀ (s : State) (d a b : BitVec 5), d ≠ 0 →
     ∀ p ∈ [(Instr.feqS d a b, Instr.fltS d a b, Instr.fltS d b a, Instr.fleS d a b,
         fmtF32.decode ((s.x a).toNat % 2 ^ 32), fmtF32.decode ((s.x b).toNat % 2 ^ 32)),
       (.feqD d a b, .fltD d a b, .fltD d b a, .fleD d a b, fmtF64.decode (s.x a).toNat, fmtF64.decode (s.x b).toNat)],
     ∃ t u v w, exec p.1 s = .next t ∧ exec p.2.1 s = .next u ∧ exec p.2.2.1 s = .next v ∧ exec p.2.2.2.1 s = .next w ∧
       (if p.2.2.2.2.1.isNan ∨ p.2.2.2.2.2.isNan then t.x d = 0 ∧ u.x d = 0 ∧ v.x d = 0 ∧ w.x d = 0
        else ((t.x d = 1 ∧ u.x d = 0 ∧ v.x d = 0) ∨ (t.x d = 0 ∧ u.x d = 1 ∧ v.x d = 0) ∨ (t.x d = 0 ∧ u.x d = 0 ∧ v.x d = 1)) ∧
          w.x d = t.x d + u.x d) ∧
       t.hart.fcsr.flags = s.hart.fcsr.flags ||| (if p.2.2.2.2.1.isSnan ∨ p.2.2.2.2.2.isSnan then 16 else 0) ∧
       u.hart.fcsr.flags = s.hart.fcsr.flags ||| (if p.2.2.2.2.1.isNan ∨ p.2.2.2.2.2.isNan then 16 else 0) ∧
       w.hart.fcsr.flags = s.hart.fcsr.flags ||| (if p.2.2.2.2.1.isNan ∨ p.2.2.2.2.2.isNan then 16 else 0)) ∧
  (∀ (s : State) (d a : BitVec 5), d ≠ 0 →
     let f := fmtF32.decode ((s.x a).toNat % 2 ^ 32)
     let g := fmtF64.decode (s.x a).toNat
     ∀ p ∈ [(Instr.fcvtws d a, f, (-2 ^ 31 : Int), 2 ^ 31 - 1, true), (.fcvtwus d a, f, (0 : Int), 2 ^ 32 - 1, true),
       (.fcvtls d a, f, -2 ^ 63, 2 ^ 63 - 1, false), (.fcvtlus d a, f, 0, 2 ^ 64 - 1, false),
       (.fcvtwd d a, g, -2 ^ 31, 2 ^ 31 - 1, true), (.fcvtwud d a, g, 0, 2 ^ 32 - 1, true),
       (.fcvtld d a, g, -2 ^ 63, 2 ^ 63 - 1, false), (.fcvtlud d a, g, 0, 2 ^ 64 - 1, false)],
     ∃ t z fl, exec p.1 s = .next t ∧ t.hart.fcsr.flags = s.hart.fcsr.flags ||| fl ∧
       t.x d = (if p.2.2.2.2 then (BitVec.ofInt 32 z).signExtend 64 else BitVec.ofInt 64 z) ∧
       p.2.2.1 ≤ z ∧ z ≤ p.2.2.2.1 ∧
       (match p.2.1 with
        | .nan _ => z = p.2.2.2.1 ∧ fl = 16
        | .inf n => z = (if n then p.2.2.1 else p.2.2.2.1) ∧ fl = 16
        | .fin n m e =>
          let x : Int := (if n then -1 else 1) * (m * 2 ^ (e + 1100).toNat : Nat)
          ∃ r, RoundsInt s.hart.fcsr.rm (2 ^ 1100) x r ∧
            (if r < p.2.2.1 then z = p.2.2.1 ∧ fl = 16 else if p.2.2.2.1 < r then z = p.2.2.2.1 ∧ fl = 16
             else z = r ∧ fl = (if x = r * 2 ^ 1100 then 0 else 1))))

/-- R70, R71, R73, R74, R75: the sum, difference, product, quotient or fused product of numbers, a conversion from an integer
and one between the formats are rounded once under FCSR.RM: to the nearest number of the format, a tie to the even one under
RNE and away from zero under RNA; to the greatest number not above under RDN, the least not below under RUP, the nearest not
beyond in magnitude under RTZ. The result is a number unless the exact result lies beyond what the mode rounds to one, and
then an infinity. A square root is rounded so too. NX is added exactly when the result differs from the exact one. Values are
compared as multiples of 2^−2200. -/
def Obligations.CorrectRounding : Prop :=
  ∀ (s : State) (d a b c : BitVec 5), d ≠ 0 →
    let f (r : BitVec 5) := (fmtF32.decode ((s.x r).toNat % 2 ^ 32)).scaled 2200
    let g (r : BitVec 5) := (fmtF64.decode (s.x r).toNat).scaled 2200
    let fma (h : BitVec 5 → Option Int) (n m : Int) :=
      (h a).bind fun x => (h b).bind fun y => (h c).map fun z => n * (x * y / 2 ^ 2200) + m * z
    let w := (s.x a).setWidth 32
    let whole (z : Option Int) := z.map fun z => (z, 1)
    let ratio (h : BitVec 5 → Option Int) :=
      (h a).bind fun x => (h b).bind fun y => if y = 0 then none else some (x * y.sign * 2 ^ 2200, y.natAbs)
    let nx (f : Fmt) (t : State) (x : Int) (g : Int → Int) : Prop :=
      t.hart.fcsr.flags.getLsbD 0 =
        (s.hart.fcsr.flags.getLsbD 0 || decide (((f.decode (t.x d).toNat).scaled 2200).map g ≠ some x))
    (∀ p ∈ [(Instr.faddS d a b, fmtF32, whole ((f a).bind fun x => (f b).map fun y => x + y)),
      (.fsubS d a b, fmtF32, whole ((f a).bind fun x => (f b).map fun y => x - y)),
      (.faddD d a b, fmtF64, whole ((g a).bind fun x => (g b).map fun y => x + y)),
      (.fsubD d a b, fmtF64, whole ((g a).bind fun x => (g b).map fun y => x - y)),
      (.fmulS d a b, fmtF32, whole ((f a).bind fun x => (f b).map fun y => x * y / 2 ^ 2200)),
      (.fmulD d a b, fmtF64, whole ((g a).bind fun x => (g b).map fun y => x * y / 2 ^ 2200)),
      (.fdivS d a b, fmtF32, ratio f), (.fdivD d a b, fmtF64, ratio g),
      (.fmaddS d a b c, fmtF32, whole (fma f 1 1)), (.fmsubS d a b c, fmtF32, whole (fma f 1 (-1))),
      (.fnmaddS d a b c, fmtF32, whole (fma f (-1) (-1))), (.fnmsubS d a b c, fmtF32, whole (fma f (-1) 1)),
      (.fmaddD d a b c, fmtF64, whole (fma g 1 1)), (.fmsubD d a b c, fmtF64, whole (fma g 1 (-1))),
      (.fnmaddD d a b c, fmtF64, whole (fma g (-1) (-1))), (.fnmsubD d a b c, fmtF64, whole (fma g (-1) 1)),
      (.fcvtsw d a, fmtF32, whole (some (w.toInt * 2 ^ 2200))), (.fcvtswu d a, fmtF32, whole (some (w.toNat * 2 ^ 2200))),
      (.fcvtsl d a, fmtF32, whole (some ((s.x a).toInt * 2 ^ 2200))), (.fcvtslu d a, fmtF32, whole (some ((s.x a).toNat * 2 ^ 2200))),
      (.fcvtdw d a, fmtF64, whole (some (w.toInt * 2 ^ 2200))), (.fcvtdwu d a, fmtF64, whole (some (w.toNat * 2 ^ 2200))),
      (.fcvtdl d a, fmtF64, whole (some ((s.x a).toInt * 2 ^ 2200))), (.fcvtdlu d a, fmtF64, whole (some ((s.x a).toNat * 2 ^ 2200))),
      (.fcvtsd d a, fmtF32, whole (g a)), (.fcvtds d a, fmtF64, whole (f a))],
      ∀ z q, p.2.2 = some (z, q) → ∃ t, exec p.1 s = .next t ∧ p.2.1.RoundsTo s.hart.fcsr.rm z q (t.x d).toNat ∧
        nx p.2.1 t z fun r => r * q) ∧
    ∀ p ∈ [(Instr.fsqrtS d a, fmtF32, f a), (.fsqrtD d a, fmtF64, g a)],
      ∀ x, p.2.2 = some x → 0 ≤ x → ∃ t, exec p.1 s = .next t ∧ p.2.1.RootOf s.hart.fcsr.rm x (t.x d).toNat ∧
        nx p.2.1 t (x * 2 ^ 2200) fun r => r ^ 2

/-! ### Control and status registers -/

/-- R41: every CSR number, its access in U and in S; every number that the table does not assign has none. R42: a CSR
instruction that its table allows writes the old value to X[D], read before the write, and the register takes the new value:
the source, or the old value with the source's bits set or cleared. csrrs and csrrc with A = 0 and their immediate forms with
0 write nothing. R38, R41, R42, R80: a CSR instruction traps ILLEGAL, with its word in TVAL and nothing written, when the
number is not accessible at the privilege, when it would write a read-only register, and when the new value is not allowed. -/
def Obligations.CsrAccess : Prop :=
  (∀ c, c < 4096 →
     (csrAccess .u c = .rw ↔ c ∈ [0x001, 0x011, 0x012, 0x013, 0x014, 0x017, 0x019, 0x020, 0x021, 0x022, 0x023, 0x024, 0x025,
       0x026, 0x030, 0x031, 0x032, 0x033, 0x034, 0x035, 0x036, 0x037]) ∧
     (csrAccess .u c = .ro ↔ c ∈ [0x010, 0x015, 0x016, 0x018, 0xC00, 0xC01, 0xF10, 0xF11, 0xF12]) ∧
     (csrAccess .s c = .rw ↔ csrAccess .u c = .rw ∨ c ∈ [0x140, 0x141, 0x142, 0x143, 0x144, 0x145, 0x146, 0x147, 0x148, 0x149, 0x14A]) ∧
     (csrAccess .s c = .ro ↔ csrAccess .u c = .ro ∨ c ∈ [0x100, 0x101, 0x102])) ∧
  (∀ (s u : State) (d a : BitVec 5) (c : BitVec 12),
     let old := csrRead s c.toNat
     ∀ p ∈ [(Instr.csrrw d a c, true, s.x a), (.csrrs d a c, a != 0, old ||| s.x a), (.csrrc d a c, a != 0, old &&& ~~~s.x a),
       (.csrrwi d a c, true, a.setWidth 64), (.csrrsi d a c, a != 0, old ||| a.setWidth 64),
       (.csrrci d a c, a != 0, old &&& ~~~(a.setWidth 64))],
     (csrAccess s.hart.priv c.toNat = .rw ∨ (csrAccess s.hart.priv c.toNat = .ro ∧ p.2.1 = false)) →
     (if p.2.1 then csrWrite s c.toNat p.2.2 = some u else u = s) →
     ∃ t, exec p.1 s = .next t ∧ t.x d = (if d = 0 then 0 else old) ∧ KeepsXBut d u t ∧ KeepsV u t ∧ KeepsP u t ∧ KeepsFcsr u t ∧
       KeepsVec u t ∧ KeepsTaint u t ∧ KeepsUnits u t ∧ KeepsMemory u t ∧ KeepsOutside u t ∧ Sequential 4 u t ∧
       KeepsTrap u t) ∧
  (∀ (s : State) (d a : BitVec 5) (c : BitVec 12), s.hart.trap.status.eip = false →
     let old := csrRead s c.toNat
     ∀ p ∈ [(Instr.csrrw d a c, 0, true, s.x a), (.csrrs d a c, 1, a != 0, old ||| s.x a), (.csrrc d a c, 2, a != 0, old &&& ~~~s.x a),
       (.csrrwi d a c, 4, true, a.setWidth 64), (.csrrsi d a c, 5, a != 0, old ||| a.setWidth 64),
       (.csrrci d a c, 6, a != 0, old &&& ~~~(a.setWidth 64))],
     (csrAccess s.hart.priv c.toNat = .none ∨ (p.2.2.1 = true ∧ csrAccess s.hart.priv c.toNat = .ro) ∨
       (p.2.2.1 = true ∧ csrAccess s.hart.priv c.toNat = .rw ∧ csrWrite s c.toNat p.2.2.2 = none)) →
     ∃ t, exec p.1 s = .next t ∧ TrapKeeps s t ∧ TrapInfoIs 0 0 0 0 t ∧
       KeepsOutside s.discard t ∧ Entered { cause := .illegal, val := word (0x1F + d.toNat * 2 ^ 7 + a.toNat * 2 ^ 12 + c.toNat * 2 ^ 17 + p.2.1 * 2 ^ 29) } s t)

/-- R41, R42, R53, R70, R78, R112, R126, R147, R224, R340: what a CSR holds after a write, as a read returns it; every other
CSR and register keeps its value, but for what LPART clears when MVL changes. R42, R70, R126, R203, R224: the values that a
write refuses: FCSR.RM and VTYPE.RM 5 to 7, VTYPE.FZ 3, VTYPE.ETAG 19 to 31, LPART 3, and an HDIM that is 0, no multiple of
64 or above 65,536; every other value is taken by every register that is read-write in S, and no other number takes any. -/
def Obligations.CsrReadBack : Prop :=
  (∀ (s u : State) (c : Nat) (v : Word), csrWrite s c v = some u →
     ∀ p ∈ [(0x001, v &&& 0xFF#64), (0x011, v &&& 0xFFFF#64), (0x012, v &&& 0x7F1EFF#64), (0x013, v &&& 0xF#64),
       (0x014, v &&& 0x1FFFF#64), (0x017, v &&& 3#64), (0x019, v &&& 0x3F#64), (0x020, v &&& ~~~3#64), (0x021, v &&& ~~~3#64),
       (0x022, v), (0x023, v &&& ~~~3#64), (0x024, v &&& ~~~3#64), (0x025, v), (0x026, v &&& 3#64),
       (0x030, v &&& 0xFFFFFFFFFFFF#64), (0x031, v &&& 0xFFF#64), (0x032, v &&& 0xFFF#64), (0x033, v &&& 0xFFF#64),
       (0x034, v &&& 0xFFF#64), (0x035, v &&& 0xFFFFF#64), (0x036, v &&& 3#64), (0x037, v &&& ~~~0xFC#64), (0x140, v &&& 0xFF#64),
       (0x141, v &&& ~~~3#64), (0x142, v), (0x143, v &&& 0xFFFF#64), (0x144, v), (0x145, v), (0x146, v &&& ~~~0xFFFF#64),
       (0x147, v), (0x148, v &&& ~~~3#64), (0x149, v),
       (0x14A, (v &&& 0xFFFFFFFF0000007F#64) ||| (csrRead s 0x14A &&& 0x700#64))],
     (p.1 = c → csrRead u c = p.2) ∧
     (c ≠ 0x017 → (∀ k, k ≠ c → csrRead u k = csrRead s k) ∧ KeepsX s u ∧ KeepsV s u ∧ KeepsP s u ∧ KeepsOutside s u)) ∧
  (∀ (s : State) (c : Nat) (v : Word),
     csrWrite s c v = none ↔ csrAccess .s c ≠ .rw ∨ (c = 0x001 ∧ 5 ≤ v.toNat / 2 ^ 5 % 8) ∨
       (c = 0x012 ∧ (19 ≤ v.toNat % 32 ∨ 5 ≤ v.toNat / 2 ^ 5 % 8 ∨ v.toNat / 2 ^ 9 % 4 = 3)) ∨
       (c = 0x014 ∧ (v.toNat % 2 ^ 17 % 64 ≠ 0 ∨ v.toNat % 2 ^ 17 = 0 ∨ 65536 < v.toNat % 2 ^ 17)) ∨
       (c = 0x017 ∧ v.toNat % 4 = 3))

/-! ### Traps and privilege -/

/-- R81, R85: a synchronous trap outside a handler makes the changes of trap entry and discards what has issued beyond: no
register of the program, no other vector control or bit of TSTATUS, no unit and no byte of memory changes. R81, R85, R97:
ecall and ebreak trap at their own address with TVAL and TINFO0 to TINFO3 zero. They do not retire; no register of the
program, no unit and no byte of memory changes, and what the hart has issued ahead is discarded. In U, ecall with service 0
in x17 also ends the hart's part of the kernel: that it does so at the call, before its handler runs, is the model's choice
(log 47). R82: a trap while EIP is set stops the hart with its registers as they stand, is recorded in the black box with the
hart's number, TCAUSE, TPC and the new cause, and lists the gang for completion with error 0x04. -/
def Obligations.TrapEntry : Prop :=
  (∀ (s : State) (tr : Trap), s.hart.trap.status.eip = false →
     let t := s.takeTrap tr
     Entered tr s t ∧ TrapKeeps s t ∧ t.core = s.discard.core ∧ t.hart.ahead = none ∧ t.parked = s.parked) ∧
  (∀ (s : State), s.hart.trap.status.eip = false → s.hart.status = .running →
     ∀ p ∈ [(Instr.ecall, Cause.ecall), (.ebreak, .ebreak)],
     ∃ t, exec p.1 s = .next t ∧ Entered { cause := p.2 } s t ∧ TrapInfoIs 0 0 0 0 t ∧ TrapKeeps s t ∧ KeepsOutside s.discard t ∧
       t.hart.status = (if p.1 = .ecall ∧ s.hart.priv = .u ∧ s.x 17 = 0 then .ended else .running)) ∧
  (∀ (s : State), s.hart.trap.status.eip = true →
     ∀ p ∈ [(Instr.ecall, 0x0D), (.ebreak, 0x0E)],
     ∃ t, exec p.1 s = .next t ∧ t.hart = { s.hart with status := .stopped, fetchPin := none, ahead := none } ∧
       t.dev.blackBox.head?.map Prod.snd = some (.doubleTrap s.hart.ident.uid s.hart.trap.cause s.hart.trap.tpc p.2) ∧
       t.dev.failing = s.dev.failing ++ [(s.hart.ident.gang, 4, s.hart.ident.lhart, p.2)] ∧ KeepsMemory s.discard t)

/-- R84: TRET in S without a context image continues at TPC with the privilege of PPRV, VSTART from TSTART, LACT from SLACT,
IE from PIE and EIP clear; VTYPE becomes what TVTYPE packs. It retires; every other register, every unit (a strip whose fetch
has failed is made again) and memory stay. R81, R84, R86: a trap of any cause taken in either privilege and returned from by
TRET, with nothing of the trap registers changed in between, leaves the hart at the trapping instruction with its privilege,
loops, VTYPE and interrupt enable as they were, and VSTART at the element of the trap; ebreak is one. The model's derivation
from the rules. -/
def Obligations.TrapReturn : Prop :=
  (∀ (s : State), s.hart.priv = .s → s.hart.trap.status.ctxv = false →
     ∃ t, exec .tret s = .next t ∧ t.hart.pc = s.hart.trap.tpc ∧ t.hart.priv = s.hart.trap.status.pprv ∧
       t.hart.vec.vstart = s.hart.trap.tstart ∧ t.hart.loops = { s.hart.loops with lact := s.hart.trap.status.slact } ∧
       t.hart.trap = { s.hart.trap with status := { s.hart.trap.status with ie := s.hart.trap.status.pie, eip := false } } ∧
       (∀ v, VType.unpack s.hart.trap.tvtype.toNat = some v → t.hart.vec.vtype = v) ∧
       t.hart.vec.vl = s.hart.vec.vl ∧ t.hart.vec.lslip = s.hart.vec.lslip ∧ t.hart.vec.hdim = s.hart.vec.hdim ∧
       t.hart.counts.instret = s.hart.counts.instret + 1 ∧ KeepsX s t ∧ KeepsV s t ∧ KeepsP s t ∧ KeepsFcsr s t ∧
       KeepsTaint s t ∧ KeepsMemory s t ∧ KeepsOutside s t ∧
       KeepsUnits { s with hart := { s.hart with
         priv := s.hart.trap.status.pprv, streams := s.hart.streams.map fun b => b.map Binding.refetch } } t) ∧
  (∀ (s : State) (tr : Trap), s.hart.trap.status.eip = false → s.hart.trap.status.ctxv = false →
     (∃ u, exec .tret (s.takeTrap tr) = .next u ∧ u.hart.pc = s.hart.pc ∧ u.hart.priv = s.hart.priv ∧
       u.hart.loops = s.hart.loops ∧ u.hart.vec = { s.hart.vec with vstart := tr.elem } ∧
       u.hart.trap.status.ie = s.hart.trap.status.ie ∧ u.hart.trap.status.eip = false ∧ KeepsX s u ∧ KeepsV s u ∧ KeepsP s u ∧
       KeepsFcsr s u) ∧
     exec .ebreak s = .next (s.takeTrap { cause := .ebreak }))

/-- R38, R80: TRET, WFI and TFENCE in U are illegal instructions: TVAL holds the word, and beside trap entry nothing happens.
R31, R38: a word that decodes to no instruction traps ILLEGAL with the word in TVAL, both words of a long form, and changes
no register, byte, CSR or unit but those of trap entry. R31, R88, R386: a word of the instruction at pc that cannot be
fetched traps with the cause of its failure and its address in TVAL; a fetch from the local window is a PAGEFAULT_FETCH with
the frame of a fetch. -/
def Obligations.IllegalTraps : Prop :=
  (∀ (s : State) (sc : BitVec 3), s.hart.priv = .u → s.hart.trap.status.eip = false →
     ∀ p ∈ [(Instr.tret, 0x0080001E), (.wfi, 0x00C0001E), (.tfence sc, 0x0040001D + sc.toNat * 2 ^ 23)],
     ∃ t, exec p.1 s = .next t ∧ Entered { cause := .illegal, val := word p.2 } s t ∧ TrapInfoIs 0 0 0 0 t ∧ TrapKeeps s t ∧
       KeepsOutside s.discard t) ∧
  (∀ (s : State) (w : Word), s.hart.trap.status.eip = false →
     ∃ t, exec (.illegal w) s = .next t ∧ Entered { cause := .illegal, val := w } s t ∧ TrapInfoIs 0 0 0 0 t ∧ TrapKeeps s t ∧
       KeepsOutside s.discard t) ∧
  (∀ (s v : State) (f : Failure) (va : Word),
     (s.fetchInstr = .error (f, va, v) → f.cause ≠ .watch → v.hart.trap.status.eip = false →
       ∃ u, exec .fetchTrap s = .next u ∧ Entered { cause := f.cause, val := va } v u ∧ KeepsX v u ∧ KeepsMemory v.discard u) ∧
     (inWindow s.hart.pc.toNat = true → s.hart.fetchPin = none → s.hart.trap.status.eip = false →
       ∃ u, exec .fetchTrap s = .next u ∧ Entered { cause := .pageFaultFetch, val := s.hart.pc } s u ∧
         TrapInfoIs s.hart.pc 0 (word (3 * 2 ^ 16 + 4 * 2 ^ 24 + 4 * 2 ^ 28 + 2 ^ 32)) 0 u ∧ KeepsX s u ∧ KeepsV s u ∧ KeepsP s u ∧
         KeepsFcsr s u ∧ KeepsTaint s u ∧ KeepsMemory s.discard u ∧ KeepsOutside s.discard u))

/-! ### Fences and waiting -/

/-- R69, R181, R324, R326: a FENCE whose predecessor set names no running engine thread, and a VFENCE, unless a window that
no port serves or, under DETM.DRAIN, another hart's provisional store holds it up, leaves no entry of the hart of the kinds
it names in the write-combining buffer when its scope lies beyond the core, and bars later merges into the others, but for
provisional ones, which belong to later instructions (the model's choice, log 56). It writes no register but VSTART, which
VFENCE clears; with no combine in flight and no remote window, only bytes of drained entries change at the coherence point.
Here the hart has performed its earlier accesses, and no provisional store has merged with one of another instruction. R98,
R93, R336, R347: WFI with an interrupt pending, CVB and TMARK complete and write no register but the convoy number and VSTART
of CVB; WFI with none pending waits at its own address. R93: TFENCE in S drops the cached translations of its context and
performs the hart's stores. It retires when no pin of a hart of its context within its scope, and none that outlasts an
access, relies on a translation dropped: at once or, when it has waited, without dropping anything again; while such a pin
stands it waits at its own address. Which long pins lie in a scope is the model's choice (log 55). Here the harts have
performed their earlier scalar accesses. -/
def Obligations.FencesAndWaits : Prop :=
  (∀ (s : State) (sc x y : BitVec 3),
     ∀ p ∈ [(Instr.fence sc x y, x), (.vfence sc, 2)],
     let c := scopeOf sc
     let own := s.hart.ident.uid
     let r := if p.1 = .vfence sc then s.vfence c else s.fence x y c
     let vector := p.1 = .vfence sc ∨ x.getLsbD 1 = true ∨ y.getLsbD 1 = true
     s.hart.late = [] → (∀ e ∈ s.core.wcb, e.under = []) →
     (p.1 = .fence sc x y → x.getLsbD 2 = true → s.threadsPending = false) →
     (vector → s.hart.detm.drain = true → ∀ e ∈ s.core.wcb, e.hart ≠ own → e.prov = none) →
     (p.2.getLsbD 1 = true → ∀ e ∈ r.dev.combines, e.hart ≠ own) → r.postsHeld c = false →
     ∃ t, exec p.1 s = .next t ∧ Sequential 4 s t ∧ KeepsX s t ∧
       KeepsRegisters (if p.1 = .vfence sc then s.setVstart 0 else s) t ∧
       (∀ e ∈ t.core.wcb, e.hart = own → e.prov = none →
         e.closed = true ∧ ((if e.kind = .scalar then p.2.getLsbD 0 else p.2.getLsbD 1) = true → c.beyondCore = false)) ∧
       (s.dev.combines = [] → s.dev.windows = [] → ∀ k, (∀ e ∈ s.core.wcb, e.byte k = none) →
         Memory.read t.dev.mem k = Memory.read s.dev.mem k)) ∧
  (∀ (s : State) (a : BitVec 5),
     (s.hart.priv = .s → s.hart.trap.status.pending = true →
       ∃ t, exec .wfi s = .next t ∧ WritesNothing s t ∧ Sequential 4 s t) ∧
     (s.hart.priv = .s → s.hart.trap.status.pending = false →
       ∃ t, exec .wfi s = .next t ∧ WritesNothing s t ∧ t.hart.pc = s.hart.pc ∧ t.hart.counts = s.hart.counts) ∧
     ((s.hart.detm.convoy = true → ∀ e ∈ s.applyOwnCombines.dev.combines, e.hart ≠ s.hart.ident.uid) →
       ∃ t, exec .cvb s = .next t ∧ KeepsX s t ∧ KeepsRegisters (s.setVstart 0) t ∧ Sequential 4 s t ∧
       t.hart.counts.convoy = s.hart.counts.convoy + 1 ∧ (s.dev.combines = [] → KeepsMemory s t)) ∧
     (∃ t, exec (.tmark a) s = .next t ∧ KeepsX s t ∧ KeepsRegisters s t ∧ Sequential 4 s t ∧
       (s.core.trace = none → KeepsMemory s t ∧ KeepsOutside s t))) ∧
  (∀ (s : State) (sc : BitVec 3), s.hart.priv = .s →
     let c := scopeOf sc
     let r := if s.hart.tfencing then s else s.dropContext c
     let held : Prop := ∃ h ∈ r.parked, h.ctx = s.hart.ctx ∧ s.within c h = true ∧ h.holdsStale = true
     let kept : State := { s with hart := { s.hart with edge := r.hart.edge } }
     s.hart.late = [] → (∀ h ∈ s.parked, h.late = []) →
     (s.hart.tfencing = false → (∀ e ∈ s.core.wcb, e.hart = s.hart.ident.uid → e.under = []) → r.longPin c = false → ¬held →
       ∃ t, exec (.tfence sc) s = .next t ∧ t.hart.tlb = [] ∧ KeepsX s t ∧ KeepsRegisters kept t ∧ Sequential 4 s t ∧
         ∀ e ∈ t.core.wcb, e.hart = s.hart.ident.uid → e.prov ≠ none) ∧
     (s.hart.tfencing = true → r.longPin c = false → ¬held →
       ∃ t, exec (.tfence sc) s = .next t ∧ KeepsX s t ∧ KeepsRegisters s t ∧ KeepsMemory s t ∧ KeepsOutside s t ∧ Sequential 4 s t) ∧
     (r.longPin c = true ∨ held →
       ∃ t, exec (.tfence sc) s = .next t ∧ t.hart.tfencing = true ∧ t.hart.pc = s.hart.pc ∧ t.hart.counts = s.hart.counts ∧
         KeepsX s t ∧ KeepsRegisters kept t))

/-! ### Synchronisation -/

/-- R307: an SY instruction whose index lies outside the gang's window traps ACCESS with the index in TVAL, its access and
KIND 6 in the frame, and beside trap entry changes nothing. R310, R311: SYST, SYTAS, SYFAA and a successful SYCAS write their
register at its home, clear its arrival set and make one version more; the forms that return a value return the old one. A
SYCAS whose comparison fails writes nothing. Every other synchronisation register stays at its home. Here the hart has
performed its earlier accesses, and no window holds up a release (R321). -/
def Obligations.SyncUpdates : Prop :=
  (∀ (s : State) (d a b : BitVec 5) (o sc : BitVec 2) (c : BitVec 3),
     s.hart.trap.status.eip = false → s.hart.detm.atom = false →
     ¬((s.x a).toNat < 16384 ∧ s.gang.srfBase ≤ (s.x a).toNat ∧ (s.x a).toNat < s.gang.srfBase + s.gang.srfLen) →
     ∀ p ∈ [(Instr.syld d a o sc, 0), (.sywait d a b o sc c, 0), (.syst a b o sc, 1), (.sytas d a o sc, 2),
       (.syfaa d a b o sc, 2), (.sycas d a b o sc, 2), (.sybar d a b o sc, 2)],
     ∃ t, exec p.1 s = .next t ∧ Entered { cause := .access, val := s.x a } s t ∧
       TrapInfoIs (s.x a) 0 (word (p.2 * 2 ^ 16 + 8 * 2 ^ 24 + 6 * 2 ^ 28 + 2 ^ 32)) 0 t ∧ TrapKeeps s t ∧ KeepsOutside s.discard t) ∧
  (∀ (s : State) (d a b : BitVec 5) (o sc : BitVec 2),
     let i := (s.x a).toNat
     let r := s.dev.srfHome i
     i < 16384 → s.gang.srfBase ≤ i → i < s.gang.srfBase + s.gang.srfLen → s.hart.late = [] →
     (o = 2 ∨ o = 3 → (s.release (syScopeOf sc)).postsHeld (syScopeOf sc) = false) →
     ∀ p ∈ [(Instr.syst a b o sc, 0, some (s.x b)), (.sytas d a o sc, d, some (r.value ||| 1)),
       (.syfaa d a b o sc, d, some (r.value + s.x b)), (.sycas d a b o sc, d, if r.value = s.x d then some (s.x b) else none)],
     ¬(s.hart.detm.atom = true ∧ p.2.1 ≠ 0) →
     ∃ t, exec p.1 s = .next t ∧ Sequential 4 s t ∧ t.x p.2.1 = (if p.2.1 = 0 then 0 else r.value) ∧ KeepsXBut p.2.1 s t ∧
       KeepsRegisters s t ∧
       t.dev.srfHome i = (match p.2.2 with
         | some v => { value := v, set := 0, version := r.version + 1 }
         | none => r) ∧
       ∀ j, j ≠ i → t.dev.srfHome j = s.dev.srfHome j)

/-- R306, R308, R311: SYLD returns the register as the hart's die reads it; SYWAIT does the same when its comparison holds,
and otherwise waits at its own address. On the register's home die the value is the home's. The version read is never older
than one the hart has observed or written, which has reached the die or is on its way there, and it counts as observed. R312,
R313: the arrival at a barrier. The last one returns GEN with status 1, advances GEN and clears the count and the arrivals; a
hart that has arrived already gets status 2; an earlier arrival counts itself and waits at (PC, 1). A SYBAR resumed at (PC,
1) does not arrive again: it waits while the register holds the hart's arrival, and returns the GEN it arrived in with status
0 when it does not. A barrier that returns adds one to the epoch (R338) and clears VSTART; of the register the last arrival
also makes known which epochs it orders (R338). Here the hart has performed its earlier accesses, and no window holds up a
release (R321). -/
def Obligations.SyncReads : Prop :=
  (∀ (s : State) (d a b : BitVec 5) (o sc : BitVec 2) (c : BitVec 3),
     let i := (s.x a).toNat
     let v := (s.readSrf i).1.value
     i < 16384 → s.gang.srfBase ≤ i → i < s.gang.srfBase + s.gang.srfLen →
     let version := (s.readSrf i).1.version
     let seen := sparseGet 0 s.hart.srfSeen i
     (homeDie i = s.hart.ident.die → v = (s.dev.srfHome i).value) ∧
     (seen ≤ (s.dev.srfAt s.hart.ident.die i).version ∨ (homeDie i ≠ s.hart.ident.die ∧
         ∃ b ∈ s.dev.broadcasts, b.1 = mirrorKey s.hart.ident.die i ∧ seen ≤ b.2.version) → seen ≤ version) ∧
     (∃ t, exec (.syld d a o sc) s = .next t ∧ Sequential 4 s t ∧ t.x d = (if d = 0 then 0 else v) ∧ KeepsXBut d s t ∧
       KeepsRegisters s t ∧ (s.gang.replay ≠ 1 → KeepsMemory s t) ∧ t.dev.srf = s.dev.srf ∧
       (sparseWf 0 0 s.hart.srfSeen = true → sparseGet 0 t.hart.srfSeen i = version)) ∧
     (let holds := (match c.toNat with
         | 0 => decide (v = s.x b) | 1 => decide (v ≠ s.x b) | 2 => decide ((s.x b).toNat ≤ v.toNat)
         | 3 => decide (v.toNat < (s.x b).toNat) | 4 => decide ((s.x b).toInt ≤ v.toInt)
         | _ => decide (v.toInt < (s.x b).toInt))
      (holds = true →
         ∃ t, exec (.sywait d a b o sc c) s = .next t ∧ Sequential 4 s t ∧ t.x d = (if d = 0 then 0 else v) ∧
           KeepsXBut d s t ∧ KeepsRegisters s t ∧ (s.gang.replay ≠ 1 → KeepsMemory s t) ∧ t.dev.srf = s.dev.srf ∧
           (sparseWf 0 0 s.hart.srfSeen = true → sparseGet 0 t.hart.srfSeen i = version)) ∧
      (holds = false →
         ∃ t, exec (.sywait d a b o sc c) s = .next t ∧ t.hart.pc = s.hart.pc ∧ t.hart.counts = s.hart.counts ∧
           (s.core.copies = [] → KeepsX s t)))) ∧
  (∀ (s : State) (d a b : BitVec 5) (o sc : BitVec 2),
     let i := (s.x a).toNat
     let r := s.dev.srfHome i
     let g := r.value.toNat / 2 ^ 32
     let n := r.value.toNat % 2 ^ 32
     let p := (s.x b).toNat % 2 ^ 32
     let seen := (s.readSrf i).1
     let arrived := if o = 2 ∨ o = 3 then mergeOrder r.arrived s.hart.ordered else r.arrived
     i < 16384 → s.gang.srfBase ≤ i → i < s.gang.srfBase + s.gang.srfLen → s.hart.late = [] →
     (o = 2 ∨ o = 3 → (s.release (syScopeOf sc)).postsHeld (syScopeOf sc) = false) →
     (s.hart.vec.vstart = 0 → r.set.testBit s.hart.ident.lhart = true ∨ p ≤ n + 1 →
       ∃ t, exec (.sybar d a b o sc) s = .next t ∧ Sequential 4 s t ∧ KeepsXBut d s t ∧
         t.hart.counts.epoch = s.hart.counts.epoch + 1 ∧ t.hart.vec.vstart = 0 ∧
         t.x d = (if d = 0 then 0 else word (g * 2 ^ 32 + (if r.set.testBit s.hart.ident.lhart then 2 else 1))) ∧
         t.dev.srfHome i = (if r.set.testBit s.hart.ident.lhart then r
           else { value := word ((g + 1) % 2 ^ 32 * 2 ^ 32), set := 0, version := r.version + 1
                  passed := mergeOrder r.passed arrived })) ∧
     (s.hart.vec.vstart = 0 → r.set.testBit s.hart.ident.lhart = false → n + 1 < p → homeDie i = s.hart.ident.die →
       s.core.copies = [] →
       ∃ t, exec (.sybar d a b o sc) s = .next t ∧ t.hart.pc = s.hart.pc ∧ t.hart.vec.vstart = 1 ∧ KeepsX s t ∧
         t.hart.counts = s.hart.counts ∧ (t.dev.srfHome i).value = word (g * 2 ^ 32 + (n + 1) % 2 ^ 32) ∧
         (t.dev.srfHome i).set.testBit s.hart.ident.lhart = true) ∧
     (s.hart.vec.vstart = 1 → seen.set.testBit s.hart.ident.lhart = false →
       ∃ t, exec (.sybar d a b o sc) s = .next t ∧ Sequential 4 s t ∧ KeepsXBut d s t ∧
         t.hart.counts.epoch = s.hart.counts.epoch + 1 ∧ t.hart.vec.vstart = 0 ∧ t.dev.srf = s.dev.srf ∧
         t.x d = (if d = 0 then 0 else word ((seen.value.toNat / 2 ^ 32 + (2 ^ 32 - 1)) % 2 ^ 32 * 2 ^ 32))) ∧
     (s.hart.vec.vstart = 1 → seen.set.testBit s.hart.ident.lhart = true → s.core.copies = [] →
       ∃ t, exec (.sybar d a b o sc) s = .next t ∧ t.hart.pc = s.hart.pc ∧ t.hart.vec.vstart = 1 ∧ KeepsX s t ∧
         t.hart.counts = s.hart.counts ∧ t.dev.srf = s.dev.srf))

/-- R316: IPOST raises a ring channel to the posted number, and IWAIT returns the channel once it has reached its bound; here
a post arrives at once, and the hart has performed its earlier accesses. A post below the channel's number changes nothing.
R116, R117, R317: TSPAWN clears the join word and appends the record to the core's queue, with X[D] telling whether there was
room; TTAKE removes the gang's oldest record, or returns 0 when it has none, and with D = 0 removes nothing; TJOIN takes its
own record back while it is queued, the oldest of several entries of it (the model's choice, log 104), and returns 0 once its
join word is not zero; TDONE sets the join word to 1. Here the hart performs its accesses in order, and a store to the join
word disturbs no other store. -/
def Obligations.RingAndTasks : Prop :=
  (∀ (s : State) (d a b : BitVec 5) (g : Gang),
     s.dev.gangs.find? (fun g => g.id == s.hart.ident.gang) = some g → s.dev.prompt = true → s.hart.late = [] →
     let c := (s.x a).toNat % 16
     let v := g.ring[c]?.getD 0
     (∃ t, exec (.ipost a b) s = .next t ∧ Sequential 4 s t ∧ KeepsX s t ∧ KeepsRegisters s t ∧
       t.gang.ring[c]?.getD 0 = (if v.toNat < (s.x b).toNat then s.x b else v) ∧
       ∀ k, k ≠ c → t.gang.ring[k]?.getD 0 = g.ring[k]?.getD 0) ∧
     (v.toNat < (s.x b).toNat →
       ∃ t, exec (.iwait d a b) s = .next t ∧ t.hart.pc = s.hart.pc ∧ t.hart.counts = s.hart.counts ∧ KeepsX s t) ∧
     ((s.x b).toNat ≤ v.toNat →
       ∃ t, exec (.iwait d a b) s = .next t ∧ Sequential 4 s t ∧ t.x d = (if d = 0 then 0 else v) ∧ KeepsXBut d s t ∧
         KeepsRegisters s t ∧ KeepsMemory s t)) ∧
  (∀ (s u : State) (d a : BitVec 5) (pl : Place),
     let va := s.x a
     let w := va + 8
     let mine := s.core.tasks.findIdx? fun e => e.2 = s.hart.ident.gang
     let own := s.core.tasks.findIdx? fun e => e.1 = va && e.2 = s.hart.ident.gang
     (∃ t, exec (.ttake d) s = .next t ∧ Sequential 4 s t ∧ KeepsXBut d s t ∧ KeepsRegisters s t ∧ KeepsMemory s t ∧
       (if d = 0 then t.core.tasks = s.core.tasks
        else match mine with
         | none => t.x d = 0 ∧ t.core.tasks = s.core.tasks
         | some j => t.core.tasks = s.core.tasks.eraseIdx j ∧ s.core.tasks[j]?.map Prod.fst = some (t.x d))) ∧
     (s.memoryWf → s.inOrder → s.held (va.toNat + 8) 8 = false → va.toNat % 64 = 0 → s.locate (va.toNat + 8) 8 .store = .ok (pl, u) →
       (u.windowOf pl).any Window.isCut = false →
       (u.watchHit w.toNat 8 .store = none → u.storesAlone pl 8 → (s.hart.prov.isSome = true → pl.cls = .device ∨ pl.cls = .scratch) →
         (∃ t, exec (.tspawn d a) s = .next t ∧ Sequential 4 u t ∧ KeepsXBut d u t ∧ KeepsRegisters u t ∧
           t.view u.hart.ident.uid .scalar pl.key 8 = 0 ∧
           (if s.core.tasks.length < 256 then t.core.tasks = s.core.tasks ++ [(va, s.hart.ident.gang)] ∧ (d ≠ 0 → t.x d = 1)
            else t.core.tasks = s.core.tasks ∧ t.x d = 0)) ∧
         (∃ t, exec (.tdone a) s = .next t ∧ Sequential 4 u t ∧ KeepsX u t ∧ KeepsRegisters u t ∧
           t.view u.hart.ident.uid .scalar pl.key 8 = 1 ∧ t.core.tasks = s.core.tasks)) ∧
       (∀ j, d ≠ 0 → own = some j →
         ∃ t, exec (.tjoin d a) s = .next t ∧ Sequential 4 u t ∧ t.x d = va ∧ KeepsXBut d u t ∧ KeepsRegisters u t ∧
           t.core.tasks = s.core.tasks.eraseIdx j) ∧
       (d = 0 ∨ own = none → s.hart.early = [] → u.viewPoison u.hart.ident.uid .scalar pl.key 8 = none →
         u.watchHit w.toNat 8 .load = none →
         let r := u.arrived pl
         r.viewPoison u.hart.ident.uid .scalar pl.key 8 = none → r.view u.hart.ident.uid .scalar pl.key 8 ≠ 0 →
         ∃ t, exec (.tjoin d a) s = .next t ∧ Sequential 4 r t ∧ t.x d = 0 ∧ KeepsXBut d r t ∧ KeepsRegisters r t ∧
           t.core.tasks = s.core.tasks ∧ KeepsMemory r t)))

/-! ### Vector arithmetic -/

/-- R130, R139, R141, R153, R154: a two-source or scalar form whose tags agree and whose class has the operation writes each
selected element with the operation of the two source elements, and nothing else of the destination but the tag and the tail
that TAIL zeroes; VL elements or none, whatever VSTART is. -/
def Obligations.VectorArithmetic : Prop :=
  ∀ (s : State) (d a b : BitVec 6) (x : BitVec 5) (g : BitVec 4) (t : Tag),
    let n := s.range t (tagWidth t)
    let vt := s.hart.vec.vtype
    s.pause = none → (s.v d).bound = none → (s.v a).tag = t → fits s t = true → (s.v a).readable s.hart.vec.vstart n →
    ∀ p ∈ binaryForms d a b x g, p.2.2.defined (tagClass t) = true →
    ((s.v b).tag = t → (s.v b).readable s.hart.vec.vstart n →
      ∃ u, exec p.1 s = .next u ∧ Sequential 4 s u ∧ VectorFrame s u ∧ KeepsX s u ∧ KeepsP s u ∧ KeepsVBut d s u ∧
        ElementWise d t n (tagWidth t) (s.pbit g) (fun i => (p.2.2.elem t vt ((s.v a).elem t i) ((s.v b).elem t i)).1) s u) ∧
    (∃ u, exec p.2.1 s = .next u ∧ Sequential 4 s u ∧ VectorFrame s u ∧ KeepsX s u ∧ KeepsP s u ∧ KeepsVBut d s u ∧
      ElementWise d t n (tagWidth t) (s.pbit g)
        (fun i => (p.2.2.elem t vt ((s.v a).elem t i) (convertScalar t vt (s.x x)).1).1) s u)

/-- R129, R131, R134, R153, R156, R159: what the element operations, the unary ones included, compute on I and W tags,
wrapped or clamped by SAT with SATF exactly when a value is clamped, division by zero included; on HB tags, bit by bit; and
on HC tags, clamped to −127 to 127. A move copies an element of these classes, but writes the HC byte 0x80 as −127 (the
model's choice, log 119). R131, R132, R133: residue sums, differences and products are exact modulo M, canonical whatever the
sources are, and RNINV tells of a source that was not; so is a negation, and so is a moved element (the model's choice, log
119). R123, R125, R154, R156: the element operations on F tags with subnormals kept. Sum, difference, product, quotient,
fused forms, root and reciprocal of numbers are rounded once under VTYPE.RM; a NaN source gives the canonical NaN of the
format, for minimum and maximum only two of them; the minimum and maximum of numbers are theirs, and a NaN beside a number
gives the number. Negation and absolute value change the sign bit alone. The special values of root, power, logarithm and
reciprocal are those of R156; in F8E4 each infinity is ±448. R133, R137, R139: one element converted from a tag to a tag,
with subnormals kept: an integer by value, wrapped or clamped under SAT; an integer or a number to F rounded once; a number
to an integer rounded under VTYPE.RM, and a NaN, an infinity or a rounded value outside the range to an end of the range with
NV; a residue through its signed value; an integer to its residue modulo M, and a number as the I64 it converts to. RN24 to
RN12 and a residue tag to itself, which R137 does not list, convert through the signed value by the model's choice (log 108).
The scalar operand of a W form: an F64 or F32 as its bits, a narrower F tag rounded from F32, a residue modulo M, HC clamped
to −127 to 127, and the low bits otherwise. -/
def Obligations.ElementValues : Prop :=
  (∀ (t : Tag) (vt : VType) (k l : Nat),
     let n := 8 * tagWidth t
     let x := intValue t k
     let y := intValue t l
     k < 2 ^ n → l < 2 ^ n →
     (tagClass t = .i ∨ tagClass t = .w →
       (∀ p ∈ [(VecOp.add, x + y), (.sub, x - y), (.mul, x * y)],
         (p.1.elem t vt k l).1 = intFit t vt.sat p.2 ∧
         ((p.1.elem t vt k l).2.satf = true ↔ vt.sat = true ∧ intValue t (intFit t true p.2) ≠ p.2)) ∧
       ∀ p ∈ [(VecOp.mulh, wrap n (x * y / 2 ^ n)), (.mulhu, k * l / 2 ^ n), (.min, if y < x then l else k),
         (.max, if x < y then l else k), (.div, if l = 0 then 2 ^ n - 1 else intFit t vt.sat (x.tdiv y)),
         (.rem, if l = 0 then k else wrap n (x.tmod y)), (.and, k &&& l), (.or, k ||| l), (.xor, k ^^^ l),
         (.andn, k &&& (l ^^^ (2 ^ n - 1))), (.sll, k * 2 ^ (l % n) % 2 ^ n), (.srl, k / 2 ^ (l % n)),
         (.sra, wrap n (x / (2 ^ (l % n) : Nat)))],
         (p.1.elem t vt k l).1 = p.2) ∧
     (tagClass t = .i ∨ tagClass t = .w →
       (∀ p ∈ [(UnOp.neg, -x), (.abs, (x.natAbs : Int))], (p.1.elem t vt k).1 = intFit t vt.sat p.2 ∧
         ((p.1.elem t vt k).2.satf = true ↔ vt.sat = true ∧ intValue t (intFit t true p.2) ≠ p.2)) ∧
       UnOp.not.elem t vt k = (2 ^ n - 1 - k, {})) ∧
     (tagClass t = .i ∨ tagClass t = .w ∨ tagClass t = .f ∨ t = .hb → canonElem t k = (k, {})) ∧
     (t = .hb → (∀ p ∈ [(VecOp.and, k &&& l), (.or, k ||| l), (.xor, k ^^^ l), (.andn, k &&& (l ^^^ (2 ^ 32 - 1)))],
       p.1.elem t vt k l = (p.2, {})) ∧ ∀ op ∈ [UnOp.neg, .not], op.elem t vt k = (2 ^ 32 - 1 - k, {})) ∧
     (t = .hc →
       let c (z : Int) : Int := max (-127) (min 127 z)
       ∀ p ∈ [(VecOp.add, c (signed 8 k) + c (signed 8 l)), (.sub, c (signed 8 k) - c (signed 8 l)),
         (.min, min (c (signed 8 k)) (c (signed 8 l))), (.max, max (c (signed 8 k)) (c (signed 8 l)))],
         (p.1.elem t vt k l).1 = wrap 8 (c p.2) ∧ ((p.1.elem t vt k l).2.satf = true ↔ c p.2 ≠ p.2)) ∧
     (t = .hc → canonElem t k = (if k = 0x80 then 0x81 else k, {}) ∧
       UnOp.neg.elem t vt k = (wrap 8 (-max (-127) (signed 8 k)), {}) ∧
       UnOp.abs.elem t vt k = ((max (-127) (signed 8 k)).natAbs, {}))) ∧
  (∀ (t : Tag) (vt : VType) (k l : Nat), t = .rn12 ∨ t = .rn24 →
     let M : Int := if t = .rn12 then 4080 else 16776960
     (∀ p ∈ [(canonElem t k, (rnValue t k).1), (UnOp.neg.elem t vt k, -(rnValue t k).1)],
       (rnValue t p.1.1).2 = false ∧ ((rnValue t p.1.1).1 - p.2) % M = 0 ∧ (p.1.2.rninv = true ↔ (rnValue t k).2 = true)) ∧
     ∀ p ∈ [(VecOp.add, (rnValue t k).1 + (rnValue t l).1), (.sub, (rnValue t k).1 - (rnValue t l).1),
       (.mul, (rnValue t k).1 * (rnValue t l).1)],
     (rnValue t (p.1.elem t vt k l).1).2 = false ∧
     ((rnValue t (p.1.elem t vt k l).1).1 - p.2) % M = 0 ∧
     ((p.1.elem t vt k l).2.rninv = true ↔ (rnValue t k).2 = true ∨ (rnValue t l).2 = true)) ∧
  (∀ (t : Tag) (vt : VType) (k l m : Nat), tagClass t = .f → vt.fz = .keep →
     let f := fmtOf t
     let n := 8 * tagWidth t
     let one := match t with
       | .f8e4 => 0x38 | .f8e5 => 0x3C | .bf16 => 0x3F80 | .f16 => 0x3C00 | .f32 => 0x3F800000 | _ => 0x3FF0000000000000
     let nan := canonicalNan t
     let val (k : Nat) := (f.decode k).scaled 2200
     let isNan (k : Nat) := (f.decode k).isNan
     let flag (r : ElemRes) (j : Nat) := r.2.flags.getLsbD j
     let infinite (k : Nat) (neg : Bool) : Prop :=
       if t = .f8e4 then k = (if neg then 0xFE else 0x7E) else f.decode k = .inf neg
     k < 2 ^ n → l < 2 ^ n → m < 2 ^ n →
     (∀ x y, val k = some x → val l = some y →
       (∀ p ∈ [(VecOp.add, x + y), (.sub, x - y), (.mul, x * y / 2 ^ 2200)], f.RoundsTo vt.rm p.2 1 (p.1.elem t vt k l).1) ∧
       (y ≠ 0 → f.RoundsTo vt.rm (x * y.sign * 2 ^ 2200) y.natAbs (VecOp.div.elem t vt k l).1) ∧
       val (VecOp.min.elem t vt k l).1 = some (min x y) ∧ val (VecOp.max.elem t vt k l).1 = some (max x y) ∧
       (0 ≤ x → f.RootOf vt.rm x (UnOp.sqrt.elem t vt k).1) ∧
       (x ≠ 0 → f.RoundsTo vt.rm (x.sign * 2 ^ 4400) x.natAbs (UnOp.rcp.elem t vt k).1) ∧
       (x < 0 → (UnOp.sqrt.elem t vt k).1 = nan ∧ flag (UnOp.sqrt.elem t vt k) 4 = true ∧
         (UnOp.log2.elem t vt k).1 = nan ∧ flag (UnOp.log2.elem t vt k) 4 = true) ∧
       (x = 0 → (UnOp.exp2.elem t vt k).1 = one ∧ infinite (UnOp.log2.elem t vt k).1 true ∧ flag (UnOp.log2.elem t vt k) 3 = true ∧
         infinite (UnOp.rcp.elem t vt k).1 (f.sign k) ∧ flag (UnOp.rcp.elem t vt k) 3 = true) ∧
       ∀ w, val m = some w → ∀ q ∈ [(false, false), (false, true), (true, false), (true, true)],
         f.RoundsTo vt.rm ((if q.1 then -1 else 1) * (x * y / 2 ^ 2200) + (if q.2 then -1 else 1) * w) 1
           (fusedElem q.1 q.2 t vt k l m).1) ∧
     (isNan k = true ∨ isNan l = true →
       (∀ op ∈ [VecOp.add, .sub, .mul, .div], (op.elem t vt k l).1 = nan) ∧
       ∀ op ∈ [VecOp.min, .max], (isNan k = true → isNan l = true → (op.elem t vt k l).1 = nan) ∧
         (∀ y, val l = some y → val (op.elem t vt k l).1 = some y) ∧ ∀ x, val k = some x → val (op.elem t vt k l).1 = some x) ∧
     (isNan k = true → ∀ op ∈ [UnOp.neg, .abs, .sqrt, .exp2, .log2, .rcp], (op.elem t vt k).1 = nan) ∧
     (isNan k = true ∨ isNan l = true ∨ isNan m = true → ∀ u v, (fusedElem u v t vt k l m).1 = nan) ∧
     (isNan k = false → UnOp.neg.elem t vt k = (k ^^^ 2 ^ (n - 1), {}) ∧ UnOp.abs.elem t vt k = (k % 2 ^ (n - 1), {})) ∧
     ∀ neg, f.decode k = .inf neg →
       (UnOp.exp2.elem t vt k).1 = (if neg then 0 else k) ∧ (neg = false → (UnOp.sqrt.elem t vt k).1 = k ∧ (UnOp.log2.elem t vt k).1 = k) ∧
       val (UnOp.rcp.elem t vt k).1 = some 0) ∧
  (∀ (a b : Tag) (vt : VType) (k : Nat), vt.fz = .keep → k < 2 ^ (8 * tagWidth a) → convertible a b = true →
     let n := 8 * tagWidth b
     let whole (t : Tag) : Prop := tagClass t = .i ∨ tagClass t = .w
     let r := convert a b vt k
     let M : Int := if b = .rn12 then 4080 else 16776960
     let lo : Int := if tagClass b = .w then 0 else -2 ^ (n - 1)
     let hi : Int := if tagClass b = .w then 2 ^ n - 1 else 2 ^ (n - 1) - 1
     let ofInt (z : Int) (r : ElemRes) : Prop :=
       (whole b → r.1 = intFit b vt.sat z ∧ (r.2.satf = true ↔ vt.sat = true ∧ intValue b (intFit b true z) ≠ z)) ∧
       (tagClass b = .f → (fmtOf b).RoundsTo vt.rm (z * 2 ^ 2200) 1 r.1) ∧
       (tagClass b = .rn → (rnValue b r.1).2 = false ∧ ((rnValue b r.1).1 - z) % M = 0)
     (whole a → ofInt (intValue a k) r) ∧
     (tagClass a = .rn → ofInt (rnValue a k).1 r ∧ (r.2.rninv = true ↔ (rnValue a k).2 = true)) ∧
     (tagClass a = .f → tagClass b = .f →
       (∀ z, ((fmtOf a).decode k).scaled 2200 = some z → (fmtOf b).RoundsTo vt.rm z 1 r.1) ∧
       (((fmtOf a).decode k).isNan = true → r.1 = canonicalNan b)) ∧
     (tagClass a = .f → tagClass b = .rn → (rnValue b r.1).2 = false ∧
       ((rnValue b r.1).1 - signed 64 (convert a .i64 vt k).1) % M = 0 ∧ r.2.flags = (convert a .i64 vt k).2.flags) ∧
     (tagClass a = .f → whole b →
       (match (fmtOf a).decode k with
        | .nan _ => r = (wrap n hi, { flags := 16 })
        | .inf neg => r = (wrap n (if neg then lo else hi), { flags := 16 })
        | .fin neg m e =>
          let x : Int := (if neg then -1 else 1) * (m * 2 ^ (e + 1100).toNat : Nat)
          ∃ z, RoundsInt vt.rm (2 ^ 1100) x z ∧
            r = (if z < lo then (wrap n lo, { flags := 16 }) else if hi < z then (wrap n hi, { flags := 16 })
              else (wrap n z, { flags := if x = z * 2 ^ 1100 then 0 else 1 })))) ∧
     ∀ x : Word, let c := (convertScalar b vt x).1
       (whole b → c = x.toNat % 2 ^ n) ∧ (b = .f64 → c = x.toNat) ∧ (b = .f32 → c = x.toNat % 2 ^ 32) ∧
       (tagClass b = .f → b ≠ .f64 → b ≠ .f32 → ∀ z, (fmtF32.decode (x.toNat % 2 ^ 32)).scaled 2200 = some z →
         (fmtOf b).RoundsTo vt.rm z 1 c) ∧
       (tagClass b = .rn → (rnValue b c).2 = false ∧ ((rnValue b c).1 - x.toInt) % M = 0) ∧
       (convertScalar .hc vt x).1 = wrap 8 (max (-127) (min 127 x.toInt)) ∧ (convertScalar .hb vt x).1 = x.toNat % 2 ^ 32)

/-- R139, R155, R156, R157: the fused forms add or subtract the destination's element and the product, the unary forms work
on one source, and VIOTA counts the set bits of its predicate below each element; each writes the selected elements and
nothing else of the destination. On I and W tags the fused result is wrapped or clamped once. -/
def Obligations.FusedAndUnary : Prop :=
  ∀ (s : State) (d a b : BitVec 6) (x : BitVec 5) (q g : BitVec 4) (t : Tag),
    let n := s.range t (tagWidth t)
    let vt := s.hart.vec.vtype
    let done (i : Instr) (tag : Tag) (n : Nat) (f : Nat → Nat) : Prop :=
      ∃ u, exec i s = .next u ∧ Sequential 4 s u ∧ VectorFrame s u ∧ KeepsX s u ∧ KeepsP s u ∧ KeepsVBut d s u ∧
        ElementWise d tag n (tagWidth tag) (s.pbit g) f s u
    s.pause = none → (s.v d).bound = none →
    ((s.v a).tag = t → (s.v a).readable s.hart.vec.vstart n →
      (fusedDefined (tagClass t) = true → (s.v d).tag = t → (s.v d).readable s.hart.vec.vstart n →
        ∀ p ∈ fusedForms d a b x g,
        ((s.v b).tag = t → (s.v b).readable s.hart.vec.vstart n → done p.1 t n fun i =>
          (fusedElem p.2.2.1 p.2.2.2 t vt ((s.v a).elem t i) ((s.v b).elem t i) ((s.v d).elem t i)).1) ∧
        (done p.2.1 t n fun i =>
          (fusedElem p.2.2.1 p.2.2.2 t vt ((s.v a).elem t i) (convertScalar t vt (s.x x)).1 ((s.v d).elem t i)).1) ∧
        (tagClass t = .i ∨ tagClass t = .w → ∀ k l m, k < 2 ^ (8 * tagWidth t) → l < 2 ^ (8 * tagWidth t) → m < 2 ^ (8 * tagWidth t) →
          (fusedElem p.2.2.1 p.2.2.2 t vt k l m).1 = intFit t vt.sat
            ((if p.2.2.1 then -1 else 1) * (intValue t k * intValue t l) + (if p.2.2.2 then -1 else 1) * intValue t m))) ∧
      (fits s t = true →
        ∀ p ∈ unaryForms d a g, p.2.defined (tagClass t) = true → done p.1 t n fun i => (p.2.elem t vt ((s.v a).elem t i)).1)) ∧
    (vt.etag = t → tagClass t = .i ∨ tagClass t = .w →
      done (.viota d q g) t n fun i => intFit t vt.sat (((List.range i).filter fun j => decide (j < n) && s.pbit q j).length : Nat))

/-- R73, R131, R139, R158: a compare writes each selected bit of its predicate with the relation of the two elements: by
value on I, W and HC tags, −128 of HC read as −127; by the value of the residues on RN, with RNINV for a source that is not
canonical; by equality of the 32 bits on HB; on F, with subnormals kept, by the order of numbers and infinities, and with a
NaN only ne and un hold, NV set for a signalling NaN by eq, ne and un and for any NaN by the others. Under TAIL the bits from
VL on are cleared, but for hypervectors, and p0 never changes. -/
def Obligations.VectorCompares : Prop :=
  ∀ (s : State) (d g : BitVec 4) (a b : BitVec 6) (x : BitVec 5) (t : Tag),
    let n := s.range t (tagWidth t)
    let vt := s.hart.vec.vtype
    let tails := tagClass t ≠ .hb ∧ tagClass t ≠ .hc
    s.pause = none → (s.v a).tag = t → fits s t = true → (s.v a).readable s.hart.vec.vstart n →
    ∀ p ∈ compareForms d g a b x, relDefined p.2.2.1 (tagClass t) = true →
    ((s.v b).tag = t → (s.v b).readable s.hart.vec.vstart n →
      ∃ u, exec p.1 s = .next u ∧ Sequential 4 s u ∧ VectorFrame s u ∧ KeepsX s u ∧ KeepsV s u ∧
        PredWise d g n (decide tails) (fun i => (relElem p.2.2.1 t vt ((s.v a).elem t i) ((s.v b).elem t i)).1) s u) ∧
    (∃ u, exec p.2.1 s = .next u ∧ Sequential 4 s u ∧ VectorFrame s u ∧ KeepsX s u ∧ KeepsV s u ∧
      PredWise d g n (decide tails) (fun i => (relElem p.2.2.1 t vt ((s.v a).elem t i) (convertScalar t vt (s.x x)).1).1) s u) ∧
    (tagClass t = .i ∨ tagClass t = .w → ∀ k l, k < 2 ^ (8 * tagWidth t) → l < 2 ^ (8 * tagWidth t) →
      (relElem p.2.2.1 t vt k l).1 = p.2.2.2 (intValue t k) (intValue t l)) ∧
    (t = .hb → ∀ k l, (relElem p.2.2.1 t vt k l).1 = p.2.2.2 k l) ∧
    (t = .hc → ∀ k l, (relElem p.2.2.1 t vt k l).1 = p.2.2.2 (max (-127) (signed 8 k)) (max (-127) (signed 8 l))) ∧
    (tagClass t = .rn → ∀ k l, (relElem p.2.2.1 t vt k l).1 = p.2.2.2 (rnValue t k).1 (rnValue t l).1 ∧
      ((relElem p.2.2.1 t vt k l).2.rninv = true ↔ (rnValue t k).2 = true ∨ (rnValue t l).2 = true)) ∧
    (tagClass t = .f → vt.fz = .keep → ∀ k l,
      let f := fmtOf t
      let r := relElem p.2.2.1 t vt k l
      (∀ u v, f.order k = some u → f.order l = some v → r = (p.2.2.2 u v, {})) ∧
      (f.order k = none ∨ f.order l = none → r.1 = decide (p.2.2.1 = .ne ∨ p.2.2.1 = .un) ∧
        r.2 = { flags := if p.2.2.1 ∈ [Rel.lt, .le, .gt, .ge] ∨ (f.decode k).isSnan = true ∨ (f.decode l).isSnan = true then 16 else 0 }))

/-- R33, R96, R160: the predicate instructions work on the selected bits below VL, keep the others, clear the tail under
TAIL, and never change p0; PCNT and PSETVL write X[D] instead. -/
def Obligations.Predicates : Prop :=
  ∀ (s : State) (d a b g : BitVec 4) (r : BitVec 5),
    let n := s.hart.vec.vl
    let act := s.selected g n
    (s.pause = none → ∀ p ∈ [(Instr.pand d a b g, fun i => s.pbit a i && s.pbit b i), (.por d a b g, fun i => s.pbit a i || s.pbit b i),
      (.pxor d a b g, fun i => s.pbit a i ^^ s.pbit b i), (.pandn d a b g, fun i => s.pbit a i && !s.pbit b i),
      (.pnot d a g, fun i => !s.pbit a i)],
      ∃ t, exec p.1 s = .next t ∧ Sequential 4 s t ∧ VectorFrame s t ∧ KeepsX s t ∧ KeepsV s t ∧ PredWise d g n true p.2 s t) ∧
    (∃ t, exec (.pfirst d a g) s = .next t ∧ Sequential 4 s t ∧ VectorFrame s t ∧ KeepsX s t ∧ KeepsV s t ∧
      PredWise d g n true (fun i => decide (act.find? (s.pbit a) = some i)) s t) ∧
    (∃ t, exec (.pcnt r a g) s = .next t ∧ WritesX r (word (act.filter (s.pbit a)).length) (s.setVstart 0) t ∧ Sequential 4 s t) ∧
    (∃ t, exec (.psetvl r a g) s = .next t ∧ Sequential 4 s t ∧
      let new := (act.find? fun i => !s.pbit a i).getD n
      WritesX r (word new) (s.setVec { s.hart.vec with vl := new, vstart := 0 }) t)

/-- R131, R134, R137, R159: VMV copies, VSPLAT repeats the converted scalar under ETAG's tag, VSEL takes the first or the
second source by the predicate, VCVT converts over the range of the wider tag, VINS replaces one element below VLMAX and VMVX
returns one, zero beyond VLMAX, whatever VL, VSTART and the predicates are. The model's choices: a move writes the canonical
element (log 119), VCVT converts RN24 to RN12 and a residue tag to itself (log 108), and VINS and VMVX of hypervectors do not
check HDIM (log 140). -/
def Obligations.VectorMoves : Prop :=
  ∀ (s : State) (d a b : BitVec 6) (r x : BitVec 5) (c : BitVec 5) (g : BitVec 4) (t : Tag),
    let vt := s.hart.vec.vtype
    let done (i : Instr) (tag : Tag) (n w : Nat) (act : Nat → Bool) (f : Nat → Nat) : Prop :=
      ∃ u, exec i s = .next u ∧ Sequential 4 s u ∧ VectorFrame s u ∧ KeepsX s u ∧ KeepsP s u ∧ KeepsVBut d s u ∧
        ElementWise d tag n w act f s u
    let n := s.range t (tagWidth t)
    s.pause = none →
    ((s.v d).bound = none →
      ((s.v a).tag = t → t ≠ .none → fits s t = true → (s.v a).readable s.hart.vec.vstart n →
        done (.vmv d a g) t n (tagWidth t) (s.pbit g) (fun i => (canonElem t ((s.v a).elem t i)).1) ∧
        ((s.v b).tag = t → (s.v b).readable s.hart.vec.vstart n →
          done (.vsel d a b g) t n (tagWidth t) (fun _ => true) fun i =>
            (canonElem t (if s.pbit g i then (s.v a).elem t i else (s.v b).elem t i)).1)) ∧
      (vt.etag = t → t ≠ .none → fits s t = true →
        done (.vsplat d x g) t n (tagWidth t) (s.pbit g) fun _ => (convertScalar t vt (s.x x)).1) ∧
      (let w := max (tagWidth t) (tagWidth (tagField c))
       (s.v a).tag = t → convertible t (tagField c) = true → (s.v a).readable s.hart.vec.vstart (s.range t w) →
        done (.vcvt d a c g) (tagField c) (s.range t w) w (s.pbit g) fun i => (convert t (tagField c) vt ((s.v a).elem t i)).1) ∧
      ((s.v d).tag = t → t ≠ .none →
        ∃ u, exec (.vins d r x) s = .next u ∧ Sequential 4 s u ∧ VectorFrame s u ∧ KeepsX s u ∧ KeepsP s u ∧ KeepsVBut d s u ∧
          (u.v d).tag = t ∧ ∀ i, (u.v d).elem t i =
            if i = (s.x r).toNat ∧ i < s.vlmax (tagWidth t) then (convertScalar t vt (s.x x)).1 % 2 ^ (8 * tagWidth t)
            else (s.v d).elem t i)) ∧
    ((s.v a).tag = t → t ≠ .none →
      let i := (s.x x).toNat
      (s.v a).bound = none → (i < s.vlmax (tagWidth t) → (s.v a).present i (i + 1) = true) →
      ∃ u, exec (.vmvx r a x) s = .next u ∧ Sequential 4 s u ∧ VectorFrame s u ∧ KeepsXBut r s u ∧ KeepsP s u ∧ KeepsV s u ∧
        u.x r = (if r = 0 then 0 else if i < s.vlmax (tagWidth t) then
          (if tagClass t = .i then BitVec.ofInt 64 (signed (8 * tagWidth t) ((s.v a).elem t i))
           else if t = .hc then BitVec.ofInt 64 (max (-127) (signed 8 ((s.v a).elem t i)))
           else word (canonElem t ((s.v a).elem t i)).1) else 0))

/-- R108, R149, R150, R151, R204, R205: SETVL takes the smaller of X[B] and VLMAX of ETAG's width; VCFG and VTAG set the
fields of VTYPE and keep its sticky bits; VRETAG changes a tag and no bit; MMODE enters and leaves matrix mode with MVL in
X[D]; SETTILE takes the tile shape. -/
def Obligations.VectorConfiguration : Prop :=
  ∀ (s : State) (d b : BitVec 5) (v : BitVec 6) (e : BitVec 5) (sc : BitVec 1) (r : BitVec 3) (f : BitVec 2) (tl : BitVec 1),
    let rb := if s.hart.mat.mvl = 0 then s.hart.rb0 else 32 * s.hart.mat.mvl
    let vl := min (s.x b).toNat (rb / tagWidth s.hart.vec.vtype.etag)
    (∃ t, exec (.setvl d b) s = .next t ∧ Sequential 4 s t ∧ t.hart.vec = { s.hart.vec with vl := vl, vstart := 0 } ∧
      t.x d = (if d = 0 then 0 else word vl) ∧ KeepsXBut d s t ∧ KeepsV s t ∧ KeepsP s t ∧ KeepsRest s t ∧ KeepsMemory s t) ∧
    ((Instr.vcfg e sc r f tl).wellFormed = true →
      ∃ t, exec (.vcfg e sc r f tl) s = .next t ∧ Sequential 4 s t ∧
        { t.hart.vec with vtype := s.hart.vec.vtype } = s.hart.vec ∧ tagCode t.hart.vec.vtype.etag = e.toNat ∧
        rmCode t.hart.vec.vtype.rm = r.toNat ∧ fzCode t.hart.vec.vtype.fz = f.toNat ∧ t.hart.vec.vtype.sat = decide (sc = 1) ∧
        t.hart.vec.vtype.tail = decide (tl = 1) ∧ t.hart.vec.vtype.flags = s.hart.vec.vtype.flags ∧
        t.hart.vec.vtype.satf = s.hart.vec.vtype.satf ∧ t.hart.vec.vtype.rninv = s.hart.vec.vtype.rninv ∧ KeepsX s t ∧ KeepsV s t ∧
        KeepsP s t ∧ KeepsRest s t ∧ KeepsMemory s t ∧ KeepsOutside s t) ∧
    ((Instr.vtag e).wellFormed = true →
      ∃ t, exec (.vtag e) s = .next t ∧ Sequential 4 s t ∧ tagCode t.hart.vec.vtype.etag = e.toNat ∧
        t.hart.vec = { s.hart.vec with vtype := { s.hart.vec.vtype with etag := t.hart.vec.vtype.etag } } ∧ KeepsX s t ∧
        KeepsV s t ∧ KeepsP s t ∧ KeepsRest s t ∧ KeepsMemory s t ∧ KeepsOutside s t) ∧
    ((Instr.vretag v e).wellFormed = true → (s.v v).bound = none → (s.v v).absent = 0 →
      ∃ t, exec (.vretag v e) s = .next t ∧ Sequential 4 s t ∧ tagCode (t.v v).tag = e.toNat ∧ (t.v v).data = (s.v v).data ∧
        t.hart.vec = { s.hart.vec with vstart := 0 } ∧ KeepsX s t ∧ KeepsVBut v s t ∧ KeepsP s t ∧ KeepsRest s t ∧
        KeepsMemory s t ∧ KeepsOutside s t) ∧
    (let on := (s.x b).toNat % 2 = 1
     let mvl := if on then 64 * (if s.hart.mat.lpart = 0 then s.hart.pavilions else min s.hart.pavilions s.hart.mat.lpart) else 0
     (on → s.hart.mat.granted = true) →
      ∃ t, exec (.mmode d b) s = .next t ∧ Sequential 4 s t ∧ t.hart.mat.mvl = mvl ∧ t.x d = (if d = 0 then 0 else word mvl) ∧
        KeepsXBut d s t ∧ KeepsP s t ∧ KeepsMemory s t ∧ KeepsOutside s t ∧ t.hart.vec.vstart = 0 ∧
        (mvl ≠ s.hart.mat.mvl → t.hart.vec.vl = 0 ∧ t.hart.mat.wbuf = none ∧ t.hart.mat.tiles = Vector.replicate 4 {} ∧
          t.hart.mat.m = 0 ∧ t.hart.mat.n = 0 ∧ t.hart.mat.k = 0) ∧
        (mvl = s.hart.mat.mvl → t.hart.mat = s.hart.mat ∧ t.hart.vec.vl = s.hart.vec.vl ∧ KeepsV s t)) ∧
    (s.hart.mat.mvl ≠ 0 →
      ∃ t, exec (.settile d b) s = .next t ∧ Sequential 4 s t ∧
        t.hart.mat = { s.hart.mat with
          m := min ((s.x b).toNat % 2 ^ 16) (2 * s.hart.mat.mvl), n := min ((s.x b).toNat / 2 ^ 16 % 2 ^ 16) (2 * s.hart.mat.mvl)
          k := min ((s.x b).toNat / 2 ^ 32) 65535 } ∧
        t.x d = (if d = 0 then 0 else word (t.hart.mat.m + t.hart.mat.n * 2 ^ 16 + t.hart.mat.k * 2 ^ 32)) ∧ KeepsXBut d s t ∧
        KeepsV s t ∧ KeepsP s t ∧ t.hart.vec = { s.hart.vec with vstart := 0 } ∧ KeepsMemory s t ∧ KeepsOutside s t)

/-- R131, R161: the slides, the butterfly, the reversal, the permutation, compress and expand read their whole source before
they write, move the elements their rule names and zero or keep the rest. They are never stopped inside. That each element is
moved in its canonical form, where R161 speaks of bits, and that a VPERM index beyond its register reads as 0, are the
model's choices (log 119, log 132). R135, R161, R162: scans and reductions of the selected elements complete on every class
that has them; a reduction writes element 0 and nothing else but the tag. On I and W tags under SAT = 0: VSCAN gives running
sums, VREDSUM the sum, VREDAND, VREDOR and VREDXOR the bitwise combination, VREDMIN and VREDMAX the extreme, as of F numbers
too, and VREDMINI and VREDMAXI its first index as an I32. Nothing selected gives the identity of the table, on every class. -/
def Obligations.CrossLane : Prop :=
  (∀ (s : State) (d a vi : BitVec 6) (x : BitVec 5) (k g : BitVec 4) (t ti : Tag),
     let n := s.range t (tagWidth t)
     let src (i : Nat) := (canonElem t ((s.v a).elem t i)).1
     let j := (s.x x).toNat
     let act := s.selected g n
     let start := s.hart.vec.vstart
     let done (i : Instr) (n w : Nat) (act : Nat → Bool) (f : Nat → Nat) : Prop :=
       ∃ u, exec i s = .next u ∧ Sequential 4 s u ∧ VectorFrame s u ∧ KeepsX s u ∧ KeepsP s u ∧ KeepsVBut d s u ∧
         ElementWise d t n w act f s u
     (s.v d).bound = none → (s.v a).tag = t → t ≠ .none → fits s t = true →
     ((s.v a).readable 0 n →
       done (.vslideup d a x g) n (tagWidth t) (fun i => s.pbit g i && decide (j ≤ i)) (fun i => src (i - j)) ∧
       done (.vslidedn d a x g) n (tagWidth t) (s.pbit g) (fun i => if i + j < n then src (i + j) else 0) ∧
       done (.vbfly d a k g) n (tagWidth t) (s.pbit g)
         (fun i => if i ^^^ 2 ^ k.toNat < n then src (i ^^^ 2 ^ k.toNat) else src i) ∧
       done (.vrev d a g) n (tagWidth t) (s.pbit g) (fun i => src (n - 1 - i)) ∧
       done (.vcompress d a g) n (tagWidth t) (fun i => decide (i - start < act.length)) (fun i => src (act.getD (i - start) 0)) ∧
       done (.vexpand d a g) n (tagWidth t) (s.pbit g)
         (fun i => src (start + (act.filter fun q => decide (q < i)).length))) ∧
     (let w := max (tagWidth t) (tagWidth ti)
      let m := s.range t w
      (s.v vi).tag = ti → tagClass ti = .i ∨ tagClass ti = .w → (s.v a).readable 0 m → (s.v vi).readable 0 m →
       done (.vperm d a vi g) m w (s.pbit g) (fun i => if (s.v vi).elem ti i < m then src ((s.v vi).elem ti i) else 0))) ∧
  (∀ (s : State) (d a : BitVec 6) (g : BitVec 4) (t : Tag),
     let n := s.range t (tagWidth t)
     let w := 8 * tagWidth t
     let l := (s.selected g n).map fun i => (s.v a).elem t i
     let isInt := tagClass t = .i ∨ tagClass t = .w
     let val (k : Nat) := ((fmtOf t).decode k).scaled 2200
     let keep (s u : State) : Prop :=
       Sequential 4 s u ∧ VectorFrame s u ∧ KeepsX s u ∧ KeepsP s u ∧ KeepsVBut d s u
     (s.v d).bound = none → (s.v a).tag = t → t ≠ .none → (s.v a).readable 0 n →
     (isInt ∨ tagClass t = .f ∨ tagClass t = .rn →
       ∃ u f, exec (.vscan d a g) s = .next u ∧ keep s u ∧ ElementWise d t n (tagWidth t) (s.pbit g) f s u ∧
         (isInt → s.hart.vec.vtype.sat = false → ∀ i, i < n → s.hart.vec.vstart ≤ i → s.pbit g i = true →
           f i % 2 ^ w = (((s.selected g (i + 1)).map fun j => (s.v a).elem t j).sum) % 2 ^ w)) ∧
     (∀ p ∈ [(Instr.vredsum d a g, RedOp.sum, l.sum % 2 ^ w), (.vredand d a g, .and, l.foldl (· &&& ·) (2 ^ w - 1)),
       (.vredor d a g, .or, l.foldl (· ||| ·) 0), (.vredxor d a g, .xor, l.foldl (· ^^^ ·) 0)],
       p.2.1.defined (tagClass t) = true →
       ∃ u, exec p.1 s = .next u ∧ keep s u ∧ (u.v d).tag = t ∧ (∀ i, i ≠ 0 → (u.v d).elem t i = (s.v d).elem t i) ∧
         (s.hart.vec.vl = 0 → (u.v d).data = (s.v d).data) ∧ (s.hart.vec.vl ≠ 0 → l = [] → (u.v d).elem t 0 = p.2.2) ∧
         (isInt → s.hart.vec.vtype.sat = false → s.hart.vec.vl ≠ 0 → (u.v d).elem t 0 = p.2.2)) ∧
     (∀ p ∈ [(Instr.vredmin d a g, false), (.vredmax d a g, true)],
       isInt ∨ tagClass t = .f →
       ∃ u, exec p.1 s = .next u ∧ keep s u ∧ (u.v d).tag = t ∧ (∀ i, i ≠ 0 → (u.v d).elem t i = (s.v d).elem t i) ∧
         (isInt → s.hart.vec.vl ≠ 0 → l ≠ [] → (u.v d).elem t 0 ∈ l ∧ ∀ k ∈ l,
           if p.2 then intValue t k ≤ intValue t ((u.v d).elem t 0) else intValue t ((u.v d).elem t 0) ≤ intValue t k) ∧
         (s.hart.vec.vl ≠ 0 → l = [] → (u.v d).elem t 0 = (if tagClass t = .f then canonicalNan t
           else if tagClass t = .w then (if p.2 then 0 else 2 ^ w - 1) else if p.2 then 2 ^ (w - 1) else 2 ^ (w - 1) - 1)) ∧
         (tagClass t = .f → s.hart.vec.vtype.fz = .keep → s.hart.vec.vl ≠ 0 → l ≠ [] → (∀ k ∈ l, (val k).isSome = true) →
           val ((u.v d).elem t 0) ∈ l.map val ∧ ∀ k ∈ l, ∀ y z, val k = some y → val ((u.v d).elem t 0) = some z →
             if p.2 then y ≤ z else z ≤ y)) ∧
     (∀ p ∈ [(Instr.vredmini d a g, false), (.vredmaxi d a g, true)],
       let m := s.range t (max 4 (tagWidth t))
       isInt ∨ tagClass t = .f →
       ∃ u, exec p.1 s = .next u ∧ keep s u ∧ (u.v d).tag = .i32 ∧
         (isInt → s.hart.vec.vl ≠ 0 →
           (s.selected g m = [] → (u.v d).elem .i32 0 = 2 ^ 32 - 1) ∧
           (s.selected g m ≠ [] → ∃ i ∈ s.selected g m, (u.v d).elem .i32 0 = i % 2 ^ 32 ∧ ∀ j ∈ s.selected g m,
             let x := intValue t ((s.v a).elem t i)
             let y := intValue t ((s.v a).elem t j)
             (if p.2 then y ≤ x else x ≤ y) ∧ (x = y → i ≤ j)))))

/-- R138, R142, R226, R387: in every element-wise form with vector sources, sources that carry NONE, differ in tag or have no
such operation trap TAGMISMATCH with both codes in TVAL; then a hypervector that does not fit its register traps so with the
one tag, and then a bound destination traps STREAM with its number. None changes a register, a predicate or memory; what the
hart has issued ahead is discarded. A form that takes its tag from ETAG traps TAGMISMATCH when that is NONE. The model's
choices: of the three sources of a fused form the first two are named (log 22), TSTART is 0 whatever VSTART is (log 50), the
pairs of residue tags that R137 does not list convert (log 108), and VCVT of a register tagged NONE has a zero second tag
(log 110). -/
def Obligations.VectorChecks : Prop :=
  ∀ (s : State) (d a b : BitVec 6) (q g : BitVec 4) (x c : BitVec 5), s.hart.trap.status.eip = false →
    let stays (t : State) : Prop :=
      TrapInfoIs 0 0 0 0 t ∧ KeepsX s t ∧ KeepsV s t ∧ KeepsP s t ∧ KeepsMemory s.discard t ∧ KeepsOutside s.discard t
    (∀ p ∈ elementForms s d a b q g x c,
      (p.2.2.1 = false → ∃ t, exec p.1 s = .next t ∧ stays t ∧
        Entered { cause := .tagMismatch, val := word (tagCode (s.v a).tag + tagCode p.2.1 * 2 ^ 8) } s t) ∧
      (p.2.2.1 = true → fits s (s.v a).tag = false → ∃ t, exec p.1 s = .next t ∧ stays t ∧
        Entered { cause := .tagMismatch, val := word (tagCode (s.v a).tag) } s t) ∧
      (p.2.2.1 = true → fits s (s.v a).tag = true → p.2.2.2 = true → (s.v d).bound ≠ none →
        ∃ t, exec p.1 s = .next t ∧ stays t ∧ Entered { cause := .stream, val := word d.toNat } s t)) ∧
    ∀ i ∈ [Instr.vsplat d x g, .viota d q g], s.hart.vec.vtype.etag = .none →
      ∃ t, exec i s = .next t ∧ stays t ∧ Entered { cause := .tagMismatch } s t

/-- R83, R141, R145: an element-wise instruction that stops at an element-group boundary, where an interrupt may come, and
runs on from VSTART leaves the registers, predicates, VTYPE, TAINT, pc and loops that it leaves when it does not stop,
whatever its destination is. The one form left out is a VCVT onto its own source register that changes the tag. -/
def Obligations.StopAndResume : Prop :=
  ∀ (s : State) (d a b : BitVec 6) (q g : BitVec 4) (x c : BitVec 5) (k : Nat) (t : Tag),
    let same (i : Instr) (n : Nat) : Prop :=
      s.hart.vec.vstart < k / 16 * 16 → k / 16 * 16 < n →
      ∃ u v w, exec i { s with pause := some k } = .next u ∧ u.hart.pc = s.hart.pc ∧ u.hart.vec.vstart = k / 16 * 16 ∧
        u.pause = none ∧ exec i u = .next v ∧ exec i { s with pause := none } = .next w ∧
        v.hart.v = w.hart.v ∧ v.hart.vec = w.hart.vec ∧ v.hart.taint = w.hart.taint ∧ v.hart.pc = w.hart.pc ∧
        v.hart.loops = w.hart.loops ∧ v.hart.x = w.hart.x ∧ v.hart.p = w.hart.p
    ((s.v a).tag = t → fits s t = true → (s.v d).bound = none → ∀ p ∈ elementForms s d a b q g x c, p.2.2.1 = true →
      let n := s.range t (if p.1 = .vcvt d a c g then max (tagWidth t) (tagWidth (tagField c)) else tagWidth t)
      (p.1 = .vcvt d a c g → d ≠ a ∨ tagField c = t) →
      (∀ r ∈ [a, b, d], (s.v r).readable s.hart.vec.vstart n) → same p.1 n) ∧
    (s.hart.vec.vtype.etag = t → t ≠ .none → fits s t = true → (s.v d).bound = none →
      same (.vsplat d x g) (s.range t (tagWidth t))) ∧
    ∀ (e h j : BitVec 4), ∀ i ∈ [Instr.pand q e h j, .por q e h j, .pxor q e h j, .pandn q e h j, .pnot q e j],
      same i s.hart.vec.vl

/-! ### Vector memory -/

/-- R164, R165, R170, R183: a vector load whose elements pass their checks reads each selected element, at the address of its
form, into the destination under ETAG's tag, keeps every other element, the tail included, and leaves its groups present;
every byte reads as before. When its elements return one at a time it first stays at pc with all of them outstanding; an
element that returns does the same for that element; and the load completes when none is left. Here the load has not stopped
before, and the hart has performed its earlier accesses. -/
def Obligations.VectorLoads : Prop :=
  ∀ (s : State) (d vi : BitVec 6) (x xs : BitVec 5) (o : BitVec 1) (g : BitVec 4) (t : Tag) (key : Nat → Nat),
    let w := tagWidth t
    let ti := (s.v vi).tag
    let idx (i : Nat) : Int := if tagClass ti = .i then signed (8 * tagWidth ti) ((s.v vi).elem ti i) else (s.v vi).elem ti i
    s.hart.vec.vtype.etag = t → t ≠ .none → s.dev.combines = [] → s.hart.late = [] →
    (fits s t = true → (s.v d).bound = none → (s.v d).absent = 0 → s.pause = none → s.hart.load = none → s.hart.pinned = none →
      s.resumes = false →
      ∀ p ∈ [(Instr.vld d x o g, s.range t w, fun i => s.x x + word (w * i), true),
      (.vlds d x xs o g, s.range t w, fun i => s.x x + s.x xs * word i, true),
      (.vldx d x vi o g, s.range t (max w (tagWidth ti)), fun i => s.x x + BitVec.ofInt 64 (w * idx i),
        (tagClass ti = .i || tagClass ti = .w) && (s.v vi).bound.isNone && (s.v vi).present s.hart.vec.vstart (s.range t (max w (tagWidth ti))))],
      let sel := s.selected g p.2.1
      p.2.2.2 = true → OnPinnedPages s .load w sel p.2.2.1 key →
      (s.core.flying = true → s.hart.vec.vstart < p.2.1 →
        ∃ u, exec p.1 s = .next u ∧ u.hart.pc = s.hart.pc ∧ u.hart.counts = s.hart.counts ∧ KeepsX s u ∧ KeepsVBut d s u ∧
          KeepsMemory s u ∧ (u.v d).data = (s.v d).data ∧ (∀ i ∈ sel, (u.v d).absent.testBit (i / 16) = true) ∧
          u.hart.load.map (fun l => l.items.map fun e => (e.i, e.key)) = some (sel.map fun i => (i, key i))) ∧
      ∀ val : Nat → Nat, (∀ i ∈ sel, (s.seen true i (key i) w).map Prod.fst = some (val i)) → s.core.flying = false →
      ∃ u, exec p.1 s = .next u ∧ Sequential 4 s u ∧ KeepsX s u ∧ KeepsP s u ∧ KeepsFcsr s u ∧ KeepsVBut d s u ∧
        u.hart.vec = { s.hart.vec with vstart := 0 } ∧ KeepsTrap s u ∧ KeepsUnits s u ∧ KeepsMemory s u ∧ KeepsDevice s u ∧
        (u.v d).tag = t ∧ (u.v d).absent = 0 ∧ (u.v d).bound = none ∧
        ∀ i, (u.v d).elem t i = if i ∈ sel then val i % 2 ^ (8 * w) else (s.v d).elem t i) ∧
    (∀ (k : BitVec 16) (l : OutstandingLoad) (e : LoadItem), l.items[k.toNat]? = some e → (l.ordered = true → k = 0) →
      l.reg = d.toNat → l.width = w → e.window = none → ∀ val, (s.seen true e.i e.key w).map Prod.fst = some val →
      ∃ u, exec (.loadDataReturn k) { s with hart := { s.hart with load := some l } } = .next u ∧ u.hart.pc = s.hart.pc ∧
        KeepsX s u ∧ KeepsVBut d s u ∧ KeepsMemory s u ∧ u.hart.load.map (fun l => l.items) = some (l.items.eraseIdx k.toNat) ∧
        ∀ i, (u.v d).elem t i = if i = e.i then val % 2 ^ (8 * w) else (s.v d).elem t i) ∧
    ∀ l : OutstandingLoad, s.hart.load = some l → l.reg = d.toNat → l.items = [] → l.fails = [] → l.strip = none →
      ∀ i ∈ [Instr.vld d x o g, .vlds d x xs o g, .vldx d x vi o g],
      ∃ u, exec i s = .next u ∧ Sequential 4 s u ∧ u.hart.load = none ∧ u.v d = { s.v d with tag := l.tag } ∧ KeepsX s u ∧
        KeepsVBut d s u ∧ KeepsP s u ∧ u.hart.vec = { s.hart.vec with vstart := 0 } ∧ KeepsMemory s u ∧ KeepsOutside s u

/-- R164, R165, R174, R323: a vector store whose elements pass their checks gives each selected element to the bytes at the
address of its form, the highest of two elements for the same byte, as the hart's own vector loads see it, and to no other
byte for any reader; it writes no register but VSTART. The write-combining buffer is empty before it; the store has not
stopped before, and the hart performs its accesses in order. -/
def Obligations.VectorStores : Prop :=
  ∀ (s : State) (d vi : BitVec 6) (x xs : BitVec 5) (o : BitVec 1) (g : BitVec 4) (t : Tag) (key : Nat → Nat),
    let w := tagWidth t
    let ti := (s.v vi).tag
    let idx (i : Nat) : Int := if tagClass ti = .i then signed (8 * tagWidth ti) ((s.v vi).elem ti i) else (s.v vi).elem ti i
    s.memoryWf → (s.v d).tag = t → t ≠ .none → fits s t = true → s.pause = none → s.core.wcb = [] → s.dev.combines = [] →
    s.hart.prov = none → s.hart.pinned = none → s.inOrder →
    ∀ p ∈ [(Instr.vst d x o g, s.range t w, fun i => s.x x + word (w * i), true),
      (.vsts d x xs o g, s.range t w, fun i => s.x x + s.x xs * word i, true),
      (.vstx d x vi o g, s.range t (max w (tagWidth ti)), fun i => s.x x + BitVec.ofInt 64 (w * idx i),
        (tagClass ti = .i || tagClass ti = .w) && (s.v vi).bound.isNone && (s.v vi).present s.hart.vec.vstart (s.range t (max w (tagWidth ti))))],
    let sel := s.selected g p.2.1
    p.2.2.2 = true → (s.v d).readable s.hart.vec.vstart p.2.1 → OnPinnedPages s .store w sel p.2.2.1 key →
    ∃ u, exec p.1 s = .next u ∧ Sequential 4 s u ∧ KeepsX s u ∧ KeepsRegisters (s.setVstart 0) u ∧
      u.hart.streams = s.hart.streams ∧
      (∀ i ∈ sel, ∀ j, j < w → (∀ k ∈ sel, i < k → ¬(key k ≤ key i + j ∧ key i + j < key k + w)) →
        u.viewByte s.hart.ident.uid .vector (key i + j) = BitVec.ofNat 8 ((s.v d).elem t i / 2 ^ (8 * j))) ∧
      ∀ k, (∀ i ∈ sel, k < key i ∨ key i + w ≤ k) →
        Memory.read u.dev.mem k = Memory.read s.dev.mem k ∧ ∀ h r, u.viewByte h r k = s.viewByte h r k

/-- R175, R176, R325: a combining scatter applies its operation, at the coherence point, to the bytes of each selected
element; here the combines are applied as they are issued, the hart has performed its earlier accesses, and no two name one
address. Every other byte stays, and no register but VSTART and TAINT changes. R177, R183, R340: a vector atomic returns the
old element at each selected address and puts the operation's result of it and its own element there, at the coherence point;
here no two elements name one address and the hart has performed its earlier accesses. Elements it does not select and bytes
it does not name stay, TAINT gains ATOM and SEEN. -/
def Obligations.VectorUpdates : Prop :=
  (∀ (s : State) (d vi : BitVec 6) (x : BitVec 5) (o : BitVec 1) (g : BitVec 4) (t : Tag) (key : Nat → Nat),
     let w := tagWidth t
     let ti := (s.v vi).tag
     let n := s.range t (max w (tagWidth ti))
     let idx (i : Nat) : Int := if tagClass ti = .i then signed (8 * tagWidth ti) ((s.v vi).elem ti i) else (s.v vi).elem ti i
     let sel := s.selected g n
     s.memoryWf → (s.v d).tag = t → fits s t = true → s.pause = none → s.core.wcb = [] → s.dev.combines = [] → s.core.eager = true →
     s.hart.late = [] → s.hart.pinned = none →
     tagClass ti = .i ∨ tagClass ti = .w → (s.v vi).readable s.hart.vec.vstart n → (s.v d).readable s.hart.vec.vstart n →
     OnPinnedPages s .atomic w sel (fun i => s.x x + BitVec.ofInt 64 (w * idx i)) key →
     (∀ i ∈ sel, ∀ j ∈ sel, i ≠ j → key i + w ≤ key j ∨ key j + w ≤ key i) →
     ∀ p ∈ [(Instr.vcadd d x vi o g, CombineOp.add), (.vcmin d x vi o g, .min), (.vcmax d x vi o g, .max), (.vcor d x vi o g, .or)],
     p.2.defined t = true →
     ∃ u, exec p.1 s = .next u ∧ Sequential 4 s u ∧ KeepsX s u ∧ KeepsRegisters (s.setVstart 0) u ∧
       u.hart.streams = s.hart.streams ∧
       (∀ i ∈ sel, u.dev.read (key i) w =
         (let old := s.dev.read (key i) w
          let e := (s.v d).elem t i
          if tagClass t = .i ∨ tagClass t = .w then (match p.2 with
            | .add => (old + e) % 2 ^ (8 * w)
            | .min => if intValue t e < intValue t old then e else old
            | .max => if intValue t old < intValue t e then e else old
            | .or => old ||| e)
          else p.2.apply t old e % 2 ^ (8 * w))) ∧
       ∀ k, (∀ i ∈ sel, k < key i ∨ key i + w ≤ k) → Memory.read u.dev.mem k = Memory.read s.dev.mem k) ∧
  (∀ (s : State) (d vi : BitVec 6) (x : BitVec 5) (o : BitVec 1) (g : BitVec 4) (t : Tag) (key : Nat → Nat),
     let w := tagWidth t
     let ti := (s.v vi).tag
     let n := s.range t (max w (tagWidth ti))
     let idx (i : Nat) : Int := if tagClass ti = .i then signed (8 * tagWidth ti) ((s.v vi).elem ti i) else (s.v vi).elem ti i
     let sel := s.selected g n
     s.memoryWf → s.hart.detm.atom = false → (s.v d).tag = t → s.pause = none → s.core.wcb = [] → s.dev.combines = [] →
     s.hart.late = [] → s.hart.pinned = none →
     tagClass ti = .i ∨ tagClass ti = .w → (s.v vi).readable s.hart.vec.vstart n → (s.v d).readable s.hart.vec.vstart n →
     OnPinnedPages s .atomic w sel (fun i => s.x x + BitVec.ofInt 64 (w * idx i)) key →
     (∀ i ∈ sel, s.dev.poisoned (key i) w = none) →
     (∀ i ∈ sel, ∀ j ∈ sel, i ≠ j → key i + w ≤ key j ∨ key j + w ≤ key i) →
     ∀ p ∈ [(Instr.vaadd d x vi o g, fun a b => (a + b) % 2 ^ (8 * w)),
       (.vamin d x vi o g, fun a b => if intValue t b < intValue t a then b else a),
       (.vamax d x vi o g, fun a b => if intValue t a < intValue t b then b else a), (.vaand d x vi o g, fun a b => a &&& b),
       (.vaor d x vi o g, fun a b => a ||| b), (.vaxor d x vi o g, fun a b => a ^^^ b), (.vaswap d x vi o g, fun _ b => b)],
     t = .i32 ∨ t = .i64 ∨ t = .w32 ∨ t = .w64 ∨ ((t = .f32 ∨ t = .f64) ∧ p.1 = .vaswap d x vi o g) →
     ∃ u, exec p.1 s = .next u ∧ Sequential 4 s u ∧ KeepsX s u ∧ KeepsP s u ∧ KeepsFcsr s u ∧ KeepsVBut d s u ∧
       u.hart.vec = { s.hart.vec with vstart := 0 } ∧ KeepsTrap s u ∧ (u.v d).tag = t ∧
       (∀ i, (u.v d).elem t i = if i ∈ sel then s.dev.read (key i) w else (s.v d).elem t i) ∧
       (∀ i ∈ sel, u.dev.read (key i) w = p.2 (s.dev.read (key i) w) ((s.v d).elem t i)) ∧
       (∀ k, (∀ i ∈ sel, k < key i ∨ key i + w ≤ k) → Memory.read u.dev.mem k = Memory.read s.dev.mem k) ∧
       (sel ≠ [] → u.hart.taint.atom = true ∧ u.hart.taint.seen = true))

/-- R186, R188, R191, R193: VBIND binds a free register to a free slot by its record; VUNBIND frees the slot and leaves the
register zero bits under its tag; VBSTAT returns the slot's status, zero for a free one; a stream fetch reads the next
element that the strip buffer lacks. The model's choices: VBSTAT clears VSTART as every vector instruction does (log 40), and
shows the low 32 bits of CONSUMED (log 106). R86, R189: an instruction that reads a bound register takes the next elements of
its stream, decoded into the register's tag, in place of the register's bits, and consumes them when it completes; here VMV
with a whole strip that the buffer holds. -/
def Obligations.Streams : Prop :=
  (∀ (s u : State) (d : BitVec 6) (r x : BitVec 5) (k : BitVec 3) (q : List Nat) (tn : Bool),
     (let va := s.x x
      s.stream k.toNat = none → (s.v d).bound = none → va.toNat % 64 = 0 →
       readWords va.toNat (recordReadFrame va) 0 8 s = .ok ((q, tn), u) →
       recordValid (fun i => q.getD i 0) s.core.scratchSize s.rb = true →
       ∃ t b, exec (.vbind d k x) s = .next t ∧ Sequential 4 u t ∧ KeepsX u t ∧ KeepsVBut d u t ∧ KeepsP u t ∧ KeepsMemory u t ∧
         t.stream k.toNat = some b ∧ b.reg = d.toNat ∧ b.base = word (q.getD 0 0) ∧ b.stride = word (q.getD 1 0) ∧
         b.length = q.getD 2 0 % 2 ^ 32 ∧ b.consumed = 0 ∧ b.streamEnd = false ∧ (t.v d).bound = some k.toNat ∧
         tagCode (t.v d).tag = q.getD 3 0 / 2 ^ 8 % 2 ^ 5) ∧
     (∃ t, exec (.vunbind k) s = .next t ∧ Sequential 4 s t ∧ KeepsX s t ∧ KeepsP s t ∧ KeepsMemory s t ∧ KeepsOutside s t ∧
       t.hart.vec = { s.hart.vec with vstart := 0 } ∧ t.stream k.toNat = none ∧
       (match s.stream k.toNat with
        | none => KeepsV s t
        | some b => b.reg = d.toNat → KeepsVBut d s t ∧ (t.v d).bound = none ∧ (t.v d).data = 0 ∧ (t.v d).tag = (s.v d).tag)) ∧
     (∃ t, exec (.vbstat r k) s = .next t ∧ Sequential 4 s t ∧
       WritesX r (match s.stream k.toNat with
         | none => 0
         | some b => word (b.consumed % 2 ^ 32 + (if b.streamEnd then 2 ^ 32 else 0) + 2 ^ 33 + b.reg % 64 * 2 ^ 34)) (s.setVstart 0) t) ∧
     (∀ b, s.stream k.toNat = some b → b.buffer = [] → b.consumed < b.length → 0 < b.depth * s.range b.ttag (tagWidth b.ttag) →
       ∃ t b', exec (.streamFetch k) s = .next t ∧ t.stream k.toNat = some b' ∧ b'.buffer.map (fun e => e.e) = [b.consumed] ∧
         b'.consumed = b.consumed ∧ KeepsX s t ∧ KeepsV s t ∧ KeepsP s t ∧ t.hart.pc = s.hart.pc)) ∧
  (∀ (s : State) (d a : BitVec 6) (g : BitVec 4) (k : BitVec 3) (b : Binding) (raw scale : Nat → Nat),
     let n := s.range b.ttag (tagWidth b.ttag)
     s.pause = none → (s.v d).bound = none → (s.v a).bound = some k.toNat → s.stream k.toNat = some b → (s.v a).tag = b.ttag →
     b.ttag ≠ .none → fits s b.ttag = true → b.spoiled = false → b.consumed + n ≤ b.length →
     b.buffer = (List.range n).map (fun i =>
       { e := b.consumed + i, raw := raw i, scale := scale i, taint := false, failure := none, onScale := false }) →
     ∃ t, exec (.vmv d a g) s = .next t ∧ Sequential 4 s t ∧ KeepsX s t ∧ KeepsP s t ∧ KeepsVBut d s t ∧ KeepsMemory s t ∧
       KeepsOutside s t ∧
       ElementWise d b.ttag n (tagWidth b.ttag) (s.pbit g) (fun i => (canonElem b.ttag (decodeStrip b (raw i) (scale i)).1).1) s t ∧
       t.stream k.toNat = some { b with
         consumed := b.consumed + n, streamEnd := b.streamEnd || decide (b.length < b.consumed + n), buffer := [] })

/-! ### The matrix unit -/

/-- R206, R208, R211, R212, R213: on a tile that fits the mode, for shapes as R205 sets them. MZERO clears cells and tags and
makes the scales 1.0; MCVT converts each cell, times its row and column scale, into the tag and clears the cells of its
blocks outside M by N; MRDROW and MWRROW move one row; MSCL loads the scales. Nothing else of the tiles and registers
changes. That MRDROW of blocks whose tags differ completes is the model's choice (log 111), and so is the canonical form of a
moved residue (log 119). R214, R215, R216: MWLD loads rows of weights from plain memory into the weight buffer and writes
nothing else but VSTART; the values of the dense encoding stand in row order. The largest of several row counts that fit is
the model's choice (log 42). -/
def Obligations.MatrixTiles : Prop :=
  (∀ (s : State) (t : BitVec 2) (d a b : BitVec 6) (x c : BitVec 5),
     let m := s.hart.mat
     let bs := m.blocks t.toNat
     let ta := (s.v a).tag
     let tag := (m.tile t.toNat).tag
     let row := (s.x x).toNat
     let scales (r : BitVec 6) : Prop := ∃ q ∈ bs, r = scaleReg q
     m.mvl ≠ 0 → (m.small = true ∨ t = 0) → m.m ≤ 2 * m.mvl → m.n ≤ 2 * m.mvl →
     ((∀ q ∈ bs, (s.v (scaleReg q)).bound = none) →
       (∃ u, exec (.mzero t) s = .next u ∧ Sequential 4 s u ∧ MatrixFrame s u ∧ (∀ r, ¬scales r → u.v r = s.v r) ∧
         (∀ q, q < 4 → u.hart.mat.tile q = if q ∈ bs then {} else m.tile q) ∧
         ∀ q ∈ bs, (u.v (scaleReg q)).tag = .f32 ∧ ∀ i, i < 2 * m.mvl → (u.v (scaleReg q)).elem .f32 i = 0x3F800000) ∧
       (ta = .f32 → (s.v b).tag = .f32 → (s.v a).readable 0 m.m → (s.v b).readable 0 m.n →
         ∃ u, exec (.mscl t a b) s = .next u ∧ Sequential 4 s u ∧ MatrixFrame s u ∧ u.hart.mat = m ∧
           (∀ r, ¬scales r → u.v r = s.v r) ∧ (∀ q ∈ bs, (u.v (scaleReg q)).tag = .f32) ∧
           (∀ i, i < m.m → ∀ q ∈ bs, m.small = true ∨ q / 2 = i / m.mvl →
             (u.v (scaleReg q)).elem .f32 (i % m.mvl) = (s.v a).elem .f32 i) ∧
           (∀ j, j < m.n → ∀ q ∈ bs, m.small = true ∨ q % 2 = j / m.mvl →
             (u.v (scaleReg q)).elem .f32 (m.mvl + j % m.mvl) = (s.v b).elem .f32 j))) ∧
     ((∀ q ∈ bs, (m.tile q).tag ∈ [Tag.f32, .i32, .rn12, .rn24] ∧ (s.v (scaleReg q)).tag = .f32) →
       ∃ u, exec (.mcvt t c) s = .next u ∧ Sequential 4 s u ∧ MatrixFrame s u ∧
         (∀ r, { u.v r with taint := (s.v r).taint } = s.v r) ∧
         (∀ q, q ∉ bs → u.hart.mat.tile q = m.tile q) ∧ (∀ q ∈ bs, (u.hart.mat.tile q).tag = tagField c) ∧
         (∀ q ∈ bs, ∀ k, (∀ i j, i < m.m → j < m.n → m.blockOf t.toNat i j = q → m.cellIndex i j ≠ k) →
           item 32 (u.hart.mat.tile q).data k = 0) ∧
         ∀ i j, i < m.m → j < m.n →
           let q := m.blockOf t.toNat i j
           let scale (k : Nat) : Fv := fmtF32.decode ((s.v (scaleReg q)).elem .f32 k)
           u.hart.mat.cell t.toNat i j = (cvtCell (tagField c) (cellValue (m.tile q).tag (m.cell t.toNat i j)).1
             (scale (i % m.mvl)) (scale (m.mvl + j % m.mvl))).1 % 2 ^ 32) ∧
     (row < m.m →
       (tag ≠ .none → (s.v d).bound = none → m.n ≤ s.vlmax (tagWidth tag) →
         ∃ u, exec (.mrdrow d t x) s = .next u ∧ Sequential 4 s u ∧ MatrixFrame s u ∧ u.hart.mat = m ∧ KeepsVBut d s u ∧
           ((∀ q ∈ bs, (m.tile q).tag = tag) → (u.v d).tag = tag ∧ ∀ j, j < s.vlmax (tagWidth tag) → (u.v d).elem tag j =
             if j < m.n then (canonElem tag (m.cell t.toNat row j)).1 % 2 ^ (8 * tagWidth tag)
             else if s.hart.vec.vtype.tail = true then 0 else (s.v d).elem tag j)) ∧
       (ta ∈ [Tag.f32, .i32, .rn12, .rn24] → (∀ q ∈ bs, (m.tile q).tag = .none ∨ (m.tile q).tag = ta) →
         m.n ≤ s.vlmax (tagWidth ta) → (s.v a).readable 0 m.n →
         ∃ u, exec (.mwrrow t a x) s = .next u ∧ Sequential 4 s u ∧ MatrixFrame s u ∧
           (∀ r, { u.v r with taint := (s.v r).taint } = s.v r) ∧ (∀ q ∈ bs, (u.hart.mat.tile q).tag = ta) ∧
           (∀ q, q ∉ bs → u.hart.mat.tile q = m.tile q) ∧
           (∀ q k, (∀ j, j < m.n → m.blockOf t.toNat row j = q → m.cellIndex row j ≠ k) →
             item 32 (u.hart.mat.tile q).data k = item 32 (m.tile q).data k) ∧
           ∀ i j, i < m.m → j < m.n → u.hart.mat.cell t.toNat i j =
             if i = row then (canonElem ta ((s.v a).elem ta j)).1 % 2 ^ 32 else m.cell t.toNat i j))) ∧
  (∀ (s : State) (e f : BitVec 2) (a b : BitVec 5) (rows : Nat) (key : Nat → Nat),
     let m := s.hart.mat
     let va := (s.x a).toNat
     let len := (s.x b).toNat
     let w := tagWidth (weightTag f.toNat)
     let d := (List.range len).map fun i => s.dev.read (key i) 1
     m.mvl ≠ 0 → m.n ≠ 0 → len ≤ s.weightCapacity → (e.toNat % 2 = 1 → m.n % 8 = 0) → rowsOf e.toNat w m.n len = some rows →
     va + len ≤ 2 ^ 64 → InPlainMemory s va len 1 key →
     (∀ i c, va ≤ i → i + c ≤ va + len → i / 4096 = (i + c - 1) / 4096 → ∃ pl, s.locate i c .load = .ok (pl, s)) →
     nibblesOk e.toNat w m.n rows d = true →
     ∃ u buf, exec (.mwld e f a b) s = .next u ∧ Sequential 4 s u ∧ KeepsX s u ∧ KeepsV s u ∧ KeepsP s u ∧ KeepsFcsr s u ∧
       u.hart.vec = { s.hart.vec with vstart := 0 } ∧ KeepsTrap s u ∧ KeepsTaint s u ∧ KeepsMemory s u ∧ KeepsOutside s u ∧
       u.hart.mat = { m with wbuf := some buf, waddr := s.x a, wlen := s.x b } ∧
       KeepsUnits (s.setMat u.hart.mat) u ∧ buf.n = m.n ∧ buf.fmt = weightTag f.toNat ∧
       buf.enc = e.toNat ∧ buf.rows.length = rows ∧
       (e = 0 → ∀ k j, k < rows → j < m.n → (buf.rows.getD k []).getD j 0 =
         if w = 1 then d.getD (k * m.n + j) 0 else d.getD (2 * (k * m.n + j)) 0 + 256 * d.getD (2 * (k * m.n + j) + 1) 0))

/-- R136, R209, R210: MMAC adds to each cell of an active row the products of A's row and B's column in ascending k, from
VSTART 0 on: exactly on I8 and HB with one wrap to 32 bits, by fused operations with one rounding each on F16, BF16 and F32,
and by steps on F8 and residues. MMACW takes B from the weight buffer. The tile takes the accumulator tag; other rows,
registers and memory stay. -/
def Obligations.MatrixAccumulate : Prop :=
  ∀ (s : State) (t : BitVec 2) (a b : BitVec 6) (g : BitVec 4) (acc : Tag),
    let m := s.hart.mat
    let ta := (s.v a).tag
    let na := operandSize ta m.m m.k
    let nb := operandSize ta m.n m.k
    let done (i : Instr) (bElem : Nat → Nat) : Prop :=
      ∃ u, exec i s = .next u ∧ Sequential 4 s u ∧ MatrixFrame s (s.countersOf u) ∧
        (∀ r, { u.v r with taint := (s.v r).taint } = s.v r) ∧ (∀ q ∈ m.blocks t.toNat, (u.hart.mat.tile q).tag = acc) ∧
        ∀ i j, i < m.m → j < m.n →
          let c := m.cell t.toNat i j
          let pair (k : Nat) : Nat × Nat := ((s.v a).elem ta (k * m.m + i), bElem (k * m.n + j))
          u.hart.mat.cell t.toNat i j =
            if (s.p g m.m).testBit i = false then c
            else match ta with
              | .i8 => wrap 32 ((List.range m.k).foldl (fun z k => z + signed 8 (pair k).1 * signed 8 (pair k).2) (c : Int))
              | .hb => wrap 32 ((List.range m.k).foldl (fun z k =>
                  if (pair (k / 32)).1.testBit (k % 32) = (pair (k / 32)).2.testBit (k % 32) then z + 1 else z - 1) (c : Int))
              | .bf16 | .f16 | .f32 => (List.range m.k).foldl (fun z k => (fpFma fmtF32 .rne false false false
                  ((fmtOf ta).decode (pair k).1) ((fmtOf ta).decode (pair k).2) (fmtF32.decode z)).1) c
              | _ => (List.range ((m.k + stepSize ta - 1) / stepSize ta)).foldl (fun z q => accStep ta z
                  ((List.range (min (stepSize ta) (m.k - stepSize ta * q))).map fun e => pair (stepSize ta * q + e))) c
    m.mvl ≠ 0 → (m.small = true ∨ t = 0) → m.m ≤ 2 * m.mvl → m.n ≤ 2 * m.mvl → s.hart.vec.vstart = 0 → s.pause = none →
    accTag ta = some acc → (ta = .hb → m.k % 32 = 0) → (∀ q ∈ m.blocks t.toNat, (m.tile q).tag = .none ∨ (m.tile q).tag = acc) →
    na ≤ s.hart.vec.vl → (s.v a).readable 0 na →
    ((s.v b).tag = ta → nb ≤ s.hart.vec.vl → (s.v b).readable 0 nb → done (.mmac t a b g) ((s.v b).elem ta)) ∧
    (∀ w, m.wbuf = some w → w.n = m.n → m.k ≤ w.rows.length → w.fmt = ta →
      done (.mmacw t a g) fun e => (w.rows.getD (e / m.n) []).getD (e % m.n) 0)

/-! ### Hypervectors and sampling -/

/-- R229 to R233: HGEN writes words of the generator, HROT rotates components, HACC counts a vector into clamped counters,
HSIGN takes the counters' signs with ties from its second source, and HDIST counts the components of the performed elements
that differ. -/
def Obligations.Hypervectors : Prop :=
  ∀ (s : State) (d a b : BitVec 6) (r x y : BitVec 5) (g : BitVec 4),
    let dim := s.hart.vec.hdim
    let start := s.hart.vec.vstart
    let n := s.range .hb 4
    let done (i : Instr) (tag : Tag) (n : Nat) (f : Nat → Nat) : Prop :=
      ∃ u, exec i s = .next u ∧ Sequential 4 s u ∧ VectorFrame s u ∧ KeepsX s u ∧ KeepsP s u ∧ KeepsVBut d s u ∧
        ElementWise d tag n (tagWidth tag) (s.pbit g) f s u
    let pack (f : Nat → Bool) : Nat := (List.range 32).foldl (fun k j => k + (f j).toNat * 2 ^ j) 0
    ((s.v d).bound = none →
      (fits s .hb = true → done (.hgen d x y g) .hb n fun i =>
        let z := s.x x ^^^ (s.x y * 0x9E3779B97F4A7C15) ^^^ (word (i / 2) * 0xC2B2AE3D27D4EB4F)
        let z := (z ^^^ (z >>> 30)) * 0xBF58476D1CE4E5B9
        let z := (z ^^^ (z >>> 27)) * 0x94D049BB133111EB
        (z ^^^ (z >>> 31)).toNat / 2 ^ (32 * (i % 2))) ∧
      (let k := (s.x x).toNat % dim
       ((s.v a).tag = .hb → fits s .hb = true → (s.v a).readable 0 n → done (.hrot d a x g) .hb n fun i =>
          pack fun j => (s.v a).data.testBit ((32 * i + j + dim - k) % dim)) ∧
       ((s.v a).tag = .hc → fits s .hc = true → (s.v a).readable 0 (s.range .hc 1) → done (.hrot d a x g) .hc (s.range .hc 1) fun i =>
          if (s.v a).elem .hc ((i + dim - k) % dim) = 0x80 then 0x81 else (s.v a).elem .hc ((i + dim - k) % dim))) ∧
      (let c (z : Int) : Int := max (-127) (min 127 z)
       (s.v a).tag = .hb → (s.v d).tag = .hc → fits s .hb = true → fits s .hc = true →
       (s.v a).readable (start / 32) (s.range .hc 1 / 32) → (s.v d).present start (s.range .hc 1) = true →
       done (.hacc d a g) .hc (s.range .hc 1) fun j =>
         wrap 8 (c (c (signed 8 ((s.v d).elem .hc j)) + if (s.v a).data.testBit j then -1 else 1))) ∧
      ((s.v a).tag = .hc → (s.v b).tag = .hb → fits s .hb = true → fits s .hc = true →
       (s.v a).readable (32 * start) (32 * n) → (s.v b).readable start n →
       done (.hsign d a b g) .hb n fun i => pack fun j =>
         let z := signed 8 ((s.v a).elem .hc (32 * i + j))
         decide (z < 0) || (decide (z = 0) && (s.v b).data.testBit (32 * i + j)))) ∧
    ((s.v a).tag = .hb → (s.v b).tag = .hb → fits s .hb = true → (s.v a).readable start n → (s.v b).readable start n →
      ∃ u, exec (.hdist r a b g) s = .next u ∧ Sequential 4 s u ∧ VectorFrame s u ∧ KeepsXBut r s u ∧ KeepsP s u ∧ KeepsV s u ∧
        u.x r = if r = 0 then 0 else word ((List.range (32 * n)).filter fun j =>
          decide (start ≤ j / 32) && s.pbit g (j / 32) && ((s.v a).data.testBit j ^^ (s.v b).data.testBit j)).length)

/-- R234, R236, R237, R238: with a clean-up descriptor and a codebook in plain memory and HDIM as R224 allows, HSIMM writes
the similarity of the query and each item, and HCLEAN returns the nearest item, the lowest of equals, with its distance and
the marks for a tie, a rejection and an empty codebook, and HMARGIN the distance to the second nearest. R218, R240, R241,
R242: with a factorise descriptor and its codebooks in plain memory, HFSTEP performs one iteration on the estimates, from the
bundles of the codebooks when ITER is 0, and HFACT performs such iterations from the bundles until the first that changes no
estimate, or LIMIT; both leave the estimates, chosen items and status of the last one. A component of an estimate is the sign
of the weighted sum of the items' components; a zero sum keeps the old bit. The chosen item is the lowest of greatest
similarity, with a mark where another has it too. -/
def Obligations.CleanUpAndFactorisation : Prop :=
  (∀ (s : State) (d : BitVec 6) (r x : BitVec 5) (a : BitVec 6) (base count rot thresh : Nat) (kd : Nat → Nat) (ki : Nat → Nat → Nat),
     let dim := s.hart.vec.hdim
     let va := s.x x
     let dist (c : Nat) : Nat := ((List.range dim).filter fun j =>
       (s.v a).data.testBit j ^^ (s.itemAt dim rot (ki c)).testBit j).length
     (s.v a).tag = .hb → fits s .hb = true → dim ≤ 65536 → (s.v a).readable 0 (dim / 32) → s.hart.vec.vstart = 0 → s.pause = none →
     s.hart.kept = none → va.toNat % 32 = 0 → InPlainMemory s va.toNat 4 8 kd → base % 8 = 0 → count ≤ 4096 → rot < dim →
     s.dev.read (kd 0) 8 = base → s.dev.read (kd 1) 8 = count + rot * 2 ^ 16 → s.dev.read (kd 2) 8 = thresh → thresh < 2 ^ 24 →
     s.dev.read (kd 3) 8 = 0 →
     (∀ c, c < count → InPlainMemory s (base + c * (dim / 8)) (dim / 64) 8 (ki c)) →
     (s.hart.mat.mvl ≠ 0 → (s.v d).bound = none → count ≤ s.rb / 4 →
       ∃ u, exec (.hsimm d a x) s = .next u ∧ Sequential 4 s u ∧ VectorFrame s u ∧ KeepsX s u ∧ KeepsP s u ∧ KeepsVBut d s u ∧
         (u.v d).tag = .i32 ∧ ∀ i, (u.v d).elem .i32 i =
           if i < count then wrap 32 ((dim : Int) - 2 * (dist i : Int)) else (s.v d).elem .i32 i) ∧
     ∃ u, exec (.hclean r a x) s = .next u ∧ Sequential 8 s u ∧ KeepsXBut r s u ∧ KeepsV s u ∧ KeepsP s u ∧ KeepsFcsr s u ∧
       u.hart.vec = { s.hart.vec with vstart := 0 } ∧ TaintGained s u ∧ KeepsTrap s u ∧ KeepsMemory s u ∧ KeepsOutside s u ∧
       u.hart.engine = { s.hart.engine with hmargin := u.hart.engine.hmargin } ∧
       KeepsUnits { s with hart := { s.hart with engine := u.hart.engine } } u ∧
       (count = 0 → u.x r = (if r = 0 then 0 else word (0xFFFFFFFF + 0xFFFFFF * 2 ^ 32 + 4 * 2 ^ 56)) ∧
         u.hart.engine.hmargin = word (0xFFFFFF * 2 ^ 24)) ∧
       (0 < count → ∃ c, c < count ∧ (∀ j, j < count → dist c ≤ dist j ∧ (dist j = dist c → c ≤ j)) ∧
         u.x r = (if r = 0 then 0 else word (c + dist c * 2 ^ 32 +
           ((if ∃ j, j < count ∧ j ≠ c ∧ dist j = dist c then 1 else 0) + (if thresh < dist c then 2 else 0)) * 2 ^ 56)) ∧
         (count = 1 → u.hart.engine.hmargin = word (0xFFFFFF + 0xFFFFFF * 2 ^ 24)) ∧
         (1 < count → ∃ e, e < count ∧ e ≠ c ∧ (∀ j, j < count → j ≠ c → dist e ≤ dist j) ∧
           u.hart.engine.hmargin = word (dist e - dist c + dist e * 2 ^ 24)))) ∧
  ((∀ (dim keep j : Nat) (l : List (Int × Nat)), j < dim →
     let z := (l.map fun p => if p.2.testBit j then -p.1 else p.1).sum
     (bundle dim keep l).testBit j = if z < 0 then true else if 0 < z then false else keep.testBit j) ∧
   (∀ (dim prod j : Nat) (l : List Nat) (r : Iterate), l ≠ [] → j < r.est.length →
     let u := (r.est.zipIdx.filter fun p => p.2 ≠ j).foldl (fun u p => u ^^^ p.1) prod
     let far (e : Nat) : Nat := ((List.range dim).filter fun k => u.testBit k ^^ e.testBit k).length
     let n := r.factor dim prod j l
     ∃ c, l[c]? ≠ none ∧ n.idx = r.idx ++ [c] ∧ n.tie = (r.tie || decide (∃ k, k < l.length ∧ k ≠ c ∧ far (l.getD k 0) = far (l.getD c 0))) ∧
       (∀ k, k < l.length → far (l.getD c 0) ≤ far (l.getD k 0) ∧ (far (l.getD k 0) = far (l.getD c 0) → c ≤ k)) ∧
       n.est = r.est.set j (bundle dim (r.est.getD j 0) (l.map fun e => ((dim : Int) - 2 * (far e : Int), e))) ∧
       n.changed = (r.changed || n.est.getD j 0 != r.est.getD j 0)) ∧
   ∀ (s : State) (d a : BitVec 6) (x : BitVec 5) (f limit : Nat) (base count rot : Nat → Nat) (kd : Nat → Nat)
     (ki : Nat → Nat → Nat → Nat),
     let dim := s.hart.vec.hdim
     let va := s.x x
     let prod := (s.v a).data % 2 ^ dim
     let iter := s.hart.engine.hfstat.toNat % 2 ^ 16
     let items := (List.range f).map fun j => (List.range (count j)).map fun c => s.itemAt dim (rot j) (ki j c)
     (s.v a).tag = .hb → fits s .hb = true → (s.v a).readable 0 (dim / 32) → s.hart.vec.vstart = 0 → s.pause = none →
     s.hart.kept = none → va.toNat % 16 = 0 → va.toNat + 80 ≤ 2 ^ 64 → InPlainMemory s va.toNat (2 + 2 * f) 8 kd → 2 ≤ f → f ≤ 4 →
     1 ≤ limit → limit < 1024 → s.dev.read (kd 0) 8 = f + limit * 2 ^ 16 → s.dev.read (kd 1) 8 = 0 →
     (∀ j, j < f → base j % 8 = 0 ∧ 1 ≤ count j ∧ count j ≤ 4096 ∧ rot j < dim ∧ rot j < 2 ^ 16 ∧
       s.dev.read (kd (2 + 2 * j)) 8 = base j ∧
       s.dev.read (kd (3 + 2 * j)) 8 = count j + rot j * 2 ^ 16 ∧
       (∀ c, c < count j → InPlainMemory s (base j + c * (dim / 8)) (dim / 64) 8 (ki j c)) ∧
       (s.v (estReg d j)).bound = none ∧ (s.v (estReg d j)).absent = 0) →
     ((iter ≠ 0 → ∀ j, j < f → (s.v (estReg d j)).tag = .hb) →
       let est := if iter = 0 then items.map fun b => bundle dim 0 (b.map fun e => (1, e))
         else (List.range f).map fun j => (s.v (estReg d j)).data % 2 ^ dim
       ∃ u, exec (.hfstep d a x) s = .next u ∧ Sequential 4 s u ∧
         FactorLeft d f dim prod limit (min (iter + 1) 65535) items (factorPass dim prod items est) s u) ∧
     let first := items.map fun b => bundle dim 0 (b.map fun e => (1, e))
     let after (n : Nat) : Iterate := (List.range n).foldl (fun r _ => factorPass dim prod items r.est) { est := first }
     ∃ n u, 1 ≤ n ∧ n ≤ limit ∧ (∀ k, 1 ≤ k → k < n → (after k).changed = true) ∧ ((after n).changed = false ∨ n = limit) ∧
       exec (.hfact d a x) s = .next u ∧ Sequential 8 s u ∧ FactorLeft d f dim prod limit n items (after n) s u)

/-- R271, R272, R273, R274: VSAMPLE writes the first legal position whose prefix sum of weights exceeds the seed's share of
their sum, or all ones with NOLEGAL when the predicate leaves none; then, with TRAPEN, it traps EBREAK at the boundary after
it, with its word in TVAL and its address in TINFO0. VTOPK writes the K greatest selected elements in descending order and
their positions, the lower of equals first, then zeros and −1. That VTOPK ignores VSTART and takes VLMAX of the wider of its
tag and I32 is the model's choice (log 65). -/
def Obligations.Sampling : Prop :=
  ∀ (s : State) (d : BitVec 6) (r x : BitVec 5) (y : BitVec 4) (a : BitVec 6) (g : BitVec 4) (t : Tag),
    (let n := s.range .f32 4
     let legal := (List.range n).filter (s.pbit g)
     let l := (s.v a).elem .f32
     let c := (s.x (odd y)).toNat % 2 ^ 32
     let num (k : Nat) : Fv := fmtF32.decode k
     let op (f : Fmt → Rm → Bool → Fv → Fv → Nat × Flags) (p q : Nat) : Nat := (f fmtF32 .rne false (num p) (num q)).1
     let seed := s.x (even y) ^^^ ((s.x (odd y) >>> 32) * 0x9E3779B97F4A7C15)
     let z := (seed ^^^ (seed >>> 30)) * 0xBF58476D1CE4E5B9
     let z := (z ^^^ (z >>> 27)) * 0x94D049BB133111EB
     let weigh (m w k : Nat) : Prop :=
       if (num k).isNan ∨ m = 0xFF800000 then w = 0
       else if m = 0x7F800000 then w = if k = 0x7F800000 then 0x3F800000 else 0
       else let e := (fpExp2 fmtF32 .rne false (num (op fpMul (op fpSub k m) c))).1
         w = if (num e).isNan then 0 else e
     let drawn (u : State) : Prop := ∃ (m i : Nat) (w : Nat → Nat),
       (∀ j ∈ legal, (num (l j)).isNan = true ∨ (fpCompare .le (num (l j)) (num m)).1 = true) ∧
       (m = 0xFF800000 ∨ ∃ j ∈ legal, m = l j) ∧ (∀ j ∈ legal, weigh m (w j) (l j)) ∧
       let sum := ((reduce .f32 {} (fun p q => (op fpAdd p q, {})) (legal.map w)).getD (0, {})).1
       let t := (fpMul fmtF32 .rne false (.fin false ((z ^^^ (z >>> 31)).toNat / 2 ^ 40) (-24)) (num sum)).1
       let past (q : Nat) : Bool := (fpCompare .gt (num (((legal.take q).map w).foldl (op fpAdd) 0)) (num t)).1
       legal[i]? ≠ none ∧ (∀ q, q ≤ i → past q = true → q = 0) ∧ (past (i + 1) = true ∨ i + 1 = legal.length) ∧
         u.x r = if r = 0 then 0 else word (legal.getD i 0)
     let left (u : State) : Prop :=
       Sequential 4 s u ∧ KeepsXBut r s u ∧ KeepsV s u ∧ KeepsP s u ∧ KeepsFcsr s u ∧
       VecGained s u ∧ TaintGained s u ∧ KeepsTrap s u ∧ KeepsMemory s u ∧ KeepsOutside s u ∧
       u.hart.engine = { s.hart.engine with vsstat := u.hart.engine.vsstat } ∧
       KeepsUnits { s with hart := { s.hart with engine := u.hart.engine } } u ∧
       u.hart.engine.vsstat.getLsbD 0 = decide (legal = []) ∧ u.hart.engine.vsstat.getLsbD 1 = s.hart.engine.vsstat.getLsbD 1 ∧
       (legal = [] → u.x r = if r = 0 then 0 else BitVec.allOnes 64) ∧ (legal ≠ [] → drawn u)
     (s.v a).tag = .f32 → (s.v a).readable 0 n →
      (¬(legal = [] ∧ s.hart.engine.vsstat.getLsbD 1 = true) → ∃ u, exec (.vsample r a y g) s = .next u ∧ left u) ∧
      (legal = [] → s.hart.engine.vsstat.getLsbD 1 = true → s.hart.trap.status.eip = false →
        ∃ v u, left v ∧ exec (.vsample r a y g) s = .next u ∧
          Entered { cause := .ebreak, val := word (0x3E + r.toNat * 2 ^ 7 + a.toNat * 2 ^ 13 + y.toNat * 2 ^ 20 + g.toNat * 2 ^ 25) } v u ∧
          TrapInfoIs s.hart.pc 0 0 0 u ∧ KeepsX v u ∧ KeepsV v u ∧ KeepsP v u ∧ KeepsFcsr v u ∧ KeepsTaint v u ∧
          u.hart.engine = v.hart.engine ∧ KeepsMemory v.discard u ∧ KeepsOutside v.discard u)) ∧
    (let n := s.range t (max 4 (tagWidth t))
     let k := min (s.x x).toNat n
     tagClass t = .i ∨ tagClass t = .w ∨ tagClass t = .f → (s.v a).tag = t → (s.v a).readable 0 n →
      (s.v d).bound = none → (s.v (d + 1)).bound = none →
      ∃ (u : State) (l : List Nat), exec (.vtopk d a x g) s = .next u ∧ Sequential 4 s u ∧ VectorFrame s u ∧ KeepsX s u ∧ KeepsP s u ∧
        (∀ q, q ≠ d → q ≠ d + 1 → u.v q = s.v q) ∧ (u.v d).tag = t ∧ (u.v (d + 1)).tag = .i32 ∧
        l.Perm ((List.range n).filter (s.pbit g)) ∧
        (l.Pairwise fun i j =>
          let p := (s.v a).elem t i
          let q := (s.v a).elem t j
          let before := descends t s.hart.vec.vtype.fz
          if tagClass t = .f then before q p = false ∧ (before p q = false → i < j)
          else intValue t q < intValue t p ∨ (intValue t q = intValue t p ∧ i < j)) ∧
        ∀ j, (u.v d).elem t j = (if j < k then ((l[j]?).map ((s.v a).elem t)).getD 0 else (s.v d).elem t j) ∧
          (u.v (d + 1)).elem .i32 j = (if j < k then ((l[j]?).map (· % 2 ^ 32)).getD (2 ^ 32 - 1) else (s.v (d + 1)).elem .i32 j))

/-! ### Sparse vectors, reductions, copies, regions, edges -/

/-- R266, R269, R270: with ascending coordinates SVADD makes the union of two sources, the lowest 4,096 coordinates of it
with SATF when there are more, SVMUL the intersection and SVDOT the sum of the products; SVTOV spreads a window of
coordinates over a vector register; each takes a residue in its canonical form; SVLEN returns the number of pairs and the
tag. That SVTOV starts at VSTART, has a tail and does not wrap X[B] + i, and what a long union computes, is the model's
choice (log 66). R131, R268: SVLD takes pairs of a coordinate and a value from plain memory while the coordinates ascend, at
most X[B] and 4,096 of them; SVST stores the pairs, each value zero-extended and a residue in its canonical form, as the
hart's own vector loads see them, and no other byte. The hart performs its accesses in order. -/
def Obligations.SparseVectors : Prop :=
  (∀ (s : State) (d a b : BitVec 3) (r x : BitVec 5) (vd : BitVec 6) (t : Tag),
     let ya := s.y a
     let yb := s.y b
     let vt := s.hart.vec.vtype
     let valueAt (y : YReg) (c : Nat) : Option Nat := (y.pairs.find? fun p => p.1 == c).map (·.2)
     let rising (y : YReg) : Prop := y.pairs.Pairwise fun p q => p.1 < q.1
     let done (i : Instr) (P : State → Prop) : Prop :=
       ∃ u, exec i s = .next u ∧ Sequential 4 s u ∧ VectorFrame { s with hart := { s.hart with y := u.hart.y } } u ∧ KeepsV s u ∧
         KeepsP s u ∧ P u
     (ya.tag = t → yb.tag = t → t ≠ .none → rising ya → rising yb →
       (done (.svadd d a b) fun u => KeepsX s u ∧ (∀ q, q ≠ d → u.y q = s.y q) ∧ (u.y d).tag = t ∧ rising (u.y d) ∧
         (u.y d).pairs.length ≤ 4096 ∧
         (∀ c v, valueAt (u.y d) c = some v → some v = match valueAt ya c, valueAt yb c with
           | some k, some l => some (VecOp.add.elem t vt k l).1
           | some k, none => some (canonElem t k).1
           | none, l => l.map fun k => (canonElem t k).1) ∧
         (∀ c, valueAt (u.y d) c = none → (valueAt ya c).isSome ∨ (valueAt yb c).isSome →
           (u.y d).pairs.length = 4096 ∧ (∀ p ∈ (u.y d).pairs, p.1 < c) ∧ u.hart.vec.vtype.satf = true)) ∧
       (done (.svmul d a b) fun u => KeepsX s u ∧ (∀ q, q ≠ d → u.y q = s.y q) ∧ (u.y d).tag = t ∧ rising (u.y d) ∧
         ∀ c, valueAt (u.y d) c = match valueAt ya c, valueAt yb c with
           | some k, some l => some (VecOp.mul.elem t vt k l).1
           | _, _ => none) ∧
       (done (.svdot r a b) fun u => KeepsXBut r s u ∧ u.hart.y = s.hart.y ∧
         ((∀ c, valueAt ya c = none ∨ valueAt yb c = none) → u.x r = 0) ∧
         (tagClass t = .i ∨ tagClass t = .w → vt.sat = false → r ≠ 0 →
           let k := wrap (8 * tagWidth t) (ya.pairs.map fun p => intValue t p.2 * intValue t ((valueAt yb p.1).getD 0)).sum
           u.x r = if tagClass t = .w then word k else BitVec.ofInt 64 (signed (8 * tagWidth t) k)))) ∧
     (ya.tag = t → t ≠ .none →
       ((s.v vd).bound = none → ∃ u, exec (.svtov vd a x) s = .next u ∧ Sequential 4 s u ∧ VectorFrame s u ∧ KeepsX s u ∧ KeepsP s u ∧
         KeepsVBut vd s u ∧ ElementWise vd t (s.range t (tagWidth t)) (tagWidth t) (fun _ => true)
           (fun i => (canonElem t ((valueAt ya ((s.x x).toNat + i)).getD 0)).1) s u) ∧
       (∃ u, exec (.svlen r a) s = .next u ∧ Sequential 4 s u ∧
         WritesX r (word (ya.pairs.length % 2 ^ 13 + tagCode t * 2 ^ 16)) (s.setVstart 0) u))) ∧
  (∀ (s : State) (y : BitVec 3) (a b : BitVec 5) (t : Tag) (count m : Nat) (kc kv : Nat → Nat) (key : Nat → Nat),
     let base := (s.x a).toNat
     let w := tagWidth t
     let coord (p : Nat) : Nat := s.dev.read (kc p) 8
     let r := s.y y
     let unit (i : Nat) : Nat := let p := r.pairs.getD (i / 2) (0, 0); if i % 2 = 0 then p.1 else (canonElem r.tag p.2).1
     let heldAt (va : Nat) : Bool := s.held (s.pageBytes va).1 (s.pageBytes va).2
     base % 16 = 0 → s.hart.vec.vstart = 0 → s.core.wcb = [] → s.dev.combines = [] → s.hart.early = [] → s.hart.prov = none →
     s.inOrder →
     (s.hart.vec.vtype.etag = t → tagClass t ∈ [TagClass.i, .w, .f, .rn] → count = min (s.x b).toNat 4096 → m ≤ count →
       base + 16 * count ≤ 2 ^ 64 →
       (∀ p, p < count → s.locate (base + 16 * p) 8 .load = .ok ({ key := kc p, cls := .device }, s) ∧
         s.locate (base + 16 * p + 8) w .load = .ok ({ key := kv p, cls := .device }, s) ∧ s.dev.poisoned (kc p) 8 = none ∧
         s.dev.poisoned (kv p) w = none ∧ s.dev.rangeTainted (kc p) 8 = false ∧ s.dev.rangeTainted (kv p) w = false ∧
         s.watchHit (base + 16 * p) (8 + w) .load = none ∧ heldAt (base + 16 * p) = false) →
       (∀ p q, p < q → q < m → coord p < coord q) → (m = count ∨ (0 < m ∧ coord m ≤ coord (m - 1))) →
       ∃ u, exec (.svld y a b) s = .next u ∧ Sequential 4 s u ∧ KeepsX s u ∧
         KeepsRegisters ({ s with hart := { s.hart with y := u.hart.y } }.setVstart 0) u ∧ KeepsTaint s u ∧
         u.hart.streams = s.hart.streams ∧ KeepsMemory s u ∧ KeepsOutside s u ∧ (∀ q, q ≠ y → u.y q = s.y q) ∧ (u.y y).tag = t ∧
         (u.y y).pairs = (List.range m).map fun p => (coord p, s.dev.read (kv p) w)) ∧
     (s.memoryWf → r.tag ≠ .none → base + 16 * r.pairs.length ≤ 2 ^ 64 →
       (∀ i, i < 2 * r.pairs.length → s.locate (base + 8 * i) 8 .store = .ok ({ key := key i, cls := .device }, s) ∧
         s.watchHit (base + 16 * (i / 2)) 16 .store = none ∧ heldAt (base + 8 * i) = false) →
       (∀ i j, i < j → j < 2 * r.pairs.length → key i + 8 ≤ key j ∨ key j + 8 ≤ key i) →
       ∃ u, exec (.svst y a) s = .next u ∧ Sequential 4 s u ∧ KeepsX s u ∧ VecGained s u ∧
         KeepsRegisters { s with hart := { s.hart with vec := u.hart.vec } } u ∧ KeepsTaint s u ∧
         u.hart.streams = s.hart.streams ∧
         (∀ i j, i < 2 * r.pairs.length → j < 8 →
           u.viewByte s.hart.ident.uid .vector (key i + j) = BitVec.ofNat 8 (unit i / 2 ^ (8 * j))) ∧
         ∀ k, (∀ i, i < 2 * r.pairs.length → k < key i ∨ key i + 8 ≤ k) →
           Memory.read u.dev.mem k = Memory.read s.dev.mem k ∧ ∀ h q, u.viewByte h q k = s.viewByte h q k))

/-- R301, R302, R303, R318: RPOST puts the first 32 elements of its register into the hart's next round of the tree; RWAIT of
a round with a result writes it to the register, and of a closed one does not, with the members that took part in X[D]; a
router adds its children's nodes and its own member's packets; a round past its time-out closes. That an RPOST outside
MEMBERS is discarded, that RWAIT writes at most RB bytes and when an overdue round closes are the model's choices (log 69). -/
def Obligations.ReductionTrees : Prop :=
  ∀ (s : State) (v : BitVec 6) (d x : BitVec 5) (id : BitVec 32) (k : BitVec 3) (m : BitVec 5) (t : Tree) (r : Round),
    let tree := (s.x x).toNat % 8
    let own := 8 * s.hart.ident.lhart + tree
    (let g := s.gang
     let num := sparseGet 0 g.rposts own
     g.trees[tree]? = some t → g.rounds = [] → (s.v v).tag = .f32 ∨ (s.v v).tag = .i32 → (s.v v).readable 0 32 → s.hart.late = [] →
      ∃ u q, exec (.rpost v x) s = .next u ∧ Sequential 4 s u ∧ KeepsX s u ∧ KeepsRegisters (s.setVstart 0) u ∧
        (s.core.wcb = [] → KeepsMemory s u) ∧ u.gang.rounds = [q] ∧ q.tree = tree ∧ q.num = num ∧
        sparseGet 0 u.gang.rposts own = num + 1 ∧
        q.packets = if s.hart.ident.lcore < t.children.length then
            [{ lhart := s.hart.ident.lhart, lcore := s.hart.ident.lcore, data := (List.range 32).map ((s.v v).elem .i32)
               tainted := decide ((s.v v).taint % 4 ≠ 0) }] else []) ∧
    (let g := s.gang.closeOverdue s.dev.now
     let num := sparseGet 0 g.rwaits own
     g.trees[tree]? = some t → (s.v v).bound = none → g.round tree num = some r →
      (r.status = .closed → ∃ u, exec (.rwait d v x) s = .next u ∧ Sequential 4 s u ∧ KeepsXBut d s u ∧
        KeepsRegisters (s.setVstart 0) u ∧ KeepsTaint s u ∧ KeepsMemory s u ∧ sparseGet 0 u.gang.rwaits own = num + 1 ∧
        u.x d = if d = 0 then 0 else word (g.mask t r + 2 ^ 32)) ∧
      (∀ data tainted, r.status = .result data tainted → ∃ u, exec (.rwait d v x) s = .next u ∧ Sequential 4 s u ∧
        KeepsXBut d s u ∧ KeepsVBut v s u ∧ KeepsP s u ∧ KeepsFcsr s u ∧ KeepsTrap s u ∧ KeepsUnits s u ∧ TaintGained s u ∧
        u.hart.vec = { s.hart.vec with vstart := 0 } ∧ KeepsMemory s u ∧ sparseGet 0 u.gang.rwaits own = num + 1 ∧
        (u.v v).tag = r.tag.getD .i32 ∧ (∀ i, (u.v v).elem .i32 i =
          if i < 32 ∧ i < s.rb / 4 then data.getD i 0 % 2 ^ 32 else (s.v v).elem .i32 i) ∧
        u.x d = if d = 0 then 0 else word (g.mask t r)) ∧
      ∀ i, i < t.children.length → ((g.mask t r).testBit i = true ↔
        g.hartsOf i ≠ [] ∧ ∀ h ∈ g.hartsOf i, ∃ p ∈ r.packets, p.lhart = h)) ∧
    (∀ g, s.dev.treeOf id.toNat k.toNat = some (g, t) →
      (∀ left right, g.rounds = [r] → r.tree = k.toNat → r.status = .running → r.overdue t s.dev.now = false →
        t.children[m.toNat]? = some (left, right) → r.nodeOf m.toNat = none → g.hartsOf m.toNat ≠ [] →
        (∀ h ∈ g.hartsOf m.toNat, (r.packetOf h).isSome) →
        let kids := [left, right].filterMap fun c => c
        (∀ c ∈ kids, (r.nodeOf c).isSome) →
        let parts := kids.filterMap r.nodeOf ++ (g.hartsOf m.toNat).filterMap fun h => (r.packetOf h).map (·.data)
        ∃ u q data, exec (.routerNode id k m) s = .next u ∧ u = { s with dev := { s.dev with gangs := u.dev.gangs } } ∧
          (u.dev.gangs.find? fun g => g.id == id.toNat).map (·.rounds) = some [q] ∧ q.packets = r.packets ∧
          q.nodes = r.nodes ++ [(m.toNat, data)] ∧
          q.status = (if m.toNat = t.root then .result data (r.packets.any (·.tainted)) else .running) ∧
          (r.tag = some .i32 → (∀ p ∈ parts, p.length = 32 ∧ ∀ e ∈ p, e < 2 ^ 32) →
            ∀ i, i < 32 → data.getD i 0 = (parts.map fun p => p.getD i 0).sum % 2 ^ 32)) ∧
      (r ∈ g.rounds → r.tree = k.toNat → r.status = .running → (∃ c, r.start = some c ∧ c + t.timeout ≤ s.dev.now) →
        ∃ u, exec (.roundClose id k) s = .next u ∧ u = { s with dev := { s.dev with gangs := u.dev.gangs } } ∧
          ((u.dev.gangs.find? fun g => g.id == id.toNat).any fun g => g.rounds.contains { r with status := .closed }) = true))

/-- R196 to R199, R202: a copy instruction with a target that is free, in an engine whose queue is not full, puts its copy,
with the addresses, shape and slack, behind the others of its core and goes on, or completes at once with status code 0 when
it is empty; CPYT tells whether its register is still a target; the engine takes the copy of least slack, moves it, and
notifies its target. A copy inside a core's scratchpad moves every byte. -/
def Obligations.Copies : Prop :=
  ∀ (s : State) (d a b treg xs r : BitVec 5) (slack : BitVec 4) (tk : BitVec 1) (sz : BitVec 3) (vi : BitVec 6),
    let tv := (s.v vi).tag
    let i := (s.x treg).toNat
    let target : CopyTarget := if tk = 0 then .scalar treg else .srf i
    let count := min (s.x b).toNat (s.vlmax (tagWidth tv))
    let idx (e : Nat) : Int :=
      if tagClass tv = .i then signed (8 * tagWidth tv) ((s.v vi).elem tv e) else (s.v vi).elem tv e
    ((tk = 0 → s.pending treg = false) → (tk = 1 → i < 16384 ∧ s.gang.srfBase ≤ i ∧ i < s.gang.srfBase + s.gang.srfLen) →
      ∀ p ∈ [(Instr.cpy d a b slack tk treg, CopyShape.whole ((s.x b).toNat % 2 ^ 48), (s.x b).toNat % 2 ^ 48, true),
        (.cpys d a b slack tk treg sz xs, .strided (s.x b).toNat (2 ^ sz.toNat) (s.x xs).toInt, (s.x b).toNat, true),
        (.cpyx d a b slack tk treg sz vi, .indexed (2 ^ sz.toNat) ((List.range count).map fun e => 2 ^ sz.toNat * idx e), count,
          (tagClass tv = .i || tagClass tv = .w) && (s.v vi).bound.isNone && (s.v vi).present 0 count)],
      p.2.2.2 = true → (p.2.2.1 ≠ 0 → s.core.copies.length < Config.copyQueueSize) → (p.2.2.1 = 0 → s.hart.late = []) →
      ∃ u, exec p.1 s = .next u ∧ Sequential 8 s u ∧ KeepsRegisters (s.setVstart 0) u ∧ u.hart.streams = s.hart.streams ∧
        TaintGained s u ∧
        (p.2.2.1 ≠ 0 ∨ (s.core.wcb = [] ∧ s.tracing 2 = false) →
          KeepsMemory s u ∧ { u.core with copies := s.core.copies } = s.core) ∧
        (p.2.2.1 ≠ 0 → KeepsX s u ∧ u.core.copies = s.core.copies ++
          [{ id := s.dev.nextId, owner := s.hart.ident.uid, gang := s.hart.ident.gang, ctx := s.hart.ctx, root := s.hart.root
             priv := s.hart.priv, dst := s.x d, src := s.x a, shape := p.2.1, target := target, slack := slack.toNat
             pc := s.hart.pc, slot := s.hart.ident.slot, convoy := s.hart.counts.convoy.toNat }]) ∧
        (p.2.2.1 = 0 → u.core.copies = s.core.copies ∧
          (tk = 0 → KeepsXBut treg s u ∧ u.x treg = if treg = 0 then 0 else word (2 ^ 63)) ∧
          (tk = 1 → KeepsX s u ∧ (u.dev.srfHome i).value = (s.dev.srfHome i).value + 1))) ∧
    (∃ u, exec (.cpyt d a) s = .next u ∧ Sequential 8 s u ∧ WritesX d (if s.pending a then 0 else 1) s u) ∧
    (∀ c, s.ready = some c → served s.core.copies = some c ∧ c.waits s.dev = false) ∧
    ∀ c, s.ready = some c →
      (∃ u, exec .copyComplete s = .next u ∧ u.hart.pc = s.hart.pc ∧ u.core.copies = s.core.copies.filter fun e => e.id != c.id) ∧
      (∀ len, let wb := Config.windowBase
        let from' := scratchKey s.core.id (c.src.toNat - wb)
        let to' := scratchKey s.core.id (c.dst.toNat - wb)
        s.memoryWf → s.core.wcb = [] → s.tracing 2 = false → c.moved = [] → c.shape = .whole len → c.target = .scalar r → c.owner = s.hart.ident.uid →
        s.core.scratchSize ≤ 2 ^ 32 → wb ≤ c.src.toNat → wb ≤ c.dst.toNat → c.src.toNat - wb + len ≤ s.core.scratchSize →
        c.dst.toNat - wb + len ≤ s.core.scratchSize →
        c.src.toNat + len ≤ c.dst.toNat ∨ c.dst.toNat + len ≤ c.src.toNat → s.dev.poisoned from' len = none →
        ∃ u, exec .copyComplete s = .next u ∧ KeepsXBut r s u ∧ KeepsRegisters s u ∧
          u.x r = (if r = 0 then 0 else word (2 ^ 63 + len)) ∧
          (∀ j, j < len → Memory.read u.dev.mem (to' + j) = Memory.read s.dev.mem (from' + j)) ∧ KeepsMemoryBut to' len s u)

/-- R249, R256, R257, R259, R260, R262: in a declared region whose tree is sound, SRLD takes the values of its keys, zero for
absent ones and ones out of range; SRST to a present key replaces its value in its leaf; SRROW tells which keys of a row are
present; SRTRAV lists keys in order and moves the cursor past the last; SRCNT returns the counts. Here no node has an error
or a tainted block. That a step of the home writes the whole of a node is the model's choice (log 67). R249, R250, R261:
SRDEF with a valid descriptor and KEEP 0 declares the region with an empty tree on its pinned pages, in which no key is
present; SRDENSE issues the copy of a valid box. The descriptor and the box lie in plain memory. GEN 0 of the new tree is the
model's choice (log 58). -/
def Obligations.Regions : Prop :=
  (∀ (s : State) (r : Region) (vd vk : BitVec 6) (d a b : BitVec 5) (pd : BitVec 4) (y : BitVec 4) (val : Nat → Nat)
     (node other : Nat) (path : List (Nat × Nat)) (found : List (Nat × Nat × Bool)),
     let tk := (s.v vk).tag
     let n := s.range .w64 8
     let start := s.hart.vec.vstart
     let key (i : Nat) : Nat := (s.v vk).elem tk i
     s.dev.region (s.x a) = some r → r.sound = true → s.pause = none → s.densePending (s.x a) = false →
     (s.dev.poisoned (r.nodeKey 0) 256 = none →
       let h := Header.ofNat (s.dev.read (r.nodeKey 0) 256)
       ∃ u, exec (.srcnt d a) s = .next u ∧ Sequential 8 s u ∧
         WritesX d (word (h.keys % 2 ^ 32 + h.freeCnt % 2 ^ 32 * 2 ^ 32)) (s.setVstart 0) u) ∧
     (tk = .i64 ∨ tk = .w64 → (s.v vk).readable start n →
       ((s.v vd).bound = none →
         (∀ i, start ≤ i → i < n → if r.inRange (key i) then
           ∃ o, s.dev.askHome r (homeLookup s.dev r (key i)) = .ok (o, false) ∧ val i = o.getD 0 else val i = 0) →
         ∃ u, exec (.srld vd a vk) s = .next u ∧ Sequential 8 s u ∧ VectorFrame s u ∧ KeepsX s u ∧ KeepsP s u ∧ KeepsVBut vd s u ∧
           ElementWise vd r.vtag n 8 (fun _ => true) val s u) ∧
       (let v := (s.v vd).elem r.vtag 0
        let old := Node.ofNat (s.dev.read (r.nodeKey node) 256)
        let h := Header.ofNat (s.dev.read (r.nodeKey 0) 256)
        s.memoryWf → n = 1 → start = 0 → (s.v vd).tag = r.vtag → (s.v vd).readable 0 1 → r.inRange (key 0) = true →
        zeroValue r.vtag (canonElem r.vtag v).1 = false → s.dev.askHome r (homeFind s.dev r (key 0)) = .ok ((node, other) :: path) → s.dev.poisoned (r.nodeKey node) 256 = none → key 0 ∈ old.keys →
        r.nodeKey node + 256 ≤ r.nodeKey 0 ∨ r.nodeKey 0 + 256 ≤ r.nodeKey node → node ≠ 0 →
        ∃ u, exec (.srst vd a vk) s = .next u ∧ Sequential 8 s u ∧ KeepsX s u ∧ KeepsV s u ∧ KeepsP s u ∧ KeepsFcsr s u ∧
          VecGained s u ∧ KeepsTrap s u ∧ KeepsUnits s u ∧ TaintGained s u ∧
          u.dev.read (r.nodeKey node) 256 = ofBytes ({ old with
            vals := old.vals.set (keyPos old.keys (key 0)) (canonElem r.vtag v).1, version := old.version + 1 } : Node).bytes ∧
          u.dev.read (r.nodeKey 0) 256 = ofBytes ({ h with gen := h.gen + 1 } : Header).bytes ∧
          ∀ k, k < r.nodeKey node ∨ r.nodeKey node + 256 ≤ k → k < r.nodeKey 0 ∨ r.nodeKey 0 + 256 ≤ k →
            Memory.read u.dev.mem k = Memory.read s.dev.mem k)) ∧
     ((∀ q ∈ found, q.2.2 = false) →
       (let w := coordWidth r.rank
        let k0 := (s.x b).toNat / 2 ^ w * 2 ^ w
        let m := min s.hart.vec.vl s.rb
        let top := min (m - 1) (r.lims.getD (r.rank - 1) 0)
        m ≠ 0 → r.inRange k0 = true → s.dev.askHome r (homeScan s.dev r (k0 + top) (r.nodes + 1) (top + 1) k0) = .ok found →
        ∃ u, exec (.srrow pd a b) s = .next u ∧ Sequential 8 s u ∧ VectorFrame s u ∧ KeepsX s u ∧ KeepsV s u ∧ KeepsPBut pd s u ∧
          ∀ j, pd ≠ 0 → u.pbit pd j = found.any fun q => q.1 - k0 == j) ∧
       (let lo := (s.x (even y)).toNat
        let hi := (s.x (odd y)).toNat
        let req := if s.hart.vec.vl = 0 then 0 else min s.hart.vec.vl (s.vlmax 8)
        (s.v vd).bound = none → (s.v (vd + 1)).bound = none →
        (if req = 0 then found = [] else s.dev.askHome r (homeScan s.dev r hi (r.nodes + 1) req lo) = .ok found) →
        ∃ u, exec (.srtrav vd a y) s = .next u ∧ Sequential 8 s u ∧ KeepsXBut (even y) s u ∧ KeepsP s u ∧ KeepsMemory s u ∧
          (∀ q, q ≠ vd → q ≠ vd + 1 → u.v q = s.v q) ∧ u.hart.vec = { s.hart.vec with vl := found.length, vstart := 0 } ∧
          u.x (even y) = (match found.getLast? with
            | some q => if even y = 0 then 0 else word (q.1 + 1)
            | none => s.x (even y)) ∧
          (u.v vd).tag = .w64 ∧ (u.v (vd + 1)).tag = r.vtag ∧
          (∀ j, (u.v vd).elem .w64 j = (match found[j]? with | some q => q.1 % 2 ^ 64 | none => (s.v vd).elem .w64 j)) ∧
          ∀ j, (u.v (vd + 1)).elem r.vtag j = (match found[j]? with
            | some q => q.2.1 % 2 ^ (8 * tagWidth r.vtag)
            | none => (s.v (vd + 1)).elem r.vtag j)))) ∧
  (∀ (s v : State) (d a b treg : BitVec 5) (tk : BitVec 1) (pages : List Nat) (r : Region) (key : Nat → Nat),
     let base := s.x a
     let q (i : Nat) : Nat := s.dev.read (key i) 8
     s.core.wcb = [] → s.dev.combines = [] → s.hart.late = [] →
     (s.memoryWf → base.toNat % 64 = 0 → InPlainMemory s base.toNat 8 8 key → descriptorValid q = true → q 0 / 2 ^ 24 % 2 = 0 →
       s.dev.region base = none → (s.dev.regions.filter fun e => e.home = q 0 / 2 ^ 16 % 4).length < 256 →
       poolPages base (q 5) ((q 6 + 4095) / 4096) 0 [] s = .ok (pages, v) → (∀ p ∈ pages, p < 2 ^ 44) →
       ∃ u e, exec (.srdef a) s = .next u ∧ Sequential 8 s u ∧ KeepsX s u ∧ KeepsRegisters (s.setVstart 0) u ∧ KeepsTaint s u ∧
         u.dev.regions = s.dev.regions ++ [e] ∧ e.addr = base ∧ e.gang = s.hart.ident.gang ∧ e.rank = q 0 % 8 ∧
         tagCode e.vtag = q 0 / 2 ^ 8 % 32 ∧ e.lims = (List.range (q 0 % 8)).map (fun j => q (1 + j)) ∧ e.pool = q 5 ∧ e.size = q 6 ∧
         e.pages = pages ∧ e.home = q 0 / 2 ^ 16 % 4 ∧ e.sound = true ∧
         Header.ofNat (u.dev.read (e.nodeKey 0) 256) = { root := 1, height := 1, freeHead := if e.size / 256 = 2 then 0 else 2
                                                         freeCnt := e.size / 256 - 2, keys := 0, gen := 0 } ∧
         ∀ k, u.dev.askHome e (homeLookup u.dev e k) = .ok (none, false)) ∧
     (let box := s.x b
      let lo := (List.range r.rank).map q
      let hi := (List.range r.rank).map fun j => q (4 + j)
      let i := (s.x treg).toNat
      s.dev.region base = some r → s.densePending base = false → box.toNat % 64 = 0 → InPlainMemory s box.toNat 8 8 key → boxValid r q (s.x d).toNat = true →
      s.hart.vec.vl ≠ 0 → s.core.copies.length < Config.copyQueueSize → (tk = 0 → s.pending treg = false) →
      (tk = 1 → i < 16384 ∧ s.gang.srfBase ≤ i ∧ i < s.gang.srfBase + s.gang.srfLen) →
      ∃ u c, exec (.srdense d a b tk treg) s = .next u ∧ Sequential 8 s u ∧ KeepsX s u ∧ KeepsRegisters (s.setVstart 0) u ∧
        KeepsTaint s u ∧ KeepsMemory s u ∧ u.core.copies = s.core.copies ++ [c] ∧ c.owner = s.hart.ident.uid ∧ c.dst = s.x d ∧
        c.shape = .dense base lo hi ∧ c.target = (if tk = 0 then .scalar treg else .srf i) ∧ c.slack = 0))

/-- R275, R286, R287, R290, R294, R295: EDEF binds a graph whose descriptor, arrays and body pass their checks and clears
ESTAT; ERUN with an empty frontier, no other hart on the graph and no exclusion of push leaves every byte, counts nothing and
begins the next superstep; EFRONT counts the share's vertices of the frontier and their edges and writes only next values and
the next frontier; ESTAT reads the binding; EEND does nothing. R277, R282, R285, R288, R289, R290, R295: an ERUN under an
exact operator on integers, with no other hart on the graph and the entries of the graph apart. Over the frontier's out-edges
(push) or the unfinished vertices' in-edges from the frontier (pull), each unfinished vertex takes its old next value
combined with its candidates in turn; it joins the next frontier when the value changes, or always under ADD, and is finished
when OR has set every bit. X[D] counts the vertices that joined and their out-edges. Nothing else of memory changes. -/
def Obligations.EdgePrograms : Prop :=
  (∀ (s u w : State) (d a b : BitVec 5) (off : BitVec 32) (e : EdgeBinding) (pages : List EdgePage) (body : List Instr)
     (key : Nat → Nat),
     let est := s.hart.engine.estat.toNat
     let phase := bit 1 est
     let at' (va n : Nat) : Nat := s.dev.read (deviceKey (e.phys va)) n
     let fine (va n : Nat) : Prop := s.dev.poisoned (deviceKey (e.phys va)) n = none
     let front (v : Nat) : Bool := (at' (e.frOf phase + v / 8) 1).testBit (v % 8)
     let span (v : Nat) : Nat := min (at' (e.outptr + 4 * v + 4) 4) e.ne - at' (e.outptr + 4 * v) 4
     (let bound : EdgeBinding := { e with
        bodyAt := wordTarget s.hart.pc off, body := body, pages := pages, edges := (s.hart.edge.map (·.edges)).getD 0 }
      (s.x a).toNat % 128 = 0 → InPlainMemory s (s.x a).toNat 16 8 key →
      edgeBinding (s.x a) (fun i => if i < 16 then s.dev.read (key i) 8 else 0) (s.x b).toNat = some e →
      pinArrays (s.x a) e.arrays [] s = .ok (pages, u) → pages.length ≤ 2048 →
      readBody 63 (wordTarget s.hart.pc off) u = .ok (body, w) → bodyChecks bound w = .ok ((), w) →
      ∃ t, exec (.edef a b off) s = .next t ∧ Sequential 8 w t ∧ KeepsX w t ∧ KeepsV w t ∧ KeepsP w t ∧ KeepsMemory w t ∧
        (∃ n, t.hart.edge = some { bound with traversal := n }) ∧ t.hart.engine.estat = 0 ∧ e.nv = s.dev.read (key 0) 8 % 2 ^ 32 ∧
        e.ne = s.dev.read (key 0) 8 / 2 ^ 32 ∧ e.lo = (s.x b).toNat % 2 ^ 32 ∧ e.hi = (s.x b).toNat / 2 ^ 32) ∧
     (s.hart.edge = some e → s.core.wcb = [] → s.hart.late = [] → s.hart.edgeRun = none → s.pause = none → e.lo % 8 = 0 →
       (∀ v, e.lo ≤ v → v < e.hi → fine (e.frOf phase + v / 8) 1) →
       ((∀ v, e.lo ≤ v → v < e.hi → front v = false) → s.parked = [] → s.hart.detm.pull = false → e.op ≠ .first →
         (s.x b).toNat * 2 ^ 16 < e.beta * e.ne → e.beta < e.alpha →
         ∃ t, exec (.erun d b) s = .next t ∧ Sequential 8 s t ∧ t.x d = 0 ∧ KeepsXBut d s t ∧ KeepsV s t ∧ KeepsP s t ∧
           KeepsMemory s t ∧ KeepsTaint s t ∧ t.hart.edge = some { e with edges := 0, runs := e.runs + 1, dir := 0 } ∧
           t.hart.engine.estat = word ((if phase then 0 else 2) + min (est / 2 ^ 8 % 2 ^ 8 + 1) 255 * 2 ^ 8 +
             min ((s.x b).toNat * 2 ^ 16 / e.ne) 0xFFFF * 2 ^ 16)) ∧
       ((∀ v, e.lo ≤ v → v < e.hi → fine (e.outptr + 4 * v) 4 ∧ fine (e.outptr + 4 * v + 4) 4 ∧
           fine (e.valOf phase + e.w * v) e.w ∧ fine (e.frOf (!phase) + v / 8) 1) →
         let members := ((List.range (e.hi - e.lo)).map (e.lo + ·)).filter front
         ∃ t, exec (.efront d) s = .next t ∧ Sequential 8 s t ∧ KeepsXBut d s t ∧ KeepsV s t ∧ KeepsP s t ∧ t.hart.edge = s.hart.edge ∧
           t.x d = (if d = 0 then 0 else word ((members.map span).sum * 2 ^ 32 + members.length)) ∧
           ∀ k, e.op = .first ∨ (∀ v, e.lo ≤ v → v < e.hi →
               (∀ j, j < e.w → k ≠ deviceKey (e.phys (e.valOf (!phase) + e.w * v)) + j) ∧
               k ≠ deviceKey (e.phys (e.frOf (!phase) + v / 8))) →
             s.memoryWf → Memory.read t.dev.mem k = Memory.read s.dev.mem k)) ∧
     (∃ t, exec (.estat d b) s = .next t ∧ Sequential 8 s t ∧
       WritesX d (match (s.x b).toNat, s.hart.edge with
         | 0, _ => s.hart.engine.estat
         | 1, some e => word e.edges
         | 2, some e => word (e.lo + e.hi * 2 ^ 32)
         | 3, some e => e.desc
         | _, _ => 0) (s.setVstart 0) t) ∧
     (∃ t, exec .eend s = .next t ∧ Sequential 8 s t ∧ WritesNothing s t)) ∧
  (∀ (s : State) (d b : BitVec 5) (e : EdgeBinding) (f : Nat → Nat → Nat → Option Nat),
     let est := s.hart.engine.estat.toNat
     let phase := bit 1 est
     let g := (s.x b).toNat * 2 ^ 16
     let dir := e.direction s.hart.detm.pull g (est % 2)
     let at' (u : State) (va n : Nat) : Nat := u.dev.read (deviceKey (e.phys va)) n
     let flag (u : State) (base v : Nat) : Bool := (at' u (base + v / 8) 1).testBit (v % 8)
     let span (ptr v : Nat) : List Nat :=
       let p := at' s (ptr + 4 * v) 4
       (List.range (min (at' s (ptr + 4 * v + 4) 4) e.ne - p)).map (p + ·)
     let weight (base i : Nat) : Nat := if base = 0 then 0 else at' s (base + tagWidth e.wtag * i) (tagWidth e.wtag)
     let value (v : Nat) : Nat := at' s (e.valOf phase + e.w * v) e.w
     let front (v : Nat) : Bool := flag s (e.frOf phase) v
     let vertices := (List.range (e.hi - e.lo)).map (e.lo + ·)
     let arcs : List (Nat × Option Nat) :=
       if dir = 0 then (vertices.filter front).flatMap fun u => (span e.outptr u).filterMap fun i =>
         let v := at' s (e.outidx + 4 * i) 4
         if v < e.nv then some (v, f (value u) (weight e.outw i) 0) else none
       else (vertices.filter fun v => !flag s e.fin v).flatMap fun v => (span e.inptr v).filterMap fun i =>
         let u := at' s (e.inidx + 4 * i) 4
         if u < e.nv ∧ front u = true then some (v, f (value u) (weight e.inw i) (value v)) else none
     let mine (v : Nat) : List Nat := if flag s e.fin v then [] else arcs.filterMap fun p => if p.1 = v then p.2 else none
     let old (v : Nat) : Nat := at' s (e.valOf (!phase) + e.w * v) e.w
     let new (v : Nat) : Nat := (mine v).foldl e.apply (old v)
     let joins (v : Nat) : Bool :=
       !flag s (e.frOf (!phase)) v && decide (mine v ≠ []) && (decide (e.op = .add) || decide (new v ≠ old v))
     let joined := (List.range e.nv).filter joins
     s.hart.edge = some e → e.op ≠ .first → tagClass e.vtag = .i ∨ tagClass e.vtag = .w → e.hi ≤ e.nv → s.memoryWf →
     s.core.wcb = [] → s.hart.late = [] → s.hart.edgeRun = none → s.hart.ahead = none → s.pause = none → s.parked = [] →
     s.plainGraph e → 8 ≤ s.rb → e.Computes s.hart.x s.hart.vec.vtype f →
     ∃ t, exec (.erun d b) s = .next t ∧ Sequential 8 s t ∧ KeepsXBut d s t ∧ KeepsV s t ∧ KeepsP s t ∧ KeepsFcsr s t ∧
       t.hart.vec = { s.hart.vec with vstart := 0 } ∧ KeepsTrap s t ∧ KeepsTaint s t ∧
       t.x d = (if d = 0 then 0 else word ((joined.map fun v => (span e.outptr v).length).sum * 2 ^ 32 + joined.length)) ∧
       t.hart.engine.estat = word (dir + (if phase then 0 else 2) + min (est / 2 ^ 8 % 2 ^ 8 + 1) 255 * 2 ^ 8 +
         min (g / e.ne) 0xFFFF * 2 ^ 16 + joined.length % 2 ^ 32 * 2 ^ 32) ∧
       (∃ n, t.hart.edge = some { e with edges := n, runs := e.runs + 1, dir := dir } ∧ (dir = 0 ∨ e.op ≠ .or → n = arcs.length)) ∧
       (∀ v, v < e.nv → at' t (e.valOf (!phase) + e.w * v) e.w = new v ∧
         flag t (e.frOf (!phase)) v = (flag s (e.frOf (!phase)) v || joins v) ∧
         flag t e.fin v = (flag s e.fin v || (decide (mine v ≠ []) && decide (e.op = .or) && decide (new v = 2 ^ (8 * e.w) - 1)))) ∧
       ∀ k, (∀ v, v < e.nv → mine v ≠ [] → (k < deviceKey (e.phys (e.valOf (!phase) + e.w * v)) ∨
           deviceKey (e.phys (e.valOf (!phase) + e.w * v)) + e.w ≤ k) ∧
           k ≠ deviceKey (e.phys (e.frOf (!phase) + v / 8)) ∧ k ≠ deviceKey (e.phys (e.fin + v / 8))) →
         Memory.read t.dev.mem k = Memory.read s.dev.mem k)

/-! ### Interrupts and what is on its way -/

/-- R79, R81, R83, R86: at a boundary where interrupts are enabled, HOSTMSG is taken before TIMER, each by the trap entry of
R81 at the resumable position, with its pending bit cleared and TINFO0 to TINFO3 unchanged (the model's choice, log 77); what
the hart has issued beyond is discarded. The element of the position right after a TRET into an instruction is TSTART (the
model's choice, log 51). R79, R83, R95, R96: PREEMPT goes first; its entry saves the context at the area of its request, with
pc, the element of the position, the x and v registers and INSTRET at their places, sets CTXV, and puts the area in TINFO0.
Here nothing of the hart is on its way. -/
def Obligations.Interrupts : Prop :=
  (∀ (s : State),
     let e := s.hart.trap.status
     let elem := if s.hart.stopped then s.hart.vec.vstart else 0
     s.hart.status = .running → s.hart.inWfi = false → s.hart.load = none → s.posting = false →
     s.hart.priv = .u ∨ e.ie = true → e.ppend = false →
     ∀ c, (c = Cause.hostmsg ∧ e.hpend = true) ∨ (c = .timer ∧ e.hpend = false ∧ e.tpend = true) →
     ∃ u, exec .interrupt s = .next u ∧ Entered { cause := c, elem := elem } s u ∧
       TrapInfoIs s.hart.trap.tinfo0 s.hart.trap.tinfo1 s.hart.trap.tinfo2 s.hart.trap.tinfo3 u ∧
       u.hart.trap.status.hpend = false ∧ u.hart.trap.status.tpend = (e.tpend && decide (c ≠ .timer)) ∧ KeepsX s u ∧ KeepsV s u ∧
       KeepsP s u ∧ KeepsFcsr s u ∧ KeepsTaint s u ∧
       (s.core.trace = none → KeepsMemory s.discard u ∧ KeepsOutside s.discard u)) ∧
  (∀ (s : State) (area : BitVec 56),
     let e := s.hart.trap.status
     let elem := if s.hart.stopped then s.hart.vec.vstart else 0
     let z := area.toNat
     s.hart.status = .running → s.hart.inWfi = false → s.hart.load = none → s.posting = false → s.core.trace = none →
     s.hart.priv = .u ∨ e.ie = true → e.ppend = true → s.hart.late = [] →
     s.hart.preempt = some (area.setWidth 64) → s.core.wcb = [] → s.core.copies = [] → s.dev.combines = [] →
     ∃ u, exec .interrupt s = .next u ∧
       Entered { cause := .preempt, elem := elem } (s.setTrap { s.hart.trap with status := { e with ctxv := true } }) u ∧
       TrapInfoIs (area.setWidth 64) s.hart.trap.tinfo1 s.hart.trap.tinfo2 s.hart.trap.tinfo3 u ∧
       u.hart.trap.status.ppend = false ∧ u.hart.trap.status.ctxv = true ∧ u.hart.preempt = none ∧ KeepsX s u ∧ KeepsV s u ∧
       KeepsP s u ∧ KeepsFcsr s u ∧
       (s.memoryWf → z + contextSize s.rb s.hart.mat.mvl ≤ 2 ^ 56 →
         u.dev.read (z + 0x140) 8 = s.hart.pc.toNat ∧ u.dev.read (z + 0x150) 8 = elem % 2 ^ 64 ∧
         u.dev.read (z + 0x268) 8 = s.hart.counts.instret.toNat ∧
         (∀ r : BitVec 5, u.dev.read (z + 0x40 + 8 * r.toNat) 8 = (s.x r).toNat) ∧
         (∀ r : BitVec 6, u.dev.read (z + 0x1000 + s.rb * r.toNat) s.rb = (s.v r).data % 2 ^ (8 * s.rb)) ∧
         ∀ k, k < z ∨ z + contextSize s.rb s.hart.mat.mvl ≤ k → Memory.read u.dev.mem k = Memory.read s.dev.mem k))

/-- R79, R95, R346, R375: a PREEMPT request and a host message reach a device hart and become pending, or are taken at once;
a host message before an image runs is an Unsupported Request; the U instruction that takes TCOUNT to zero makes TIMER
pending; a breakpoint halts its hart before the instruction at pc issues, and a halted hart resumes. The model's choices:
TIMER_EXPIRY stands alone only as what the retirement at TCOUNT 1 does (log 76); a request is pending first, reaches a halted
hart too, and is taken when the hart next can (log 77). Here the hart is the one at the front. -/
def Obligations.Requests : Prop :=
  ∀ (s : State) (area : BitVec 56) (n : BitVec 8),
    let e := s.hart.trap.status
    let asked := s.hart.request (area.setWidth 64)
    s.hart.ident.uid = n.toNat → s.core.id = n.toNat / 8 →
    (s.hart.status = .running → s.hart.preempt = none → area.toNat % 4096 = 0 →
      (s.hart.priv = .s → e.ie = false → exec (.preempt n area) s = .next { s with hart := asked }) ∧
      (s.hart.inWfi = false → s.hart.load = none → s.posting = false → s.dev.combines = [] → s.hart.priv = .u ∨ e.ie = true →
        ∃ u, exec (.preempt n area) s = .next u ∧ u.hart.trap.cause = 0x20 ∧ u.hart.trap.tinfo0 = area.setWidth 64 ∧
          u.hart.trap.tpc = s.hart.pc ∧ u.hart.pc = s.hart.trap.tvec ∧ u.hart.priv = .s ∧ u.hart.trap.status.ctxv = true)) ∧
    (s.dev.running = true → s.hart.status ≠ .idle →
      ∃ u, exec (.hostmsg n) s = .next u ∧ u.hart = (s.setTrap { s.hart.trap with status := { e with hpend := true } }).hart ∧
        KeepsMemory s u ∧ u.dev.hostReply = .none) ∧
    (s.dev.running = false → exec (.hostmsg n) s = .next { s with dev := { s.dev with hostReply := .unsupported } }) ∧
    (s.hart.priv = .u → e.tcount = 1 →
      exec .timerExpiry s = .next (s.setTrap { s.hart.trap with status := { e with tcount := 0, tpend := true } })) ∧
    (s.hart.status = .running → s.hart.held = none → s.hart.load = none → s.hart.passed = false →
      s.hart.pc ∈ (s.dev.debugOf n.toNat).breaks →
      exec .breakpointHalt s = .next { s with hart := { s.hart with status := .halted, fetchPin := none } }) ∧
    (s.hart.status = .halted →
      exec (.haltedHartResume n) s = .next { s with hart := { s.hart with status := .running, passed := true } })

/-- R175, R306, R316, R322, R325: an entry of the write-combining buffer that is not provisional and that no earlier one must
precede drains to its bytes, under DETM.ARB if it is next in the logical order; a combine on its way is applied to its bytes;
the oldest broadcast to a die updates its mirror; the oldest post of a gang raises its channel. Each changes nothing else. -/
def Obligations.Deliveries : Prop :=
  ∀ (s : State) (k : BitVec 16) (die : BitVec 2) (id : BitVec 32),
    (∀ e, s.memoryWf → s.core.wcb[k.toNat]? = some e → (∀ f ∈ s.core.wcb.take k.toNat, f.before e = false) → e.window = none →
      e.prov = none → s.arb e.hart = false ∨ nextLogical s.logical s.core.wcb = some k.toNat →
      ∃ u, exec (.wcbDrain k) s = .next u ∧ u.core.wcb = s.core.wcb.eraseIdx k.toNat ∧ KeepsX s u ∧ KeepsRegisters s u ∧
        u.hart.pc = s.hart.pc ∧ (∀ j b, e.bytes[j]? = some b → Memory.read u.dev.mem (e.key + j) = b) ∧
        KeepsMemoryBut e.key e.bytes.length s u) ∧
    (∀ c, s.memoryWf → s.dev.combines[k.toNat]? = some c → (∀ d ∈ s.dev.combines.take k.toNat, d.before c = false) →
      c.window = none → (∀ d ∈ s.dev.combines, s.outranks d c = false) → c.core = s.core.id → s.core.wcb = [] →
      let w := tagWidth c.tag
      ∃ u, exec (.combineApplied k) s = .next u ∧ u.dev.combines = s.dev.combines.eraseIdx k.toNat ∧ KeepsX s u ∧
        KeepsRegisters s u ∧ u.hart.pc = s.hart.pc ∧
        u.dev.read c.key w = (CombineOp.ofCode c.op).apply c.tag (s.dev.read c.key w) c.value % 2 ^ (8 * w) ∧
        KeepsMemoryBut c.key w s u) ∧
    (∀ i r rest, s.dev.broadcasts = (mirrorKey die.toNat i, r) :: rest → i < 16384 → r.version ≠ 0 →
      ∃ u, exec (.srfMirrorUpdate die) s = .next u ∧ sparseGet {} u.dev.mirrors (mirrorKey die.toNat i) = r ∧
        u = { s with dev := { s.dev with broadcasts := rest, mirrors := u.dev.mirrors } } ∧
        ∀ j, j ≠ mirrorKey die.toNat i → sparseGet {} u.dev.mirrors j = sparseGet {} s.dev.mirrors j) ∧
    (∀ g c v rest, s.dev.gang id.toNat = some g → g.posts = (c, v) :: rest → c < 16 →
      ∃ u h, exec (.ringPostDelivery id) s = .next u ∧ u.dev.gang id.toNat = some h ∧ h.posts = rest ∧
        u = { s with dev := { s.dev with gangs := u.dev.gangs } } ∧
        ∀ j, h.ring[j]?.getD 0 = (let old := g.ring[j]?.getD 0; if j = c ∧ old.toNat < v.toNat then v else old))

/-- R377, R378: a frame of one posted access is applied at the peer and leaves the window's queue; an arriving access is
applied once, in its window's order, and a duplicate changes nothing. A frame that is not acknowledged is sent again; after
eight times the window moves to another port or its last millisecond begins; then the window goes down, what was posted is
dropped and counted; a restored link is up again once nothing is left to acknowledge. The numbers of the operations, how
tries are counted and when a link is cut off are the model's choices (log 96), and so is how loads count among frames (log
145). R366: a probe token makes its first hop to the drainer of the queue its unit waits on; back at its origin, while that
still waits on a full queue, it lets the waiting entry into that queue's attic slot; a unit that waits on a full queue
forwards it, up to 64 hops, and any other drops it. The numbers of units and queues, and which unit drains which queue, are
the model's choices (log 97). -/
def Obligations.Transport : Prop :=
  (∀ (s : State) (ctx : BitVec 16) (num : BitVec 8) (w : Window) (peer : BitVec 64) (seq : BitVec 32) (op : BitVec 4)
     (tag : BitVec 5) (va : BitVec 64) (n : BitVec 7) (data : BitVec 512) (expect : BitVec 64) (taint reaches : BitVec 1),
     let find (u : State) := u.dev.window ctx.toNat num.toNat
     s.memoryWf →
     (find s = some w → w.state = .up ∨ w.state = .retrying →
       (∀ p rest, w.posted = p :: rest → w.cut = none → p.bytes.length ≤ 4096 → 2 ^ 64 ≤ p.key →
         ∃ u w', exec (.ralbaFrameReceive 0 ctx num 1 peer seq op tag va n data expect taint) s = .next u ∧ find u = some w' ∧
           w'.posted = rest ∧ w'.state = (if rest = [] then .up else w.state) ∧
           (∀ j b, p.bytes[j]? = some b → j ∉ p.gap → Memory.read u.dev.mem (p.key + j) = b) ∧
           (w.state = .retrying → rest = [] → u.dev.read (deviceKey w.status) 8 = w'.statusWord) ∧
           { u.hart with taint := s.hart.taint } = s.hart ∧ (p.writer = none → u.hart = s.hart)) ∧
       (∃ u port, exec (.frameRetry ctx num reaches) s = .next u ∧ port < 6 ∧ find u = some (
           if w.tries < 8 then { w with tries := w.tries + 1 }
           else if reaches = 1 then { w with tries := 0, cut := none, state := .retrying, port := port }
           else { w with state := .retrying, cut := some (w.cut.getD s.dev.now) }) ∧ u.hart = s.hart) ∧
       (∀ t, w.cut = some t → t + 1000000 ≤ s.dev.now → s.dev.combines = [] → s.hart.load = none →
         ∃ u w', exec (.linkLoss ctx num) s = .next u ∧ find u = some w' ∧ w'.state = .down ∧ w'.posted = [] ∧
           w'.failed = w.failed + w.posted.length ∧ w'.lost = (w.lost || decide (w.posted ≠ [])) ∧
           u.dev.read (deviceKey w.status) 8 = w'.statusWord ∧ u.hart = s.hart)) ∧
     (find s = some w → w.state = .down ∨ w.state = .retrying →
       ∃ u w', exec (.remoteLinkRestored ctx num) s = .next u ∧ find u = some w' ∧
         w'.state = (if w.posted = [] then .up else .retrying) ∧ w'.cut = none ∧
         u.dev.read (deviceKey w.status) 8 = w'.statusWord ∧ u.hart = s.hart) ∧
     (let want := sparseGet 0 s.dev.received (256 * peer.toNat + num.toNat)
      (seq.toNat < want → exec (.ralbaFrameReceive 1 ctx num 1 peer seq op tag va n data expect taint) s = .next s) ∧
      (∀ key d, s.dev.running = true → seq.toNat = want → n ≠ 0 → va.toNat % 64 + n.toNat ≤ 64 → s.dev.gangs = [] → Memory.wf d.mem = true →
        s.dev.locate ctx.toNat (s.dev.rootOf ctx.toNat) va.toNat n.toNat .store = some ({ key := key, cls := .device }, d) →
        ∃ u, exec (.ralbaFrameReceive 1 ctx num 1 peer seq 1 tag va n data expect taint) s = .next u ∧
          sparseGet 0 u.dev.received (256 * peer.toNat + num.toNat) = want + 1 ∧ u.hart = s.hart ∧
          (∀ j, j < n.toNat → Memory.read u.dev.mem (key + j) = BitVec.ofNat 8 (data.toNat / 2 ^ (8 * j))) ∧
          (taint = 1 → u.dev.blockTainted key = true) ∧ KeepsMemoryBut key n.toNat { s with dev := d } u))) ∧
  (∀ (s : State) (unit queue k : BitVec 16) (waits : BitVec 17),
     ((∀ a ∈ s.dev.attic, a.2 ≠ unit.toNat) →
       ∃ t, exec (.probeTokenSend unit queue 0) s = .next { s with dev := { s.dev with tokens := s.dev.tokens ++ [t] } } ∧
         t.origin = unit.toNat ∧ t.queue = queue.toNat ∧ t.unit = Config.drainer queue.toNat ∧ t.hops = 1) ∧
     (∀ t, s.dev.tokens[k.toNat]? = some t →
       let rest := s.dev.tokens.eraseIdx k.toNat
       let full := waits.toNat % 2 ^ 16
       (waits.getLsbD 16 = false → exec (.probeTokenReceive k waits) s = .next { s with dev := { s.dev with tokens := rest } }) ∧
       (waits.getLsbD 16 = true → t.unit = t.origin → (∀ a ∈ s.dev.attic, a.1 ≠ full) →
         exec (.probeTokenReceive k waits) s =
           .next { s with dev := { s.dev with tokens := rest, attic := (full, t.origin) :: s.dev.attic } }) ∧
       (waits.getLsbD 16 = true → t.unit ≠ t.origin →
         exec (.probeTokenReceive k waits) s = .next { s with dev := { s.dev with tokens := rest ++ (
           if t.hops + 1 < 64 then [{ t with unit := Config.drainer full, hops := t.hops + 1 }] else []) } })))

/-! ### Power, the host and boot -/

/-- R349, R369, R370, R371, R373: the throttle of a die with its clock and the FLOW it causes, its end, the end of a lease
and of a boost excursion, the gating and ungating of an L2 way, and the rotation of a core's event sets. No hart changes. The
clock at a cap or the end of a throttle and the limit of gated ways are the model's choices (log 84), and so are the first
step of 50 MHz at the start (log 123) and that every way which meets the condition comes back (log 124). -/
def Obligations.PowerAndTime : Prop :=
  ∀ (s : State) (die : BitVec 2) (temp : BitVec 8) (steps core : BitVec 5) (slice : BitVec 11) (m a : BitVec 32) (fits : BitVec 1),
    let x := s.dev.dieOf die.toNat
    let recent := (x.changes.filter fun t => decide (s.dev.now < t + 1000000000)).length
    (x.thot ≤ temp.toNat → x.throttling = none → recent < 60 → steps ≠ 0 →
      ∃ u, exec (.throttleStart die temp steps) s = .next u ∧ u.hart = s.hart ∧
        (u.dev.dieOf die.toNat).throttling = some s.dev.now ∧
        (u.dev.dieOf die.toNat).clock = min x.clock (max 1200 (x.clock - 50 * steps.toNat)) ∧
        u.dev.blackBox.head?.map Prod.snd = some (.transition 1 die.toNat) ∧
        ∀ g ∈ s.dev.gangs, (∃ h ∈ s.hartsOf g.id, h.ident.core / 8 = die.toNat ∧
            min x.clock (max 1200 (x.clock - 50 * steps.toNat)) < g.fmin) →
          ∃ g' ∈ u.dev.gangs, g'.id = g.id ∧ g'.flow = true) ∧
    (∀ t, temp.toNat + 3 ≤ x.thot → x.throttling = some t → t + 8000000 ≤ s.dev.now → recent < 60 →
      ∃ u, exec (.throttleEnd die temp) s = .next u ∧ u.hart = s.hart ∧ (u.dev.dieOf die.toNat).throttling = none ∧
        (u.dev.dieOf die.toNat).clock ≤ 2250 ∧ u.dev.blackBox.head?.map Prod.snd = some (.transition 2 die.toNat)) ∧
    (∀ t, s.dev.lease.ends = some t → t ≤ s.dev.now →
      ∃ u, exec .leaseExpiry s = .next u ∧ u.hart = s.hart ∧ u.dev.lease = { seq := s.dev.lease.seq, cap := 1800, ends := none }) ∧
    (∀ t, s.dev.boost = some t → t + 10000000 ≤ s.dev.now →
      ∃ u, exec .boostEnd s = .next u ∧ u.hart = s.hart ∧ u.dev.boost = none) ∧
    (slice.toNat < 1536 → m.toNat ≤ a.toNat →
      (s.dev.slices = [] → m.toNat * 100 < a.toNat → fits = 1 →
        ∃ u, exec (.l2Window slice m a fits) s = .next u ∧ u.hart = s.hart ∧
          u.dev.slices = [(slice.toNat, { gated := [(m.toNat, a.toNat)] })]) ∧
      (∀ m0 a0, s.dev.slices = [(slice.toNat, { gated := [(m0, a0)] })] → 2 * m0 * a.toNat < m.toNat * a0 → a.toNat ≤ m.toNat * 100 →
        ∃ u, exec (.l2Window slice m a fits) s = .next u ∧ u.hart = s.hart ∧ u.dev.slices = []) ∧
      (∀ m0 a0, s.dev.slices = [(slice.toNat, { gated := [(m0, a0)] })] → 2 * m0 * a.toNat < m.toNat * a0 → m.toNat * 100 < a.toNat →
        fits = 1 → ∃ u, exec (.l2Window slice m a fits) s = .next u ∧ u.hart = s.hart ∧
          u.dev.slices = [(slice.toNat, { gated := [(m.toNat, a.toNat)] })])) ∧
    (∀ c, (s.coreOf core.toNat).counters = some c →
      ∃ u, exec (.counterRotation core) s = .next u ∧ u.hart = s.hart ∧
        (u.coreOf core.toNat).counters = some { c with current := (c.current + 1) % c.sets.length })

/-- R352, R374, R375, R376: while the image runs, a TAIL write moves a queue's TAIL or sets its error bit; a write through
the aperture and one of a device behind a root port change the named bytes of device memory; a host read and write of a
synchronisation register act at its home; a write of BAR 0 + 0x2000 sets the mailbox command. Before it runs each of these
accesses is an Unsupported Request. A read of BAR 0 + 0x2010 gives the mailbox status, or the status of the ROM before an
image runs. Here no gang records its inputs. That a queue which is not set has no slots (log 83) and what one read event may
read (log 127) are the model's choices. R342, R343: the recorded input of a replaying gang that is due, since its hart's U
count has reached its stamp, is applied once: a doorbell rings its queue. No hart changes. The data's place and ADDR of a
record are the model's choices (log 88). -/
def Obligations.HostAccesses : Prop :=
  (∀ (s : State) (q : BitVec 6) (v : BitVec 32) (off : BitVec 36) (n : BitVec 7) (data : BitVec 512) (i : BitVec 14) (x : BitVec 64)
     (port : BitVec 2) (va : BitVec 64),
     s.memoryWf → s.dev.gangs = [] →
     (s.dev.running = true →
       (let o := s.dev.queue q.toNat
        let ahead (z : Nat) : Int := ((z : Int) - o.head) % 2 ^ 32
        let slots : Int := if o.k = 0 then 0 else 2 ^ o.k
        ∃ u, exec (.tail q v) s = .next u ∧ u.hart = s.hart ∧ u.dev.hostReply = .none ∧ u.dev.queue q.toNat =
          (if ahead o.tail ≤ ahead v.toNat ∧ ahead v.toNat ≤ slots then { o with tail := v.toNat } else { o with error := true })) ∧
       (∀ k, s.dev.aperture = some k → n.toNat ≤ 64 → k * 2 ^ 36 + off.toNat + 64 ≤ 2 ^ 56 →
         s.dev.mapped (k * 2 ^ 36 + off.toNat) n.toNat = true →
         let pa := k * 2 ^ 36 + off.toNat
         ∃ u, exec (.hostApertureWrite off n data) s = .next u ∧ u.hart = s.hart ∧ u.dev.hostReply = .none ∧
           (∀ j, j < n.toNat → Memory.read u.dev.mem (pa + j) = BitVec.ofNat 8 (data.toNat / 2 ^ (8 * j))) ∧
           KeepsMemoryBut pa n.toNat s u) ∧
       exec (.hostSrfRead i) s = .next { s with dev := { s.dev with hostReply := .data (s.dev.srfHome i.toNat).value.toNat } } ∧
       (∃ u, exec (.hostSrfWrite i x) s = .next u ∧ u.hart = s.hart ∧ u.dev.hostReply = .none ∧ KeepsMemory s u ∧
         u.dev.srfHome i.toNat = { value := x, set := 0, version := (s.dev.srfHome i.toNat).version + 1 } ∧
         ∀ j, j ≠ i.toNat → u.dev.srfHome j = s.dev.srfHome j) ∧
       exec (.registerWrite 0 0x2000 8 x) s =
         .next { s with dev := { s.dev with mailbox := { s.dev.mailbox with command := x }, hostReply := .none } }) ∧
     s.take (.hostRead 0 0x2010 8) = .next { s with dev := { s.dev with
       freeCount := s.dev.freeCount + 1
       hostReply := .data (if s.dev.running then s.dev.mailbox.status
         else word (s.dev.boot.stage + s.dev.boot.reason % 2 ^ 8 * 2 ^ 8 + s.dev.boot.len % 2 ^ 32 * 2 ^ 16)).toNat } } ∧
     (s.dev.running = false →
       ∀ e ∈ [Instr.tail q v, .hostApertureWrite off n data, .hostSrfRead i, .hostSrfWrite i x, .registerWrite 0 0x2000 8 x],
         exec e s = .next { s with dev := { s.dev with hostReply := .unsupported } }) ∧
     (∀ k c key d, s.dev.rootPorts[port.toNat]? = some (some k) → s.dev.contextOf k = some c → n ≠ 0 →
       va.toNat % 64 + n.toNat ≤ 64 → Memory.wf d.mem = true →
       (s.dev.locate c.num c.root va.toNat n.toNat .store = some ({ key := key, cls := .device }, d) →
         ∃ u, exec (.rootPortDeviceAccess port 1 va n data) s = .next u ∧ u.hart = s.hart ∧ u.dev.rootReply = .none ∧
           (∀ j, j < n.toNat → Memory.read u.dev.mem (key + j) = BitVec.ofNat 8 (data.toNat / 2 ^ (8 * j))) ∧
           KeepsMemoryBut key n.toNat { s with dev := d } u) ∧
       (s.dev.locate c.num c.root va.toNat n.toNat .load = some ({ key := key, cls := .device }, d) →
         d.poisoned key n.toNat = none →
         exec (.rootPortDeviceAccess port 0 va n data) s =
           .next { s with dev := { d with rootReply := .data (d.read key n.toNat) } }))) ∧
  (∀ (s : State) (id : BitVec 32) (g : Gang) (n : Nat) (r : LogRecord) (bs : List Byte) (d : Dev),
     s.dev.gang id.toNat = some g → s.replayDue g = some (n, r) → r.kind ∈ [1, 2, 3] ∧ n ∉ g.replayed ∧
     (∃ h ∈ s.hartsOf g.id, h.ident.lhart = r.lhart ∧ r.stamp ≤ h.counts.ucount.toNat) ∧
     ∃ u g', exec (.replayInputApply id) s = .next u ∧ u.hart = s.hart ∧ u.parked = s.parked ∧ u.dev.gang id.toNat = some g' ∧
       g'.replayed = n :: g.replayed ∧
       (r.kind = 2 → s.dev.readVirtual g.ctx (s.dev.rootOf g.ctx) (g.log.toNat + Config.logDataBase g.log.toNat + r.doff) r.len
           = some (bs, d) →
         KeepsMemory s u ∧
         u.dev.queue (r.addr / 8 % 64) = (s.dev.queue (r.addr / 8 % 64)).writeTail (ofBytes bs % 2 ^ 32)))

/-- R339, R351, R379, R380, R381: a reset leaves memory with its taint, the black box, fuses and flash, makes retirements
take effect and starts the boot ROM with no hart running; a power loss leaves fuses and flash. A recovery doorbell with a
valid length starts the check of the recovery image; the check of an image ends with it running if its magic number, keys,
signatures and security version are all right, and else with the number of one that is not. What a reset and a power loss
keep (log 89), the checks of an image (log 90) and the values of an idle hart and of registers without a reset value (logs 2
and 3) are the model's choices. -/
def Obligations.ResetAndBoot : Prop :=
  ∀ (s : State) (atomics : BitVec 1) (len : BitVec 64),
    (∃ u, exec (.deviceReset atomics) s = .next u ∧ u.hart = {} ∧ u.core = {} ∧ u.parked = [] ∧ u.cores = [] ∧
      u.dev.mem = s.dev.mem ∧ u.dev.poison = s.dev.poison ∧ u.dev.blackBox = s.dev.blackBox ∧
      u.dev.retired = s.dev.retired ++ s.dev.retiring ∧ u.dev.retiring = [] ∧ u.dev.boot = { stage := 1 } ∧
      u.dev.hostAtomics = decide (atomics = 1) ∧ u.dev.gangs = [] ∧ u.dev.contexts = [] ∧ u.dev.queues = Vector.replicate 64 {} ∧
      u.dev.aperture = none ∧ u.dev.windows = [] ∧ u.dev.srf = [] ∧ u.dev.running = false ∧ u.dev.fuses = s.dev.fuses ∧
      u.dev.flash = s.dev.flash ∧
      u.dev.blocks = (s.dev.blocks.filter fun b => b.2.tainted).map fun b => (b.1, { tainted := true })) ∧
    (∃ u, exec .powerLoss s = .next u ∧ u.hart = {} ∧ u.parked = [] ∧ u.dev.mem = [] ∧ u.dev.blackBox = [] ∧ u.dev.gangs = [] ∧
      u.dev.retired = [] ∧ u.dev.boot = { stage := 1 } ∧ u.dev.fuses = s.dev.fuses ∧ u.dev.flash = s.dev.flash) ∧
    (s.dev.boot.stage = 2 →
      ∃ u, exec (.recoveryDoorbell len) s = .next u ∧ u.hart = s.hart ∧ u.dev.mem = s.dev.mem ∧
        (if len.toNat % 16 = 0 ∧ 4096 ≤ len.toNat ∧ len.toNat ≤ 2097152 then u.dev.boot = { s.dev.boot with stage := 3, len := len.toNat }
         else u.dev.boot.stage = 2 ∧ u.dev.boot.reason = 6)) ∧
    (s.dev.boot.stage = 1 ∨ s.dev.boot.stage = 3 →
      let image := if s.dev.boot.stage = 1 then s.dev.flash else Memory.readN s.dev.bar4 0 s.dev.boot.len
      let keys := Config.imageKeys image
      let f := s.dev.fuses
      let holds : List Bool :=
        [Config.imageMagic image, Config.sha384 keys.1 == f.rsaDigest && Config.sha384 keys.2 == f.slhDigest,
         Config.rsaVerifies keys.1 image, Config.slhVerifies keys.2 image, decide (f.counter ≤ Config.securityVersion image)]
      ∃ u, exec .imageVerificationDone s = .next u ∧
        u = { s with dev := { s.dev with boot := u.dev.boot, image := u.dev.image } } ∧ u.dev.boot.len = s.dev.boot.len ∧
        if holds.all id then u.dev.boot.stage = 4 ∧ u.dev.image = image
        else u.dev.boot.stage = 2 ∧ 1 ≤ u.dev.boot.reason ∧ holds[u.dev.boot.reason - 1]? = some false ∧ u.dev.image = s.dev.image)

/-! ### Gangs -/

/-- R352, R353, R354, R356, R357, R361: the head packet of a queue that is ready, goes first and is placed validly starts a
gang: HEAD goes on, the gang has the packet's fields, and each logical hart stands on its core and slot in U at ENTRY in the
starting state. A packet that fails without a status word or a signal moves HEAD on and is recorded. Zero bits of the vector
registers and the matrix state of a starting hart (log 2), the code of a failed packet (log 81) and what a valid placement is
(log 82) are the model's choices. -/
def Obligations.GangStart : Prop :=
  ∀ (s : State) (q : BitVec 6) (cores : BitVec 160) (slots : BitVec 768),
    let x := s.dev.queue q.toNat
    let p := s.dev.headPacket x
    let past := { x with head := (x.head + 1) % 2 ^ 32 }
    (∀ c l t k, s.headState q.toNat = .ready c l t k → s.goesFirst q.toNat p.prio = true →
      s.placingValid { pb0 := p.pb0, pb1 := p.pb1, pb2 := p.pb2, lcpd := p.lcpd, shape := l } (Placing.of cores slots) = true →
      (∀ g ∈ s.dev.gangs, g.id ≠ s.dev.nextId) → (l.map fun h => h.lhart).Nodup →
      ∃ u g, exec (.gangStart q cores slots) s = .next u ∧ u.dev.queue q.toNat = past ∧ u.dev.nextId = s.dev.nextId + 1 ∧
        u.dev.gang s.dev.nextId = some g ∧ g.ctx = c.num ∧ g.prio = p.prio ∧ g.entry = p.entry ∧ g.detm = p.detm ∧
        g.signal = p.signal ∧ g.cstat = k ∧ g.trees = t ∧ g.srfBase = p.srfBase ∧ g.srfLen = p.srfLen ∧ g.status = .running ∧
        ∀ h ∈ l, ∃ r ∈ u.hartsOf s.dev.nextId, r.ident.lhart = h.lhart ∧ r.ident.lcore = h.lcore ∧
          r.ident.core = cores.toNat / 2 ^ (5 * h.lcore) % 32 ∧ r.ident.slot = slots.toNat / 2 ^ (3 * h.lhart) % 8 ∧
          r.status = .running ∧ r.priv = .u ∧ r.pc = p.entry ∧ r.x = Vector.replicate 32 0 ∧ r.fcsr = {} ∧ r.loops = {} ∧
          r.vec = {} ∧ r.v = Vector.replicate 64 {} ∧ r.streams = Vector.replicate 8 none ∧ r.y = Vector.replicate 8 {} ∧
          r.taint = {} ∧ r.counts = {} ∧ r.trap = { tvec := c.tvec, status := { tcount := c.tcount } } ∧
          r.detm = p.detm ∧ r.mat = { granted := h.mmode } ∧ r.ctx = c.num ∧ r.root = c.root) ∧
    (∀ code, s.headState q.toNat = .fails code none false →
      ∃ u, exec (.gangStart q cores slots) s = .next u ∧ u.dev.queue q.toNat = past ∧ u.hart = s.hart ∧ u.dev.gangs = s.dev.gangs ∧
        u.dev.blackBox.head?.map Prod.snd = some (.launchError q.toNat x.head code))

/-- R116, R359, R360, R365: a gang whose harts have all ended, one that a double trap ends and one that the supervisor side
ends leaves its cores, queues and regions, with its completion word written and its signal raised by 1, or by 2^32 + 1 for an
error. Here nothing of the cores is on its way, and no window holds an access up. -/
def Obligations.GangEnd : Prop :=
  ∀ (s : State) (id : BitVec 32) (g : Gang) (code lhart cause : Nat),
    let n := id.toNat
    s.memoryWf → s.dev.gang n = some g → s.dev.combines = [] → s.dev.windows = [] →
    (∀ c ∈ s.core :: s.cores, c.wcb = [] ∧ c.copies = []) →
    ∀ p ∈ [(Instr.gangComplete id, (0, 0, 0), s.dev.failing = [] ∧ g.status = .running ∧ ∀ h ∈ s.hartsOf n, h.status = .ended),
      (.gangComplete id, (code, lhart, cause), code ≠ 0 ∧ s.dev.failing = [(n, code, lhart, cause)]),
      (.endedBySupervisorSide id, (5, 0, 0), True)],
    p.2.2 →
    let (e, h, c) := p.2.1
    ∃ u, exec p.1 s = .next u ∧ u.dev.gang n = none ∧ u.hartsOf n = [] ∧
      (∀ k ∈ u.core :: u.cores, ∀ t ∈ k.tasks, t.2 ≠ n) ∧ (∀ r ∈ u.dev.regions, r.gang ≠ n) ∧
      (∀ k, g.cstat = some k → u.dev.read k 8 = 2 ^ 63 + e % 2 ^ 7 * 2 ^ 56 + g.flow.toNat * 2 ^ 49 + g.clip.toNat * 2 ^ 48
        + h % 2 ^ 8 * 2 ^ 40 + c % 2 ^ 8 * 2 ^ 32) ∧
      (∀ i, g.signal = some i → (u.dev.srfHome i).value = (s.dev.srfHome i).value + (if e = 0 then 1 else word (2 ^ 32 + 1)))

/-- R362, R363, R364: when a packet of class 0 finds no place, the gang that goes first is saved as a whole and leaves its
cores, keeping who its harts are; it comes back on any cores that can take it, with its harts where the scheduler puts them.
When a gang can be pre-empted and which areas are valid (log 85), and what a resumed gang keeps (log 86), are the model's
choices. -/
def Obligations.GangPreemption : Prop :=
  ∀ (s : State) (id : BitVec 32) (g : Gang) (c : Context),
    let n := id.toNat
    s.dev.gang n = some g → s.dev.contextOf g.ctx = some c →
    (∀ (record : BitVec 56) (areas : BitVec 14336) v,
      let area (h : Nat) : Nat := areas.toNat / 2 ^ (56 * h) % 2 ^ 56
      s.starved = true → s.windowCopiesReady n = true → s.victim = some v → v.id = n → (∀ h ∈ s.hartsOf n, s.preemptible h = true) →
      areasValid c ((record.toNat, g.recordParts.2.2.2) ::
        ((s.hartsOf n).filter fun h => h.status == .running).map fun h => (area h.ident.lhart, h.areaSize)) = true →
      ∃ u g', exec (.gangPreempt id record areas) s = .next u ∧ u.hartsOf n = [] ∧ u.dev.gang n = some g' ∧
        g'.status = .preempted ∧ g'.record = record.toNat ∧ g'.posts = [] ∧ g'.shape = g.shape ∧
        g'.saved.map (fun x => (x.ident, x.status)) = (s.hartsOf n).map (fun h => (h.ident, h.status))) ∧
    (∀ (cores : BitVec 160) (slots : BitVec 768),
      let z := Placing.of cores slots
      g.status = .preempted → s.tasksFit g z = true →
      s.placingValid { pb0 := g.pb0, pb1 := g.pb1, pb2 := g.pb2, lcpd := g.lcpd, shape := g.shape } z = true →
      g.saved.map (fun x => (x.ident.lhart, x.ident.lcore)) = g.shape.map (fun h => (h.lhart, h.lcore)) →
      (g.shape.map fun h => h.lhart).Nodup → (∀ x ∈ g.saved, x.status ≠ .idle) →
      ∃ u g', exec (.gangResume id cores slots) s = .next u ∧ u.dev.gang n = some g' ∧ g'.status = .running ∧ g'.saved = [] ∧
        g'.savedTasks = [] ∧ g'.shape = g.shape ∧ g'.detm = g.detm ∧
        ∀ x ∈ g.saved, ∃ r ∈ u.hartsOf n, r.ident.lhart = x.ident.lhart ∧ r.ident.lcore = x.ident.lcore ∧ r.status = x.status ∧
          r.ident.core = cores.toNat / 2 ^ (5 * x.ident.lcore) % 32 ∧ r.ident.slot = slots.toNat / 2 ^ (3 * x.ident.lhart) % 8 ∧
          r.pavilions = x.pavilions ∧ r.detm = g.detm ∧ r.edge.isSome = x.edge.isSome)

/-! ### The mailbox -/

/-- R352, R370, R373, R374, R376, R377, R378, R379, R383, R384: a mailbox command with valid arguments sets what it names and
completes with no bytes; with a buffer that is not 8-aligned it fails with code 0x03 and changes nothing else. That arguments
stand in the event rows (log 92), the codes of refusals (log 93) and the numbers of resources (log 95) are the model's
choices. -/
def Obligations.MailboxSettings : Prop :=
  ∀ (s : State) (buf seq peer base len : BitVec 64) (queue : BitVec 6) (k num kind : BitVec 8) (qbase status : BitVec 56)
    (cap ctx peerCtx number : BitVec 16) (ms : BitVec 32),
    let cmd := s.dev.mailbox.command.toNat
    let d := s.dev
    let q (i : Nat) : Nat := s.dev.read (hostKey (buf.toNat + 8 * i)) 8
    s.dev.running = true → d.mailbox.busy = none →
    ∀ p ∈ [(Instr.setLaunchQueue buf queue k qbase, (2 : Nat),
        4 ≤ k.toNat ∧ k.toNat ≤ 16 ∧ qbase.toNat % 4096 = 0 ∧ d.mapped qbase.toNat (128 * 2 ^ k.toNat) = true ∧
          (d.queue queue.toNat).waiting = 0,
        fun e : Dev => e.queue queue.toNat = { d.queue queue.toNat with base := qbase.toNat, k := k.toNat }),
      (.rackLease buf seq cap ms, 3,
        600 ≤ cap.toNat ∧ cap.toNat ≤ 2400 ∧ 1 ≤ ms.toNat ∧ ms.toNat ≤ 60000 ∧ ∀ n, d.lease.seq = some n → n < seq.toNat,
        fun e => e.lease = { seq := some seq.toNat, cap := cap.toNat, ends := some (d.now + ms.toNat * 1000000) }),
      (.setWindow buf ctx num peer peerCtx base len status, 4,
        status.toNat % 8 = 0 ∧ d.mapped status.toNat 8 = true ∧ ∀ w, d.window ctx.toNat num.toNat = some w → w.posted = [],
        fun e => e.window ctx.toNat num.toNat = some {
          ctx := ctx.toNat, num := num.toNat, peer := peer.toNat, peerCtx := peerCtx.toNat, base := base.toNat, length := len.toNat
          status := status.toNat, state := .up, failed := 0, lost := false, posted := [] } ∧
          (s.memoryWf → e.read status.toNat 8 = 1)),
      (.retireResource buf kind number, 7,
        kind = 0 ∨ (kind = 1 ∧ number.toNat < 8) ∨ (kind = 2 ∧ number.toNat < 128) ∨ (kind = 3 ∧ number.toNat < 32),
        fun e => e.retiring = d.retiring ++ [(kind.toNat, number.toNat)] ∧ e.retired = d.retired),
      (.registerContext buf, 9,
        (∃ c, contextOfRecord (cmd / 2 ^ 8 % 2 ^ 16) q = some c ∧ d.mapped c.save c.saveSize = true) ∧ ∀ g ∈ d.gangs, g.ctx ≠ cmd / 2 ^ 8 % 2 ^ 16,
        fun e => ∃ c, e.contextOf (cmd / 2 ^ 8 % 2 ^ 16) = some c ∧ c.root = q 0 ∧ c.tvec = word (q 1) ∧ c.srfBase = q 2 % 2 ^ 14 ∧
          c.srfLen = q 2 / 2 ^ 16 % 2 ^ 15 ∧ c.tcount = BitVec.ofNat 32 (q 4) ∧ c.save = q 5 ∧ c.saveSize = q 6),
      (.placeAperture buf, 10, cmd / 2 ^ 8 % 2 ^ 8 ≤ 5, fun e => e.aperture = some (cmd / 2 ^ 8 % 2 ^ 8)),
      (.setThot buf, 11, 85 ≤ cmd / 2 ^ 16 % 2 ^ 8 ∧ cmd / 2 ^ 16 % 2 ^ 8 ≤ 105,
        fun e => e.dieOf (cmd / 2 ^ 8 % 4) = { d.dieOf (cmd / 2 ^ 8 % 4) with thot := cmd / 2 ^ 16 % 2 ^ 8 }),
      (.setEthertype buf, 12, True, fun e => e.etherType = cmd / 2 ^ 8 % 2 ^ 16),
      (.assignRootPort buf, 13, True, fun e => e.rootPorts[cmd / 2 ^ 8 % 4]? = some (some (cmd / 2 ^ 24 % 2 ^ 16)))],
    cmd % 256 = p.2.1 →
    (buf.toNat % 8 = 0 → p.2.2.1 →
      ∃ u, exec p.1 s = .next u ∧ u.hart = s.hart ∧ u.core = s.core ∧ u.dev.mailbox.status = word (2 ^ 63) ∧
        u.dev.commands = d.commands + 1 ∧
        u.dev.blackBox = ((Config.ioCycle d.now, .command p.2.1) :: d.blackBox).take 4096 ∧ p.2.2.2 u.dev) ∧
    (buf.toNat % 8 ≠ 0 →
      exec p.1 s = .next { s with dev := { d with mailbox := { d.mailbox with status := word (2 ^ 63 + 3 * 2 ^ 56) } } })

/-- R349, R350, R365, R382, R383, R385: the summary, and the attestation report with its two signatures, fill the buffer and
change nothing else; a debug request replaces a hart's breakpoints and watchpoints, a core's event sets or trace, or writes
counts and times or the trace's state behind the request; a hart reset restarts its hart at ENTRY. The layouts of summary and
attestation (log 91), the counters that show a free value and are shared by the sets (log 49), and what a hart reset keeps
(logs 2 and 87) are the model's choices. -/
def Obligations.MailboxReports : Prop :=
  ∀ (s : State) (buf : BitVec 64) (hart : BitVec 8),
    let cmd := s.dev.mailbox.command.toNat
    let d := s.dev
    let q (o : Nat) : Nat := s.dev.read (hostKey (buf.toNat + o)) 8
    let at' (e : Dev) (o : Nat) : Nat := e.read (hostKey (buf.toNat + 0x100 + o)) 8
    let core := q 0 / 2 ^ 8 % 32
    let slot := q 0 / 2 ^ 16 % 8
    let body := Config.attestation (Memory.readN d.mem (hostKey buf.toNat) 32) (
      [Config.sha384 Config.rom, Config.sha384 d.image] ++ d.contexts.map (fun c => Config.sha384 c.record) ++
        [Config.securityVersion d.image] ++ d.capacity)
    let measured := Config.sha384 d.image
    s.dev.running = true → d.mailbox.busy = none → buf.toNat % 8 = 0 → s.memoryWf →
    (∀ p ∈ [(Instr.summary buf, 1, Config.summaryLayout d.summary),
        (.attestationReport buf, 6, body ++ Config.rsaSign (Config.rsaIdentity d.fuses.secret measured) body ++
          Config.slhSign (Config.slhIdentity d.fuses.secret measured) body)],
      cmd % 256 = p.2.1 →
      let bs := p.2.2
      ∃ u, exec p.1 s = .next u ∧ u.hart = s.hart ∧ u.dev.mailbox.status = word (2 ^ 63 + bs.length % 2 ^ 32) ∧
        u.dev.commands = d.commands ∧ (∀ j b, bs[j]? = some b → Memory.read u.dev.mem (hostKey buf.toNat + j) = b) ∧
        KeepsMemoryBut (hostKey buf.toNat) bs.length s u) ∧
    (cmd % 256 = 8 → q 0 / 2 ^ 13 % 8 = 0 → q 0 / 2 ^ 19 = 0 → buf.toNat + 0x200 ≤ 2 ^ 56 →
      (q 0 % 256 = 0 → (∀ o ∈ [0x08, 0x10, 0x18, 0x20], q o % 4 = 0) → d.debug = [] →
        ∃ u, exec (.setBreakpoints buf) s = .next u ∧ u.hart = s.hart ∧ u.dev.mailbox.status = word (2 ^ 63) ∧
          (u.dev.debugOf (8 * core + slot)).breaks = (([0x08, 0x10, 0x18, 0x20].map q).filter fun a => a != 0).map word ∧
          (u.dev.debugOf (8 * core + slot)).watches = [0x28, 0x38, 0x48, 0x58].flatMap fun o =>
            let k := q (o + 8)
            if k % 2 ^ 32 = 0 then []
            else [{ base := word (q o), len := k % 2 ^ 32, load := k.testBit 32, store := k.testBit 33, fetch := k.testBit 34 }]) ∧
      (let n := q 8 / 2 ^ 16 % 16
       q 0 % 256 = 1 → q 8 % 2 ^ 16 ≠ 0 → 1 ≤ n → n ≤ 4 →
        ∃ u, exec (.setCounters buf) s = .next u ∧ u.hart = s.hart ∧ u.dev.mailbox.status = word (2 ^ 63) ∧
          (u.coreOf core).counters = some { period := q 8 % 2 ^ 16, sets := (List.range n).map fun i => q (0x10 + 8 * i) }) ∧
      (q 0 % 256 = 2 →
        ∃ u, exec (.readCounters buf) s = .next u ∧ u.hart = s.hart ∧ u.dev.mailbox.status = word (2 ^ 63 + 192) ∧
          ∀ c, c < 8 → (match (s.coreOf core).counters with
            | none => at' u.dev (24 * c) = 0 ∧ at' u.dev (24 * c + 8) = 0 ∧ at' u.dev (24 * c + 16) = 0
            | some k =>
              ((∀ z ∈ k.sets, z / 2 ^ (8 * c) % 256 ∈ [1, 2, 8, 9, 12, 13] ∨ 16 ≤ z / 2 ^ (8 * c) % 256) →
                at' u.dev (24 * c) = k.count[c]?.getD 0 % 2 ^ 64) ∧
              at' u.dev (24 * c + 8) = k.enabled % 2 ^ 64 ∧ at' u.dev (24 * c + 16) = k.running[c]?.getD 0 % 2 ^ 64)) ∧
      (let k := q 0x10 % 32
       q 0 % 256 = 3 → q 8 % 4096 = 0 → 12 ≤ k → k ≤ 30 → d.mapped (q 8) (2 ^ k) = true →
        ∃ u, exec (.setTrace buf) s = .next u ∧ u.hart = s.hart ∧ u.dev.mailbox.status = word (2 ^ 63) ∧
          (u.coreOf core).trace = some {
            base := q 8, size := 2 ^ k, wrap := (q 0x10).testBit 8, mask := q 0x10 / 2 ^ 16 % 2 ^ 16 }) ∧
      (∀ t, q 0 % 256 = 4 → (s.coreOf core).trace = some t →
        ∃ u, exec (.readTraceStatus buf) s = .next u ∧ u.hart = s.hart ∧ u.dev.mailbox.status = word (2 ^ 63 + 16) ∧
          at' u.dev 0 = t.offset % 2 ^ 64 ∧ at' u.dev 8 = t.full.toNat + 2 * t.wrapped.toNat)) ∧
    (∀ g c, cmd % 256 = 5 → s.hart.ident.uid = hart.toNat → s.core.id = hart.toNat / 8 → s.hart.status ≠ .idle →
      d.gang s.hart.ident.gang = some g → d.contextOf s.hart.ctx = some c → s.core.copies = [] → s.hart.late = [] →
      ∃ u, exec (.resetHart buf hart) s = .next u ∧ u.dev.mailbox.status = word (2 ^ 63) ∧ u.hart.status = .running ∧
        u.hart.priv = .u ∧ u.hart.pc = g.entry ∧ u.hart.x = Vector.replicate 32 0 ∧ u.hart.fcsr = {} ∧ u.hart.loops = {} ∧
        u.hart.vec = {} ∧ u.hart.v = Vector.replicate 64 {} ∧ u.hart.counts = {} ∧ u.hart.taint = {} ∧
        u.hart.trap = { tvec := c.tvec, status := { tcount := c.tcount } } ∧ u.hart.ident = s.hart.ident ∧ KeepsMemory s.discard u ∧
        u.core.tasks = s.core.tasks)

/-! ### The whole machine -/

/-- R10, R88, R351, R353, R370, R373, R378, R380: the machine right after reset: no hart runs, the boot ROM checks the flash
image, no queue, context, window or gang exists, Thot is 95 °C, the safe cap holds and the EtherType is 0x88B5. Memory with
nothing listed is in its canonical form. That an unwritten byte reads as zero is the model's choice (log 1), and so is that
the idle hart at the front holds the values of R357 before a start (log 3). -/
def Obligations.ResetValues : Prop :=
  let s := State.reset
  s.hart.status = .idle ∧ s.parked = [] ∧ s.agenda = [] ∧ s.dev.boot.stage = 1 ∧ s.dev.running = false ∧ s.dev.gangs = [] ∧
  s.dev.contexts = [] ∧ s.dev.windows = [] ∧ s.dev.regions = [] ∧ s.dev.retired = [] ∧ s.dev.blackBox = [] ∧
  s.dev.aperture = none ∧ (∀ q, s.dev.queue q = {}) ∧ (∀ i, i < 4 → (s.dev.dieOf i).thot = 95) ∧
  s.dev.lease = { seq := none, cap := 1800, ends := none } ∧ s.dev.etherType = 0x88B5 ∧ s.memoryWf ∧
  (∀ k, Memory.read s.dev.mem k = 0) ∧ (∀ r, s.x r = 0) ∧ s.hart.vec.lslip = 15 ∧ s.hart.vec.hdim = 64

/-- R32 to R37: words written out field by field from their encodings, the manual's own worked encodings among them, decode
to the instructions they stand for: every format, both words of a long form, and corners of signed and divided fields. -/
def Obligations.DecodedWords : Prop :=
  ∀ p ∈ [
    -- X: FN B A D OP (add); FN of AMO is scope, order, size, op (amoadd, 64 bits, release, device)
    ([0b0000000000_00111_00101_00011_0000001#32], Instr.add 3 5 7),
    ([0b011_10_1_0001_00010_00001_11111_0011100#32], .amoadd 31 1 2 1 2 3),
    -- I: IMM A D OP (addi −1; slli by 63; csrrs x10, vl, zero); U: IMM D OP (lui)
    ([0b111111111111111_00010_00001_0000010#32], .addi 1 2 0x7FFF),
    ([0b000_000000_111111_00101_00100_0001000#32], .slli 4 5 63),
    ([0x2020051F#32], .csrrs 10 0 0x010),
    ([0b10000000000000000001_11111_0001001#32], .lui 31 0x80001),
    -- B: OFF CND B A OP (bge, two words back); J: OFF D OP (jal, 16 words on)
    ([0b111111111110_101_00110_00101_0001100#32], .bge 5 6 0xFFE),
    ([0b00000000000000010000_00001_0001101#32], .jal 1 16),
    -- fence sv; a vadd of two vectors under p5; a vadd with x7
    ([0x4580001D#32], .fence 3 1 2), ([0x0A1840B1#32], .vaddV 1 2 3 5), ([0x003840B2#32], .vaddW 1 2 7 0),
    -- M: FN PG O IX XA VD OP (vlds by x9; vstx by v40, order=elem)
    ([0b001_0011_0_001001_00100_000110_1000000#32], .vlds 6 4 9 0 3),
    ([0b010_0000_1_101000_00100_111111_1000001#32], .vstx 63 4 40 1 0),
    -- L: FN B A D OP, then EXT (li with either extension; loopi 1, 100, 8 words)
    ([0x000002F1#32, 0x12345678#32], .li 5 0 0x12345678), ([0x020002F1#32, 0x80000000#32], .li 5 1 0x80000000),
    ([0b0000000_000000_000000_000001_1110000#32, 0b0000000000001000_0000000001100100#32], .loopi 1 8 100)],
    decode (p.1.flatMap bytesOfWord) = .ok (p.2, [])

/-- R29, R31, R94: with nothing else to do first, a step fetches the words at pc and runs exactly the instruction that they
decode to, at its own address; an instruction that has been fetched and has not retired runs again as decoded (R94), and when
it retires, what has issued behind it comes up. What a step adds beside is what a trace unit and counters see: nothing where
neither is set up. Here the hart performs its accesses in order, and no copy is pending. The bytes at pc, on a page whose
translation the hart holds, are the words that are fetched. -/
def Obligations.StepRunsDecoded : Prop :=
  ∀ (s v : State) (i : Instr) (w : Word),
    s.agenda = [] → s.hart.status = .running → s.inputDue = none → s.interruptDue = none → s.atBreak = false →
    (s.hart.held = none → s.fetchInstr = .ok (w, v) → decodeWords w = some i → v.core.copies = [] → v.hart.prov = none →
      v.inOrder → v.core.trace = none →
      step s = observed i v.hart.pc v.hart.counts.instret (exec i { v with hart := { v.hart with held := some i } })) ∧
    (s.hart.held = some i → s.core.copies = [] → s.hart.prov = none → s.inOrder →
      step s = comeUpAfter s.hart (observed i s.hart.pc s.hart.counts.instret (exec i s))) ∧
    (∀ (u : State) h, u.hart.ahead = none ∨ u.hart.counts.instret = h.counts.instret → comeUpAfter h (.next u) = .next u) ∧
    (s.hart.held = none → s.fetchInstr = .ok (w, v) → decodeWords w = none → step s = exec (.illegal w) v) ∧
    (∀ (u : State) p n, u.core.trace = none → u.core.counters = none → observed i p n (.next u) = .next u) ∧
    (∀ e key, let pc := s.hart.pc.toNat
      let w0 := BitVec.ofNat 32 (s.dev.read key 4)
      s.hart.fetchPin = none → inWindow pc = false → cached s.hart.tlb pc .fetch = some e → permits e s.hart.priv .fetch = true →
      classify s.dev s.hart.ctx e pc 4 = .ok { key := key, cls := .device } → s.dev.poisoned key 4 = none →
      s.watchHit pc 4 .fetch = none → isLong w0 = false →
      s.fetchInstr = .ok (w0.setWidth 64, { s with hart := { s.hart with
        fetchPin := some { block := pc / 64, entry := e, stale := false } } }))

/-- R29 to R38, R148, R195, R227, R255, R286: decoding the bytes of any well-formed instruction that has an encoding gives it
back with every operand, and leaves the bytes behind it; and whatever decodes is well formed, and its bytes are exactly those
that were read, so that a word with a field out of its range or a nonzero must-be-zero bit is refused. -/
def Obligations.EncodeDecode : Prop :=
  (∀ (i : Instr) (rest : List Byte), i.wellFormed = true → encode i ≠ [] → decode (encodeBytes i ++ rest) = .ok (i, rest)) ∧
  (∀ (bs rest : List Byte) (i : Instr), decode bs = .ok (i, rest) → i.wellFormed = true ∧ bs = encodeBytes i ++ rest)

/-- Every step, whatever the turn, keeps memory in its canonical form: keys rise and no listed byte is what an unlisted one
reads as. -/
def Obligations.MemoryInvariant : Prop :=
  ∀ s t : State, s.memoryWf → step s = .next t → t.memoryWf
end

