-- ==== Sys2Proof/Laws/Ahead.lean ====
section
/-!
SUPPORT. What running ahead can do, said once: issue behind the oldest instruction, execution at the issue point, early reads,
and what comes up when the oldest completes (R85, R105).
-/

namespace Sys2Proof.Machine

/-- What a completion brings up: nothing, or what had issued behind it. -/
theorem comeUpAfter_next {h : Hart} {r : Res} {t : State} (e : comeUpAfter h r = .next t) :
    ∃ s, r = .next s ∧ (t = s ∨ t = s.comeUp h.held) := by
  cases r with
  | next s =>
    simp only [comeUpAfter, Host.Outcome.next.injEq] at e
    exact ⟨s, rfl, by split at e <;> simp [← e]⟩
  | fault f => cases e
  | refused f => cases e

/-- With nothing issued behind it, an instruction completes as it does alone. -/
theorem comeUp_of_none {s : State} (i : Option Instr) (h : s.hart.ahead = none) : s.comeUp i = s := by
  simp [State.comeUp, h]

/-- A scalar instruction at the issue point: it retires there, and of its hart only the stream ahead and the cached
translations have changed. -/
theorem executeAhead_some {s t u : State} {a : Ahead} {i : Instr} (h : s.executeAhead t a i = some u) :
    ∃ r, exec i t = .next r ∧ r.hart.counts.instret = t.hart.counts.instret + 1 ∧
      u = { r with hart := { s.hart with
        tlb := r.hart.tlb
        ahead := some { a with now := { r.hart.side with tainted := a.now.tainted }, waiting := none } } } := by
  simp only [State.executeAhead] at h
  split at h
  · rename_i r hr
    split at h
    · rename_i hc
      exact ⟨r, hr, hc, (Option.some.inj h).symm⟩
    · cases h
  · cases h

/-- An instruction that waits changes no memory and no other hart, and of its core at most which entries are closed. -/
theorem enqueue_outside (s t : State) (a : Ahead) (i : Instr) :
    (s.enqueue t a i).dev = t.dev ∧ (s.enqueue t a i).core = (if i.partsStores = true then t.closeAll else t).core ∧
      (s.enqueue t a i).cores = t.cores ∧ (s.enqueue t a i).parked = t.parked := by
  unfold State.enqueue
  cases i.partsStores <;> exact ⟨rfl, rfl, rfl, rfl⟩

/-- An instruction that waits joins the queue as its youngest, and of its hart only the stream ahead and the cached
translations change. -/
theorem enqueue_hart (s t : State) (a : Ahead) (i : Instr) :
    ∃ (q : Queued) (now : Side), q.instr = i ∧ q.early = [] ∧
      (s.enqueue t a i).hart =
        { s.hart with tlb := t.hart.tlb, ahead := some { queue := a.queue ++ [q], now := now } } := by
  unfold State.enqueue
  cases i.partsStores <;> exact ⟨_, _, rfl, rfl, rfl⟩

/-- An instruction that waits at the issue point stays there, its fetch pin released (R94), and nothing else changes but what
the fetch has left. -/
theorem waitAhead_hart (s t : State) (a : Ahead) (i : Instr) :
    (s.waitAhead t a i).hart = { s.hart with
        tlb := t.hart.tlb, ahead := some { a with now := { a.now with fetchPin := none }, waiting := some i } } ∧
      (s.waitAhead t a i).dev = t.dev ∧ (s.waitAhead t a i).core = t.core ∧ (s.waitAhead t a i).parked = t.parked :=
  ⟨rfl, rfl, rfl, rfl⟩

/-- An early read is kept with the instruction that waits, or ends a scalar load (R85): of the hart only the stream ahead and the
cached translations change. -/
theorem readEarly_some {s u : State} {place elem : Nat} (h : s.readEarly place elem = some u) :
    ∃ (a : Ahead) (r : State) (q : List Queued) (now : Side), s.hart.ahead = some a ∧
      u = { r with hart := { s.hart with tlb := r.hart.tlb, ahead := some { a with queue := q, now := now } } } := by
  simp only [State.readEarly, Option.bind_eq_some_iff] at h
  obtain ⟨a, ha, q, -, h⟩ := h
  split at h
  · cases h
  · simp only [Option.map_eq_some_iff] at h
    obtain ⟨⟨e, r⟩, -, rfl⟩ := h
    exact ⟨a, r, _, _, ha, rfl⟩

/-- A stream behind an instruction that writes no register late is as it was. -/
theorem patch_none {i : Instr} (x : Vector Word 32) (d : Side) (h : i.lateReg = none) : Side.patch (some i) x d = d := by
  simp [Side.patch, h]

/-- A hart with nothing left to perform issues an instruction as it is. -/
@[simp] theorem State.landFor_nil {s : State} (i : Instr) (h : s.hart.late = []) : s.landFor i = s := by
  simp [State.landFor, h]

end Sys2Proof.Machine
end

