-- ==== Sys2Proof/Laws/Mem.lean ====
section
/-!
SUPPORT. The laws of memory: what a read gives after a write, and that every operation keeps the canonical form.
-/

namespace Sys2Proof.Machine

/-! ### Sparse lists -/

/-- A higher bound than the one a list obeys for its keys still lets a lower one hold. -/
theorem sparseWf_mono {α : Type} [DecidableEq α] {d : α} {lo hi : Nat} (h : lo ≤ hi) :
    ∀ {l : List (Nat × α)}, sparseWf d hi l = true → sparseWf d lo l = true
  | [], _ => rfl
  | (a, v) :: t, w => by
    simp only [sparseWf, Bool.and_eq_true, decide_eq_true_eq] at w ⊢
    exact ⟨⟨by omega, w.1.2⟩, w.2⟩

/-- A key below every listed one is unlisted. -/
theorem sparseGet_below {α : Type} [DecidableEq α] {d : α} {lo k : Nat} (h : k < lo) :
    ∀ {l : List (Nat × α)}, sparseWf d lo l = true → sparseGet d l k = d
  | [], _ => rfl
  | (a, v) :: t, w => by
    simp only [sparseWf, Bool.and_eq_true, decide_eq_true_eq] at w
    have hk : k ≠ a := by omega
    simp only [sparseGet, hk, if_false]
    exact sparseGet_below (by omega) w.2

/-- A changed list keeps its form. -/
theorem sparseSet_wf {α : Type} [DecidableEq α] {d v : α} {k : Nat} :
    ∀ {l : List (Nat × α)} {lo : Nat}, lo ≤ k → sparseWf d lo l = true → sparseWf d lo (sparseSet d l k v) = true
  | [], lo, h, _ => by
    unfold sparseSet
    split <;> simp_all [sparseWf]
  | (a, u) :: t, lo, h, w => by
    have w' := w
    simp only [sparseWf, Bool.and_eq_true, decide_eq_true_eq] at w'
    obtain ⟨⟨h1, h2⟩, h3⟩ := w'
    simp only [sparseSet]
    split
    · rename_i hk
      split
      · exact w
      · rename_i hv
        simp only [sparseWf, Bool.and_eq_true, decide_eq_true_eq]
        exact ⟨⟨h, hv⟩, ⟨by omega, h2⟩, h3⟩
    · split
      · rename_i hk he
        split
        · exact sparseWf_mono (by omega) h3
        · rename_i hv
          simp only [sparseWf, Bool.and_eq_true, decide_eq_true_eq]
          exact ⟨⟨h, hv⟩, he ▸ h3⟩
      · simp only [sparseWf, Bool.and_eq_true, decide_eq_true_eq]
        exact ⟨⟨h1, h2⟩, sparseSet_wf (by omega) h3⟩

/-- What is written at a key is read there. -/
theorem sparseGet_set_same {α : Type} [DecidableEq α] {d v : α} {k : Nat} :
    ∀ {l : List (Nat × α)} {lo : Nat}, sparseWf d lo l = true → sparseGet d (sparseSet d l k v) k = v
  | [], _, _ => by
    unfold sparseSet
    split <;> simp_all [sparseGet]
  | (a, u) :: t, lo, w => by
    have w' := w
    simp only [sparseWf, Bool.and_eq_true, decide_eq_true_eq] at w'
    simp only [sparseSet]
    split
    · rename_i hk
      split
      · rename_i hv
        rw [hv]
        have : k ≠ a := by omega
        simp only [sparseGet, this, if_false]
        exact sparseGet_below (by omega) w'.2
      · simp [sparseGet]
    · split
      · rename_i hk he
        split
        · rename_i hv
          rw [hv]
          exact sparseGet_below (by omega) w'.2
        · simp [sparseGet]
      · rename_i hk he
        simp only [sparseGet, he, if_false]
        exact sparseGet_set_same w'.2

/-- A write changes no other key. -/
theorem sparseGet_set_other {α : Type} [DecidableEq α] {d v : α} {k j : Nat} (h : j ≠ k) :
    ∀ (l : List (Nat × α)), sparseGet d (sparseSet d l k v) j = sparseGet d l j
  | [] => by
    unfold sparseSet
    split <;> simp [sparseGet, h]
  | (a, u) :: t => by
    simp only [sparseSet]
    split
    · split
      · rfl
      · simp [sparseGet, h]
    · split
      · rename_i hk he
        have : j ≠ a := by omega
        split <;> simp [sparseGet, this, h]
      · simp only [sparseGet]
        split
        · rfl
        · exact sparseGet_set_other h t

/-! ### Bytes -/

/-- A byte written keeps the canonical form. -/
theorem Memory.write_wf {m : List Host.Cell} (k : Nat) (b : Byte) (h : Memory.wf m = true) :
    Memory.wf (Memory.write m k b) = true := sparseSet_wf (Nat.zero_le k) h

/-- A read of the byte just written. -/
theorem Memory.read_write_same {m : List Host.Cell} (k : Nat) (b : Byte) (h : Memory.wf m = true) :
    Memory.read (Memory.write m k b) k = b := sparseGet_set_same h

/-- A read of another byte. -/
theorem Memory.read_write_other (m : List Host.Cell) {k j : Nat} (b : Byte) (h : j ≠ k) :
    Memory.read (Memory.write m k b) j = Memory.read m j := sparseGet_set_other h m

/-- Bytes written keep the canonical form. -/
theorem Memory.writeN_wf : ∀ {m : List Host.Cell} (k : Nat) (bs : List Byte), Memory.wf m = true →
    Memory.wf (Memory.writeN m k bs) = true
  | _, _, [], h => h
  | _, k, b :: bs, h => Memory.writeN_wf (k + 1) bs (Memory.write_wf k b h)

/-- A read outside the bytes written. -/
theorem Memory.read_writeN_other : ∀ (m : List Host.Cell) (k : Nat) (bs : List Byte) {j : Nat},
    j < k ∨ k + bs.length ≤ j → Memory.read (Memory.writeN m k bs) j = Memory.read m j
  | _, _, [], _, _ => rfl
  | m, k, b :: bs, j, h => by
    simp only [List.length_cons] at h
    rw [Memory.writeN, Memory.read_writeN_other _ _ bs (by omega), Memory.read_write_other _ _ (by omega)]

/-- A read inside the bytes written. -/
theorem Memory.read_writeN_same : ∀ {m : List Host.Cell} (k : Nat) {bs : List Byte} {i : Nat} {b : Byte},
    Memory.wf m = true → bs[i]? = some b → Memory.read (Memory.writeN m k bs) (k + i) = b
  | _, _, [], _, _, _, h => by simp at h
  | m, k, c :: bs, 0, b, w, h => by
    simp only [List.getElem?_cons_zero, Option.some.injEq] at h
    rw [Memory.writeN, Memory.read_writeN_other _ _ _ (by omega), Nat.add_zero, Memory.read_write_same _ _ w, h]
  | m, k, c :: bs, i + 1, b, w, h => by
    simp only [List.getElem?_cons_succ] at h
    rw [Memory.writeN, show k + (i + 1) = k + 1 + i by omega]
    exact Memory.read_writeN_same (k + 1) (Memory.write_wf k c w) h

/-- The number of bytes. -/
@[simp] theorem bytesOf_length : ∀ n k, (bytesOf n k).length = n
  | 0, _ => rfl
  | n + 1, k => by simp [bytesOf, bytesOf_length n]

/-- Byte `i` of a number. -/
theorem bytesOf_get : ∀ {n i : Nat} (k : Nat), i < n → (bytesOf n k)[i]? = some (BitVec.ofNat 8 (k / 2 ^ (8 * i)))
  | 0, _, _, h => by omega
  | n + 1, 0, k, _ => by simp [bytesOf]
  | n + 1, i + 1, k, h => by
    rw [bytesOf, List.getElem?_cons_succ, bytesOf_get _ (by omega), Nat.div_div_eq_div_mul, Nat.mul_succ, Nat.add_comm,
      Nat.pow_add]

/-- The number of the bytes of a number. -/
theorem ofBytes_bytesOf : ∀ n k, ofBytes (bytesOf n k) = k % 2 ^ (8 * n)
  | 0, k => by simp [bytesOf, ofBytes, Nat.mod_one]
  | n + 1, k => by
    simp only [bytesOf, ofBytes, BitVec.toNat_ofNat, ofBytes_bytesOf n]
    rw [Nat.mul_succ, Nat.pow_add, Nat.mul_comm (2 ^ (8 * n)), Nat.mod_mul]

/-- Reads of the bytes just written. -/
theorem Memory.readN_writeN_same : ∀ {m : List Host.Cell} (k : Nat) (bs : List Byte), Memory.wf m = true →
    Memory.readN (Memory.writeN m k bs) k bs.length = bs := by
  have go : ∀ (n : Nat) (m : List Host.Cell) (k : Nat) (bs : List Byte),
      (∀ i b, bs[i]? = some b → Memory.read m (k + i) = b) → bs.length = n → Memory.readN m k n = bs := by
    intro n
    induction n with
    | zero => intro m k bs _ hl; simp [Memory.readN, List.length_eq_zero_iff.mp hl]
    | succ n ih =>
      intro m k bs hb hl
      cases bs with
      | nil => simp at hl
      | cons b bs =>
        have h0 := hb 0 b (by simp)
        rw [Nat.add_zero] at h0
        rw [Memory.readN, h0, ih m (k + 1) bs _ (by simpa using hl)]
        intro i c hc
        have := hb (i + 1) c (by simpa using hc)
        rwa [show k + (i + 1) = k + 1 + i by omega] at this
  intro m k bs w
  exact go bs.length _ k bs (fun i b hb => Memory.read_writeN_same k w hb) rfl

/-- Reads of bytes that agree. -/
theorem Memory.readN_congr {m m' : List Host.Cell} : ∀ {k n : Nat},
    (∀ j, k ≤ j → j < k + n → Memory.read m j = Memory.read m' j) → Memory.readN m k n = Memory.readN m' k n
  | _, 0, _ => rfl
  | k, n + 1, h => by
    rw [Memory.readN, Memory.readN, h k (by omega) (by omega), Memory.readN_congr fun j h1 h2 => h j (by omega) (by omega)]

/-! ### The device -/

/-- A write at the coherence point keeps the canonical form. -/
theorem Dev.write_wf {d : Dev} (k : Nat) (bs : List Byte) (m : WriteMeta) (h : Memory.wf d.mem = true) :
    Memory.wf (d.write k bs m).mem = true := Memory.writeN_wf k bs h

/-- A read of the number just written. -/
theorem Dev.read_write_same {d : Dev} (k n v : Nat) (m : WriteMeta) (h : Memory.wf d.mem = true) :
    (d.write k (bytesOf n v) m).read k n = v % 2 ^ (8 * n) := by
  have := Memory.readN_writeN_same k (bytesOf n v) h
  rw [bytesOf_length] at this
  rw [Dev.read, Dev.write, this, ofBytes_bytesOf]

/-- A read outside the bytes written. -/
theorem Dev.read_write_other (d : Dev) {k j n : Nat} (bs : List Byte) (m : WriteMeta) (h : j + n ≤ k ∨ k + bs.length ≤ j) :
    (d.write k bs m).read j n = d.read j n := by
  rw [Dev.read, Dev.read, Dev.write]
  congr 1
  exact Memory.readN_congr fun i h1 h2 => Memory.read_writeN_other _ _ _ (by omega)

/-- Marking a leaf entry as used keeps the canonical form. -/
theorem Dev.setUsed_wf {d : Dev} (pa : Nat) (acc : Acc) (h : Memory.wf d.mem = true) :
    Memory.wf (d.setUsed pa acc).mem = true := by
  have go : ∀ k k' : Nat, Memory.wf (if k' = k then d
      else { d with mem := Memory.writeN d.mem (deviceKey pa) (bytesOf 8 k') }).mem = true := by
    intro k k'
    split
    · exact h
    · exact Memory.writeN_wf _ _ h
  exact go _ _

/-- A page walk keeps the canonical form. -/
theorem walkPage_wf {d e : Dev} {root va : Nat} {p : Priv} {acc : Acc} {t : TlbEntry} (h : Memory.wf d.mem = true)
    (w : walkPage d root p va acc = .ok (t, e)) : Memory.wf e.mem = true := by
  unfold walkPage at w
  split at w
  · cases w
  · cases w
  · simp only at w
    split at w
    · obtain ⟨-, rfl⟩ := w
      exact Dev.setUsed_wf _ _ h
    · cases w

/-- A hart's change leaves the device. -/
theorem State.mapHart_dev (s : State) (u : Nat) (f : Hart → Hart) : (s.mapHart u f).dev = s.dev := by
  unfold State.mapHart; split <;> rfl

/-- Bytes applied at their coherence point keep the canonical form. -/
theorem State.apply_wf {s : State} (uid key : Nat) (bs : List Byte) (m : WriteMeta) (h : s.memoryWf) :
    (s.apply uid key bs m).memoryWf := by
  have w := Dev.write_wf key bs m h
  unfold State.apply State.memoryWf
  dsimp only
  split <;> split <;> simp only [State.mapHarts, State.mapHart_dev] <;> exact w

/-- A window's status word kept up to date keeps the canonical form. -/
theorem Dev.updateWindow_wf {d : Dev} (c n : Nat) (f : Window → Window) (h : Memory.wf d.mem = true) :
    Memory.wf (d.updateWindow c n f).mem = true := by
  unfold Dev.updateWindow
  dsimp only
  split
  · exact Dev.write_wf _ _ _ h
  · exact h

/-- Pieces applied one after the other keep the canonical form. -/
theorem applyPieces_wf (u : Nat) (m : WriteMeta) (l : List (Nat × List Byte)) {s : State} (h : s.memoryWf) :
    (l.foldl (fun s p => s.apply u p.1 p.2 m) s).memoryWf :=
  List.foldlRecOn l _ h fun _ hb _ _ => State.apply_wf _ _ _ _ hb

/-- A posted store that reaches its peer keeps the canonical form. -/
theorem State.deliver_wf {s : State} (p : Posted) (h : s.memoryWf) : (s.deliver p).memoryWf := applyPieces_wf _ _ _ h

/-- Posted stores that reach their peer keep the canonical form. -/
theorem State.deliverPosted_wf {s : State} (c num n : Nat) (h : s.memoryWf) : (s.deliverPosted c num n).memoryWf := by
  unfold State.deliverPosted
  split
  · exact h
  · have hs : ∀ l : List Posted, (l.foldl State.deliver s).memoryWf := fun l =>
      List.foldlRecOn l _ h fun _ hb p _ => State.deliver_wf p hb
    dsimp only [State.memoryWf]
    split
    · exact Dev.updateWindow_wf _ _ _ (hs _)
    · exact hs _

/-- A window whose posted accesses reach their peer keeps the canonical form. -/
theorem State.flushWindow_wf {s : State} (c n : Nat) (h : s.memoryWf) : (s.flushWindow c n).memoryWf := by
  unfold State.flushWindow
  split
  · exact h
  · split
    · exact h
    · exact State.deliverPosted_wf _ _ _ h

/-- An entry that leaves the write-combining buffer keeps the canonical form. -/
theorem State.send_wf {s : State} (e : WcbEntry) (h : s.memoryWf) : (s.send e).memoryWf := by
  unfold State.send
  split
  · split
    · exact Dev.updateWindow_wf _ _ _ h
    · dsimp only
      split
      · exact State.flushWindow_wf _ _ h
      · exact h
  · exact applyPieces_wf _ _ _ h

/-- What a hart has issued ahead is discarded without a change of the device. -/
theorem State.squash_dev (s : State) (u : Nat) : (s.squash u).dev = s.dev := by
  unfold State.squash State.mapHart
  dsimp only
  split <;> rfl

/-- A drain in logical order keeps the canonical form. -/
theorem drainRanked_wf (p : WcbEntry → Bool) : ∀ (n : Nat) {s : State}, s.memoryWf → (drainRanked p n s).memoryWf
  | 0, _, h => h
  | n + 1, s, h => by
    unfold drainRanked
    split
    · exact h
    · split
      · exact h
      · split
        · exact h
        · exact drainRanked_wf p n (State.send_wf _ h)

/-- A drain keeps the canonical form. -/
theorem State.drainTo_wf {s : State} (p : WcbEntry → Bool) (h : s.memoryWf) : (s.drainTo p).memoryWf := by
  unfold State.drainTo
  refine List.foldlRecOn _ _ ?_ fun _ hb e _ => State.send_wf e hb
  refine List.foldlRecOn (motive := State.memoryWf) _ _ ?_ fun t hb e _ => ?_
  · show State.memoryWf (if _ then _ else _)
    split
    · exact drainRanked_wf _ _ h
    · exact h
  · rw [State.memoryWf, State.squash_dev]
    exact hb

/-- A store that is performed keeps the canonical form. -/
theorem State.performFor_wf {s : State} (b : Option Word) (e : WcbEntry) (h : s.memoryWf) : (s.performFor b e).memoryWf := by
  unfold State.performFor
  dsimp only
  split
  · split
    · exact State.drainTo_wf _ h
    · exact State.send_wf _ (State.drainTo_wf _ h)
  · exact h

/-- A store, performed or left to be performed, keeps the canonical form. -/
theorem State.perform_wf {s : State} (e : WcbEntry) (h : s.memoryWf) : (s.perform e).memoryWf := by
  unfold State.perform
  split
  · exact h
  · exact State.performFor_wf _ _ h

/-- An access performed after its instruction has retired keeps the canonical form. -/
theorem State.performLate_wf {s : State} (u : Nat) (l : Late) (h : s.memoryWf) : (s.performLate u l).memoryWf := by
  cases l with
  | load r k n b q => rw [State.memoryWf, State.performLate, State.mapHart_dev]; exact h
  | store e => exact State.performFor_wf _ _ h

/-- The accesses of a hart that are performed after their instructions have retired keep the canonical form. -/
theorem State.landLate_wf {s : State} (u : Nat) (p : Late → Bool) (h : s.memoryWf) : (s.landLate u p).memoryWf := by
  unfold State.landLate
  split
  · exact h
  · split
    · refine List.foldlRecOn _ _ ?_ fun _ hb l _ => State.performLate_wf _ _ hb
      rw [State.memoryWf, State.mapHart_dev]
      exact h
    · exact h

/-- A hart with nothing left to perform performs nothing. -/
@[simp] theorem State.landLate_nil {s : State} (p : Late → Bool) (h : s.hart.late = []) : s.landLate s.hart.ident.uid p = s := by
  simp [State.landLate, State.findSlot, h]

/-- A hart with nothing left to perform performs nothing. -/
@[simp] theorem State.landAll_nil {s : State} (h : s.hart.late = []) : s.landAll = s := State.landLate_nil _ h

/-- A store outside a deferred step is performed. -/
theorem State.perform_now {s : State} (e : WcbEntry) (h : s.deferring = false) : s.perform e = s.performFor s.hart.prov e := by
  simp [State.perform, State.defers, h]

/-- A long number written in pieces keeps the canonical form. -/
theorem Dev.writeNumber_wf {d : Dev} (k n v : Nat) (h : Memory.wf d.mem = true) : Memory.wf (d.writeNumber k n v).mem = true := by
  have go : ∀ (l : List Nat) (g : Nat → Nat) (b : Nat → List Byte) (e : Dev), Memory.wf e.mem = true →
      Memory.wf (l.foldl (fun d i => d.write (g i) (b i) {}) e).mem = true := by
    intro l g b
    induction l with
    | nil => intro e he; exact he
    | cons i l ih => intro e he; exact ih _ (Dev.write_wf _ _ _ he)
  exact go _ (fun i => k + (min n (64 - k % 64) + 64 * i))
    (fun i => bytesOf (min 64 (n - (min n (64 - k % 64) + 64 * i))) (v / 2 ^ (8 * (min n (64 - k % 64) + 64 * i)))) _
    (Dev.write_wf _ _ _ h)

/-- Host memory written by the management keeps the canonical form. -/
theorem Dev.writeHost_wf {d : Dev} (a : Nat) (bs : List Byte) (h : Memory.wf d.mem = true) :
    Memory.wf (d.writeHost a bs).mem = true := Memory.writeN_wf _ _ h

/-- Memory right after reset is in the canonical form. -/
theorem reset_memoryWf : State.reset.memoryWf := rfl

end Sys2Proof.Machine
end

