-- ==== Sys2Proof/Laws/State.lean ====
section
/-!
SUPPORT. What each update of the state leaves as it was and what it sets: one lemma for each field and update.
-/

namespace Sys2Proof.Machine

/-! ### A write of an x register -/

@[simp] theorem State.setX_core (s : State) (r : BitVec 5) (w : Word) : (s.setX r w).core = s.core := by unfold State.setX; split <;> rfl
@[simp] theorem State.setX_parked (s : State) (r : BitVec 5) (w : Word) : (s.setX r w).parked = s.parked := by unfold State.setX; split <;> rfl
@[simp] theorem State.setX_cores (s : State) (r : BitVec 5) (w : Word) : (s.setX r w).cores = s.cores := by unfold State.setX; split <;> rfl
@[simp] theorem State.setX_dev (s : State) (r : BitVec 5) (w : Word) : (s.setX r w).dev = s.dev := by unfold State.setX; split <;> rfl
@[simp] theorem State.setX_agenda (s : State) (r : BitVec 5) (w : Word) : (s.setX r w).agenda = s.agenda := by unfold State.setX; split <;> rfl
@[simp] theorem State.setX_pause (s : State) (r : BitVec 5) (w : Word) : (s.setX r w).pause = s.pause := by unfold State.setX; split <;> rfl
@[simp] theorem State.setX_hart_ident (s : State) (r : BitVec 5) (w : Word) : (s.setX r w).hart.ident = s.hart.ident := by unfold State.setX; split <;> rfl
@[simp] theorem State.setX_hart_status (s : State) (r : BitVec 5) (w : Word) : (s.setX r w).hart.status = s.hart.status := by unfold State.setX; split <;> rfl
@[simp] theorem State.setX_hart_ctx (s : State) (r : BitVec 5) (w : Word) : (s.setX r w).hart.ctx = s.hart.ctx := by unfold State.setX; split <;> rfl
@[simp] theorem State.setX_hart_root (s : State) (r : BitVec 5) (w : Word) : (s.setX r w).hart.root = s.hart.root := by unfold State.setX; split <;> rfl
@[simp] theorem State.setX_hart_pc (s : State) (r : BitVec 5) (w : Word) : (s.setX r w).hart.pc = s.hart.pc := by unfold State.setX; split <;> rfl
@[simp] theorem State.setX_hart_priv (s : State) (r : BitVec 5) (w : Word) : (s.setX r w).hart.priv = s.hart.priv := by unfold State.setX; split <;> rfl
@[simp] theorem State.setX_hart_fcsr (s : State) (r : BitVec 5) (w : Word) : (s.setX r w).hart.fcsr = s.hart.fcsr := by unfold State.setX; split <;> rfl
@[simp] theorem State.setX_hart_loops (s : State) (r : BitVec 5) (w : Word) : (s.setX r w).hart.loops = s.hart.loops := by unfold State.setX; split <;> rfl
@[simp] theorem State.setX_hart_trap (s : State) (r : BitVec 5) (w : Word) : (s.setX r w).hart.trap = s.hart.trap := by unfold State.setX; split <;> rfl
@[simp] theorem State.setX_hart_vec (s : State) (r : BitVec 5) (w : Word) : (s.setX r w).hart.vec = s.hart.vec := by unfold State.setX; split <;> rfl
@[simp] theorem State.setX_hart_v (s : State) (r : BitVec 5) (w : Word) : (s.setX r w).hart.v = s.hart.v := by unfold State.setX; split <;> rfl
@[simp] theorem State.setX_hart_p (s : State) (r : BitVec 5) (w : Word) : (s.setX r w).hart.p = s.hart.p := by unfold State.setX; split <;> rfl
@[simp] theorem State.setX_hart_rb0 (s : State) (r : BitVec 5) (w : Word) : (s.setX r w).hart.rb0 = s.hart.rb0 := by unfold State.setX; split <;> rfl
@[simp] theorem State.setX_hart_pavilions (s : State) (r : BitVec 5) (w : Word) : (s.setX r w).hart.pavilions = s.hart.pavilions := by unfold State.setX; split <;> rfl
@[simp] theorem State.setX_hart_pavSet (s : State) (r : BitVec 5) (w : Word) : (s.setX r w).hart.pavSet = s.hart.pavSet := by unfold State.setX; split <;> rfl
@[simp] theorem State.setX_hart_detm (s : State) (r : BitVec 5) (w : Word) : (s.setX r w).hart.detm = s.hart.detm := by unfold State.setX; split <;> rfl
@[simp] theorem State.setX_hart_taint (s : State) (r : BitVec 5) (w : Word) : (s.setX r w).hart.taint = s.hart.taint := by unfold State.setX; split <;> rfl
@[simp] theorem State.setX_hart_mat (s : State) (r : BitVec 5) (w : Word) : (s.setX r w).hart.mat = s.hart.mat := by unfold State.setX; split <;> rfl
@[simp] theorem State.setX_hart_streams (s : State) (r : BitVec 5) (w : Word) : (s.setX r w).hart.streams = s.hart.streams := by unfold State.setX; split <;> rfl
@[simp] theorem State.setX_hart_y (s : State) (r : BitVec 5) (w : Word) : (s.setX r w).hart.y = s.hart.y := by unfold State.setX; split <;> rfl
@[simp] theorem State.setX_hart_engine (s : State) (r : BitVec 5) (w : Word) : (s.setX r w).hart.engine = s.hart.engine := by unfold State.setX; split <;> rfl
@[simp] theorem State.setX_hart_counts (s : State) (r : BitVec 5) (w : Word) : (s.setX r w).hart.counts = s.hart.counts := by unfold State.setX; split <;> rfl
@[simp] theorem State.setX_hart_tlb (s : State) (r : BitVec 5) (w : Word) : (s.setX r w).hart.tlb = s.hart.tlb := by unfold State.setX; split <;> rfl
@[simp] theorem State.setX_hart_fetchPin (s : State) (r : BitVec 5) (w : Word) : (s.setX r w).hart.fetchPin = s.hart.fetchPin := by unfold State.setX; split <;> rfl
@[simp] theorem State.setX_hart_tfencing (s : State) (r : BitVec 5) (w : Word) : (s.setX r w).hart.tfencing = s.hart.tfencing := by unfold State.setX; split <;> rfl
@[simp] theorem State.setX_hart_inWfi (s : State) (r : BitVec 5) (w : Word) : (s.setX r w).hart.inWfi = s.hart.inWfi := by unfold State.setX; split <;> rfl
@[simp] theorem State.setX_hart_passed (s : State) (r : BitVec 5) (w : Word) : (s.setX r w).hart.passed = s.hart.passed := by unfold State.setX; split <;> rfl
@[simp] theorem State.setX_hart_preempt (s : State) (r : BitVec 5) (w : Word) : (s.setX r w).hart.preempt = s.hart.preempt := by unfold State.setX; split <;> rfl
@[simp] theorem State.setX_hart_srfSeen (s : State) (r : BitVec 5) (w : Word) : (s.setX r w).hart.srfSeen = s.hart.srfSeen := by unfold State.setX; split <;> rfl
@[simp] theorem State.setX_hart_stopped (s : State) (r : BitVec 5) (w : Word) : (s.setX r w).hart.stopped = s.hart.stopped := by unfold State.setX; split <;> rfl
@[simp] theorem State.setX_hart_load (s : State) (r : BitVec 5) (w : Word) : (s.setX r w).hart.load = s.hart.load := by unfold State.setX; split <;> rfl
@[simp] theorem State.setX_hart_edge (s : State) (r : BitVec 5) (w : Word) : (s.setX r w).hart.edge = s.hart.edge := by unfold State.setX; split <;> rfl
@[simp] theorem State.setX_hart_held (s : State) (r : BitVec 5) (w : Word) : (s.setX r w).hart.held = s.hart.held := by unfold State.setX; split <;> rfl
@[simp] theorem State.setX_hart_ahead (s : State) (r : BitVec 5) (w : Word) : (s.setX r w).hart.ahead = s.hart.ahead := by unfold State.setX; split <;> rfl
@[simp] theorem State.setX_hart_early (s : State) (r : BitVec 5) (w : Word) : (s.setX r w).hart.early = s.hart.early := by unfold State.setX; split <;> rfl
@[simp] theorem State.setX_hart_kept (s : State) (r : BitVec 5) (w : Word) : (s.setX r w).hart.kept = s.hart.kept := by unfold State.setX; split <;> rfl
@[simp] theorem State.setX_hart_prov (s : State) (r : BitVec 5) (w : Word) : (s.setX r w).hart.prov = s.hart.prov := by unfold State.setX; split <;> rfl

/-! ### A write of a vector register -/

@[simp] theorem State.setV_core (s : State) (r : BitVec 6) (w : VReg) : (s.setV r w).core = s.core := rfl
@[simp] theorem State.setV_parked (s : State) (r : BitVec 6) (w : VReg) : (s.setV r w).parked = s.parked := rfl
@[simp] theorem State.setV_cores (s : State) (r : BitVec 6) (w : VReg) : (s.setV r w).cores = s.cores := rfl
@[simp] theorem State.setV_dev (s : State) (r : BitVec 6) (w : VReg) : (s.setV r w).dev = s.dev := rfl
@[simp] theorem State.setV_agenda (s : State) (r : BitVec 6) (w : VReg) : (s.setV r w).agenda = s.agenda := rfl
@[simp] theorem State.setV_pause (s : State) (r : BitVec 6) (w : VReg) : (s.setV r w).pause = s.pause := rfl
@[simp] theorem State.setV_hart_ident (s : State) (r : BitVec 6) (w : VReg) : (s.setV r w).hart.ident = s.hart.ident := rfl
@[simp] theorem State.setV_hart_status (s : State) (r : BitVec 6) (w : VReg) : (s.setV r w).hart.status = s.hart.status := rfl
@[simp] theorem State.setV_hart_ctx (s : State) (r : BitVec 6) (w : VReg) : (s.setV r w).hart.ctx = s.hart.ctx := rfl
@[simp] theorem State.setV_hart_root (s : State) (r : BitVec 6) (w : VReg) : (s.setV r w).hart.root = s.hart.root := rfl
@[simp] theorem State.setV_hart_x (s : State) (r : BitVec 6) (w : VReg) : (s.setV r w).hart.x = s.hart.x := rfl
@[simp] theorem State.setV_hart_pc (s : State) (r : BitVec 6) (w : VReg) : (s.setV r w).hart.pc = s.hart.pc := rfl
@[simp] theorem State.setV_hart_priv (s : State) (r : BitVec 6) (w : VReg) : (s.setV r w).hart.priv = s.hart.priv := rfl
@[simp] theorem State.setV_hart_fcsr (s : State) (r : BitVec 6) (w : VReg) : (s.setV r w).hart.fcsr = s.hart.fcsr := rfl
@[simp] theorem State.setV_hart_loops (s : State) (r : BitVec 6) (w : VReg) : (s.setV r w).hart.loops = s.hart.loops := rfl
@[simp] theorem State.setV_hart_trap (s : State) (r : BitVec 6) (w : VReg) : (s.setV r w).hart.trap = s.hart.trap := rfl
@[simp] theorem State.setV_hart_vec (s : State) (r : BitVec 6) (w : VReg) : (s.setV r w).hart.vec = s.hart.vec := rfl
@[simp] theorem State.setV_hart_p (s : State) (r : BitVec 6) (w : VReg) : (s.setV r w).hart.p = s.hart.p := rfl
@[simp] theorem State.setV_hart_rb0 (s : State) (r : BitVec 6) (w : VReg) : (s.setV r w).hart.rb0 = s.hart.rb0 := rfl
@[simp] theorem State.setV_hart_pavilions (s : State) (r : BitVec 6) (w : VReg) : (s.setV r w).hart.pavilions = s.hart.pavilions := rfl
@[simp] theorem State.setV_hart_pavSet (s : State) (r : BitVec 6) (w : VReg) : (s.setV r w).hart.pavSet = s.hart.pavSet := rfl
@[simp] theorem State.setV_hart_detm (s : State) (r : BitVec 6) (w : VReg) : (s.setV r w).hart.detm = s.hart.detm := rfl
@[simp] theorem State.setV_hart_taint (s : State) (r : BitVec 6) (w : VReg) : (s.setV r w).hart.taint = s.hart.taint := rfl
@[simp] theorem State.setV_hart_mat (s : State) (r : BitVec 6) (w : VReg) : (s.setV r w).hart.mat = s.hart.mat := rfl
@[simp] theorem State.setV_hart_streams (s : State) (r : BitVec 6) (w : VReg) : (s.setV r w).hart.streams = s.hart.streams := rfl
@[simp] theorem State.setV_hart_y (s : State) (r : BitVec 6) (w : VReg) : (s.setV r w).hart.y = s.hart.y := rfl
@[simp] theorem State.setV_hart_engine (s : State) (r : BitVec 6) (w : VReg) : (s.setV r w).hart.engine = s.hart.engine := rfl
@[simp] theorem State.setV_hart_counts (s : State) (r : BitVec 6) (w : VReg) : (s.setV r w).hart.counts = s.hart.counts := rfl
@[simp] theorem State.setV_hart_tlb (s : State) (r : BitVec 6) (w : VReg) : (s.setV r w).hart.tlb = s.hart.tlb := rfl
@[simp] theorem State.setV_hart_fetchPin (s : State) (r : BitVec 6) (w : VReg) : (s.setV r w).hart.fetchPin = s.hart.fetchPin := rfl
@[simp] theorem State.setV_hart_tfencing (s : State) (r : BitVec 6) (w : VReg) : (s.setV r w).hart.tfencing = s.hart.tfencing := rfl
@[simp] theorem State.setV_hart_inWfi (s : State) (r : BitVec 6) (w : VReg) : (s.setV r w).hart.inWfi = s.hart.inWfi := rfl
@[simp] theorem State.setV_hart_passed (s : State) (r : BitVec 6) (w : VReg) : (s.setV r w).hart.passed = s.hart.passed := rfl
@[simp] theorem State.setV_hart_preempt (s : State) (r : BitVec 6) (w : VReg) : (s.setV r w).hart.preempt = s.hart.preempt := rfl
@[simp] theorem State.setV_hart_srfSeen (s : State) (r : BitVec 6) (w : VReg) : (s.setV r w).hart.srfSeen = s.hart.srfSeen := rfl
@[simp] theorem State.setV_hart_stopped (s : State) (r : BitVec 6) (w : VReg) : (s.setV r w).hart.stopped = s.hart.stopped := rfl
@[simp] theorem State.setV_hart_load (s : State) (r : BitVec 6) (w : VReg) : (s.setV r w).hart.load = s.hart.load := rfl
@[simp] theorem State.setV_hart_edge (s : State) (r : BitVec 6) (w : VReg) : (s.setV r w).hart.edge = s.hart.edge := rfl
@[simp] theorem State.setV_hart_held (s : State) (r : BitVec 6) (w : VReg) : (s.setV r w).hart.held = s.hart.held := rfl
@[simp] theorem State.setV_hart_ahead (s : State) (r : BitVec 6) (w : VReg) : (s.setV r w).hart.ahead = s.hart.ahead := rfl
@[simp] theorem State.setV_hart_early (s : State) (r : BitVec 6) (w : VReg) : (s.setV r w).hart.early = s.hart.early := rfl
@[simp] theorem State.setV_hart_kept (s : State) (r : BitVec 6) (w : VReg) : (s.setV r w).hart.kept = s.hart.kept := rfl
@[simp] theorem State.setV_hart_prov (s : State) (r : BitVec 6) (w : VReg) : (s.setV r w).hart.prov = s.hart.prov := rfl

/-! ### A write of a predicate -/

@[simp] theorem State.setP_core (s : State) (r : BitVec 4) (m : Nat) : (s.setP r m).core = s.core := by unfold State.setP; split <;> rfl
@[simp] theorem State.setP_parked (s : State) (r : BitVec 4) (m : Nat) : (s.setP r m).parked = s.parked := by unfold State.setP; split <;> rfl
@[simp] theorem State.setP_cores (s : State) (r : BitVec 4) (m : Nat) : (s.setP r m).cores = s.cores := by unfold State.setP; split <;> rfl
@[simp] theorem State.setP_dev (s : State) (r : BitVec 4) (m : Nat) : (s.setP r m).dev = s.dev := by unfold State.setP; split <;> rfl
@[simp] theorem State.setP_agenda (s : State) (r : BitVec 4) (m : Nat) : (s.setP r m).agenda = s.agenda := by unfold State.setP; split <;> rfl
@[simp] theorem State.setP_pause (s : State) (r : BitVec 4) (m : Nat) : (s.setP r m).pause = s.pause := by unfold State.setP; split <;> rfl
@[simp] theorem State.setP_hart_ident (s : State) (r : BitVec 4) (m : Nat) : (s.setP r m).hart.ident = s.hart.ident := by unfold State.setP; split <;> rfl
@[simp] theorem State.setP_hart_status (s : State) (r : BitVec 4) (m : Nat) : (s.setP r m).hart.status = s.hart.status := by unfold State.setP; split <;> rfl
@[simp] theorem State.setP_hart_ctx (s : State) (r : BitVec 4) (m : Nat) : (s.setP r m).hart.ctx = s.hart.ctx := by unfold State.setP; split <;> rfl
@[simp] theorem State.setP_hart_root (s : State) (r : BitVec 4) (m : Nat) : (s.setP r m).hart.root = s.hart.root := by unfold State.setP; split <;> rfl
@[simp] theorem State.setP_hart_x (s : State) (r : BitVec 4) (m : Nat) : (s.setP r m).hart.x = s.hart.x := by unfold State.setP; split <;> rfl
@[simp] theorem State.setP_hart_pc (s : State) (r : BitVec 4) (m : Nat) : (s.setP r m).hart.pc = s.hart.pc := by unfold State.setP; split <;> rfl
@[simp] theorem State.setP_hart_priv (s : State) (r : BitVec 4) (m : Nat) : (s.setP r m).hart.priv = s.hart.priv := by unfold State.setP; split <;> rfl
@[simp] theorem State.setP_hart_fcsr (s : State) (r : BitVec 4) (m : Nat) : (s.setP r m).hart.fcsr = s.hart.fcsr := by unfold State.setP; split <;> rfl
@[simp] theorem State.setP_hart_loops (s : State) (r : BitVec 4) (m : Nat) : (s.setP r m).hart.loops = s.hart.loops := by unfold State.setP; split <;> rfl
@[simp] theorem State.setP_hart_trap (s : State) (r : BitVec 4) (m : Nat) : (s.setP r m).hart.trap = s.hart.trap := by unfold State.setP; split <;> rfl
@[simp] theorem State.setP_hart_vec (s : State) (r : BitVec 4) (m : Nat) : (s.setP r m).hart.vec = s.hart.vec := by unfold State.setP; split <;> rfl
@[simp] theorem State.setP_hart_v (s : State) (r : BitVec 4) (m : Nat) : (s.setP r m).hart.v = s.hart.v := by unfold State.setP; split <;> rfl
@[simp] theorem State.setP_hart_rb0 (s : State) (r : BitVec 4) (m : Nat) : (s.setP r m).hart.rb0 = s.hart.rb0 := by unfold State.setP; split <;> rfl
@[simp] theorem State.setP_hart_pavilions (s : State) (r : BitVec 4) (m : Nat) : (s.setP r m).hart.pavilions = s.hart.pavilions := by unfold State.setP; split <;> rfl
@[simp] theorem State.setP_hart_pavSet (s : State) (r : BitVec 4) (m : Nat) : (s.setP r m).hart.pavSet = s.hart.pavSet := by unfold State.setP; split <;> rfl
@[simp] theorem State.setP_hart_detm (s : State) (r : BitVec 4) (m : Nat) : (s.setP r m).hart.detm = s.hart.detm := by unfold State.setP; split <;> rfl
@[simp] theorem State.setP_hart_taint (s : State) (r : BitVec 4) (m : Nat) : (s.setP r m).hart.taint = s.hart.taint := by unfold State.setP; split <;> rfl
@[simp] theorem State.setP_hart_mat (s : State) (r : BitVec 4) (m : Nat) : (s.setP r m).hart.mat = s.hart.mat := by unfold State.setP; split <;> rfl
@[simp] theorem State.setP_hart_streams (s : State) (r : BitVec 4) (m : Nat) : (s.setP r m).hart.streams = s.hart.streams := by unfold State.setP; split <;> rfl
@[simp] theorem State.setP_hart_y (s : State) (r : BitVec 4) (m : Nat) : (s.setP r m).hart.y = s.hart.y := by unfold State.setP; split <;> rfl
@[simp] theorem State.setP_hart_engine (s : State) (r : BitVec 4) (m : Nat) : (s.setP r m).hart.engine = s.hart.engine := by unfold State.setP; split <;> rfl
@[simp] theorem State.setP_hart_counts (s : State) (r : BitVec 4) (m : Nat) : (s.setP r m).hart.counts = s.hart.counts := by unfold State.setP; split <;> rfl
@[simp] theorem State.setP_hart_tlb (s : State) (r : BitVec 4) (m : Nat) : (s.setP r m).hart.tlb = s.hart.tlb := by unfold State.setP; split <;> rfl
@[simp] theorem State.setP_hart_fetchPin (s : State) (r : BitVec 4) (m : Nat) : (s.setP r m).hart.fetchPin = s.hart.fetchPin := by unfold State.setP; split <;> rfl
@[simp] theorem State.setP_hart_tfencing (s : State) (r : BitVec 4) (m : Nat) : (s.setP r m).hart.tfencing = s.hart.tfencing := by unfold State.setP; split <;> rfl
@[simp] theorem State.setP_hart_inWfi (s : State) (r : BitVec 4) (m : Nat) : (s.setP r m).hart.inWfi = s.hart.inWfi := by unfold State.setP; split <;> rfl
@[simp] theorem State.setP_hart_passed (s : State) (r : BitVec 4) (m : Nat) : (s.setP r m).hart.passed = s.hart.passed := by unfold State.setP; split <;> rfl
@[simp] theorem State.setP_hart_preempt (s : State) (r : BitVec 4) (m : Nat) : (s.setP r m).hart.preempt = s.hart.preempt := by unfold State.setP; split <;> rfl
@[simp] theorem State.setP_hart_srfSeen (s : State) (r : BitVec 4) (m : Nat) : (s.setP r m).hart.srfSeen = s.hart.srfSeen := by unfold State.setP; split <;> rfl
@[simp] theorem State.setP_hart_stopped (s : State) (r : BitVec 4) (m : Nat) : (s.setP r m).hart.stopped = s.hart.stopped := by unfold State.setP; split <;> rfl
@[simp] theorem State.setP_hart_load (s : State) (r : BitVec 4) (m : Nat) : (s.setP r m).hart.load = s.hart.load := by unfold State.setP; split <;> rfl
@[simp] theorem State.setP_hart_edge (s : State) (r : BitVec 4) (m : Nat) : (s.setP r m).hart.edge = s.hart.edge := by unfold State.setP; split <;> rfl
@[simp] theorem State.setP_hart_held (s : State) (r : BitVec 4) (m : Nat) : (s.setP r m).hart.held = s.hart.held := by unfold State.setP; split <;> rfl
@[simp] theorem State.setP_hart_ahead (s : State) (r : BitVec 4) (m : Nat) : (s.setP r m).hart.ahead = s.hart.ahead := by unfold State.setP; split <;> rfl
@[simp] theorem State.setP_hart_early (s : State) (r : BitVec 4) (m : Nat) : (s.setP r m).hart.early = s.hart.early := by unfold State.setP; split <;> rfl
@[simp] theorem State.setP_hart_kept (s : State) (r : BitVec 4) (m : Nat) : (s.setP r m).hart.kept = s.hart.kept := by unfold State.setP; split <;> rfl
@[simp] theorem State.setP_hart_prov (s : State) (r : BitVec 4) (m : Nat) : (s.setP r m).hart.prov = s.hart.prov := by unfold State.setP; split <;> rfl

/-! ### The vector controls -/

@[simp] theorem State.setVec_core (s : State) (w : VecCtl) : (s.setVec w).core = s.core := rfl
@[simp] theorem State.setVec_parked (s : State) (w : VecCtl) : (s.setVec w).parked = s.parked := rfl
@[simp] theorem State.setVec_cores (s : State) (w : VecCtl) : (s.setVec w).cores = s.cores := rfl
@[simp] theorem State.setVec_dev (s : State) (w : VecCtl) : (s.setVec w).dev = s.dev := rfl
@[simp] theorem State.setVec_agenda (s : State) (w : VecCtl) : (s.setVec w).agenda = s.agenda := rfl
@[simp] theorem State.setVec_pause (s : State) (w : VecCtl) : (s.setVec w).pause = s.pause := rfl
@[simp] theorem State.setVec_hart_ident (s : State) (w : VecCtl) : (s.setVec w).hart.ident = s.hart.ident := rfl
@[simp] theorem State.setVec_hart_status (s : State) (w : VecCtl) : (s.setVec w).hart.status = s.hart.status := rfl
@[simp] theorem State.setVec_hart_ctx (s : State) (w : VecCtl) : (s.setVec w).hart.ctx = s.hart.ctx := rfl
@[simp] theorem State.setVec_hart_root (s : State) (w : VecCtl) : (s.setVec w).hart.root = s.hart.root := rfl
@[simp] theorem State.setVec_hart_x (s : State) (w : VecCtl) : (s.setVec w).hart.x = s.hart.x := rfl
@[simp] theorem State.setVec_hart_pc (s : State) (w : VecCtl) : (s.setVec w).hart.pc = s.hart.pc := rfl
@[simp] theorem State.setVec_hart_priv (s : State) (w : VecCtl) : (s.setVec w).hart.priv = s.hart.priv := rfl
@[simp] theorem State.setVec_hart_fcsr (s : State) (w : VecCtl) : (s.setVec w).hart.fcsr = s.hart.fcsr := rfl
@[simp] theorem State.setVec_hart_loops (s : State) (w : VecCtl) : (s.setVec w).hart.loops = s.hart.loops := rfl
@[simp] theorem State.setVec_hart_trap (s : State) (w : VecCtl) : (s.setVec w).hart.trap = s.hart.trap := rfl
@[simp] theorem State.setVec_hart_v (s : State) (w : VecCtl) : (s.setVec w).hart.v = s.hart.v := rfl
@[simp] theorem State.setVec_hart_p (s : State) (w : VecCtl) : (s.setVec w).hart.p = s.hart.p := rfl
@[simp] theorem State.setVec_hart_rb0 (s : State) (w : VecCtl) : (s.setVec w).hart.rb0 = s.hart.rb0 := rfl
@[simp] theorem State.setVec_hart_pavilions (s : State) (w : VecCtl) : (s.setVec w).hart.pavilions = s.hart.pavilions := rfl
@[simp] theorem State.setVec_hart_pavSet (s : State) (w : VecCtl) : (s.setVec w).hart.pavSet = s.hart.pavSet := rfl
@[simp] theorem State.setVec_hart_detm (s : State) (w : VecCtl) : (s.setVec w).hart.detm = s.hart.detm := rfl
@[simp] theorem State.setVec_hart_taint (s : State) (w : VecCtl) : (s.setVec w).hart.taint = s.hart.taint := rfl
@[simp] theorem State.setVec_hart_mat (s : State) (w : VecCtl) : (s.setVec w).hart.mat = s.hart.mat := rfl
@[simp] theorem State.setVec_hart_streams (s : State) (w : VecCtl) : (s.setVec w).hart.streams = s.hart.streams := rfl
@[simp] theorem State.setVec_hart_y (s : State) (w : VecCtl) : (s.setVec w).hart.y = s.hart.y := rfl
@[simp] theorem State.setVec_hart_engine (s : State) (w : VecCtl) : (s.setVec w).hart.engine = s.hart.engine := rfl
@[simp] theorem State.setVec_hart_counts (s : State) (w : VecCtl) : (s.setVec w).hart.counts = s.hart.counts := rfl
@[simp] theorem State.setVec_hart_tlb (s : State) (w : VecCtl) : (s.setVec w).hart.tlb = s.hart.tlb := rfl
@[simp] theorem State.setVec_hart_fetchPin (s : State) (w : VecCtl) : (s.setVec w).hart.fetchPin = s.hart.fetchPin := rfl
@[simp] theorem State.setVec_hart_tfencing (s : State) (w : VecCtl) : (s.setVec w).hart.tfencing = s.hart.tfencing := rfl
@[simp] theorem State.setVec_hart_inWfi (s : State) (w : VecCtl) : (s.setVec w).hart.inWfi = s.hart.inWfi := rfl
@[simp] theorem State.setVec_hart_passed (s : State) (w : VecCtl) : (s.setVec w).hart.passed = s.hart.passed := rfl
@[simp] theorem State.setVec_hart_preempt (s : State) (w : VecCtl) : (s.setVec w).hart.preempt = s.hart.preempt := rfl
@[simp] theorem State.setVec_hart_srfSeen (s : State) (w : VecCtl) : (s.setVec w).hart.srfSeen = s.hart.srfSeen := rfl
@[simp] theorem State.setVec_hart_stopped (s : State) (w : VecCtl) : (s.setVec w).hart.stopped = s.hart.stopped := rfl
@[simp] theorem State.setVec_hart_load (s : State) (w : VecCtl) : (s.setVec w).hart.load = s.hart.load := rfl
@[simp] theorem State.setVec_hart_edge (s : State) (w : VecCtl) : (s.setVec w).hart.edge = s.hart.edge := rfl
@[simp] theorem State.setVec_hart_held (s : State) (w : VecCtl) : (s.setVec w).hart.held = s.hart.held := rfl
@[simp] theorem State.setVec_hart_ahead (s : State) (w : VecCtl) : (s.setVec w).hart.ahead = s.hart.ahead := rfl
@[simp] theorem State.setVec_hart_early (s : State) (w : VecCtl) : (s.setVec w).hart.early = s.hart.early := rfl
@[simp] theorem State.setVec_hart_kept (s : State) (w : VecCtl) : (s.setVec w).hart.kept = s.hart.kept := rfl
@[simp] theorem State.setVec_hart_prov (s : State) (w : VecCtl) : (s.setVec w).hart.prov = s.hart.prov := rfl
@[simp] theorem State.setVec_hart_vec (s : State) (w : VecCtl) : (s.setVec w).hart.vec = w := rfl

/-! ### The trap registers -/

@[simp] theorem State.setTrap_core (s : State) (w : TrapRegs) : (s.setTrap w).core = s.core := rfl
@[simp] theorem State.setTrap_parked (s : State) (w : TrapRegs) : (s.setTrap w).parked = s.parked := rfl
@[simp] theorem State.setTrap_cores (s : State) (w : TrapRegs) : (s.setTrap w).cores = s.cores := rfl
@[simp] theorem State.setTrap_dev (s : State) (w : TrapRegs) : (s.setTrap w).dev = s.dev := rfl
@[simp] theorem State.setTrap_agenda (s : State) (w : TrapRegs) : (s.setTrap w).agenda = s.agenda := rfl
@[simp] theorem State.setTrap_pause (s : State) (w : TrapRegs) : (s.setTrap w).pause = s.pause := rfl
@[simp] theorem State.setTrap_hart_ident (s : State) (w : TrapRegs) : (s.setTrap w).hart.ident = s.hart.ident := rfl
@[simp] theorem State.setTrap_hart_status (s : State) (w : TrapRegs) : (s.setTrap w).hart.status = s.hart.status := rfl
@[simp] theorem State.setTrap_hart_ctx (s : State) (w : TrapRegs) : (s.setTrap w).hart.ctx = s.hart.ctx := rfl
@[simp] theorem State.setTrap_hart_root (s : State) (w : TrapRegs) : (s.setTrap w).hart.root = s.hart.root := rfl
@[simp] theorem State.setTrap_hart_x (s : State) (w : TrapRegs) : (s.setTrap w).hart.x = s.hart.x := rfl
@[simp] theorem State.setTrap_hart_pc (s : State) (w : TrapRegs) : (s.setTrap w).hart.pc = s.hart.pc := rfl
@[simp] theorem State.setTrap_hart_priv (s : State) (w : TrapRegs) : (s.setTrap w).hart.priv = s.hart.priv := rfl
@[simp] theorem State.setTrap_hart_fcsr (s : State) (w : TrapRegs) : (s.setTrap w).hart.fcsr = s.hart.fcsr := rfl
@[simp] theorem State.setTrap_hart_loops (s : State) (w : TrapRegs) : (s.setTrap w).hart.loops = s.hart.loops := rfl
@[simp] theorem State.setTrap_hart_vec (s : State) (w : TrapRegs) : (s.setTrap w).hart.vec = s.hart.vec := rfl
@[simp] theorem State.setTrap_hart_v (s : State) (w : TrapRegs) : (s.setTrap w).hart.v = s.hart.v := rfl
@[simp] theorem State.setTrap_hart_p (s : State) (w : TrapRegs) : (s.setTrap w).hart.p = s.hart.p := rfl
@[simp] theorem State.setTrap_hart_rb0 (s : State) (w : TrapRegs) : (s.setTrap w).hart.rb0 = s.hart.rb0 := rfl
@[simp] theorem State.setTrap_hart_pavilions (s : State) (w : TrapRegs) : (s.setTrap w).hart.pavilions = s.hart.pavilions := rfl
@[simp] theorem State.setTrap_hart_pavSet (s : State) (w : TrapRegs) : (s.setTrap w).hart.pavSet = s.hart.pavSet := rfl
@[simp] theorem State.setTrap_hart_detm (s : State) (w : TrapRegs) : (s.setTrap w).hart.detm = s.hart.detm := rfl
@[simp] theorem State.setTrap_hart_taint (s : State) (w : TrapRegs) : (s.setTrap w).hart.taint = s.hart.taint := rfl
@[simp] theorem State.setTrap_hart_mat (s : State) (w : TrapRegs) : (s.setTrap w).hart.mat = s.hart.mat := rfl
@[simp] theorem State.setTrap_hart_streams (s : State) (w : TrapRegs) : (s.setTrap w).hart.streams = s.hart.streams := rfl
@[simp] theorem State.setTrap_hart_y (s : State) (w : TrapRegs) : (s.setTrap w).hart.y = s.hart.y := rfl
@[simp] theorem State.setTrap_hart_engine (s : State) (w : TrapRegs) : (s.setTrap w).hart.engine = s.hart.engine := rfl
@[simp] theorem State.setTrap_hart_counts (s : State) (w : TrapRegs) : (s.setTrap w).hart.counts = s.hart.counts := rfl
@[simp] theorem State.setTrap_hart_tlb (s : State) (w : TrapRegs) : (s.setTrap w).hart.tlb = s.hart.tlb := rfl
@[simp] theorem State.setTrap_hart_fetchPin (s : State) (w : TrapRegs) : (s.setTrap w).hart.fetchPin = s.hart.fetchPin := rfl
@[simp] theorem State.setTrap_hart_tfencing (s : State) (w : TrapRegs) : (s.setTrap w).hart.tfencing = s.hart.tfencing := rfl
@[simp] theorem State.setTrap_hart_inWfi (s : State) (w : TrapRegs) : (s.setTrap w).hart.inWfi = s.hart.inWfi := rfl
@[simp] theorem State.setTrap_hart_passed (s : State) (w : TrapRegs) : (s.setTrap w).hart.passed = s.hart.passed := rfl
@[simp] theorem State.setTrap_hart_preempt (s : State) (w : TrapRegs) : (s.setTrap w).hart.preempt = s.hart.preempt := rfl
@[simp] theorem State.setTrap_hart_srfSeen (s : State) (w : TrapRegs) : (s.setTrap w).hart.srfSeen = s.hart.srfSeen := rfl
@[simp] theorem State.setTrap_hart_stopped (s : State) (w : TrapRegs) : (s.setTrap w).hart.stopped = s.hart.stopped := rfl
@[simp] theorem State.setTrap_hart_load (s : State) (w : TrapRegs) : (s.setTrap w).hart.load = s.hart.load := rfl
@[simp] theorem State.setTrap_hart_edge (s : State) (w : TrapRegs) : (s.setTrap w).hart.edge = s.hart.edge := rfl
@[simp] theorem State.setTrap_hart_held (s : State) (w : TrapRegs) : (s.setTrap w).hart.held = s.hart.held := rfl
@[simp] theorem State.setTrap_hart_ahead (s : State) (w : TrapRegs) : (s.setTrap w).hart.ahead = s.hart.ahead := rfl
@[simp] theorem State.setTrap_hart_early (s : State) (w : TrapRegs) : (s.setTrap w).hart.early = s.hart.early := rfl
@[simp] theorem State.setTrap_hart_kept (s : State) (w : TrapRegs) : (s.setTrap w).hart.kept = s.hart.kept := rfl
@[simp] theorem State.setTrap_hart_prov (s : State) (w : TrapRegs) : (s.setTrap w).hart.prov = s.hart.prov := rfl
@[simp] theorem State.setTrap_hart_trap (s : State) (w : TrapRegs) : (s.setTrap w).hart.trap = w := rfl

/-! ### The loop registers -/

@[simp] theorem State.setLoops_core (s : State) (w : Loops) : (s.setLoops w).core = s.core := rfl
@[simp] theorem State.setLoops_parked (s : State) (w : Loops) : (s.setLoops w).parked = s.parked := rfl
@[simp] theorem State.setLoops_cores (s : State) (w : Loops) : (s.setLoops w).cores = s.cores := rfl
@[simp] theorem State.setLoops_dev (s : State) (w : Loops) : (s.setLoops w).dev = s.dev := rfl
@[simp] theorem State.setLoops_agenda (s : State) (w : Loops) : (s.setLoops w).agenda = s.agenda := rfl
@[simp] theorem State.setLoops_pause (s : State) (w : Loops) : (s.setLoops w).pause = s.pause := rfl
@[simp] theorem State.setLoops_hart_ident (s : State) (w : Loops) : (s.setLoops w).hart.ident = s.hart.ident := rfl
@[simp] theorem State.setLoops_hart_status (s : State) (w : Loops) : (s.setLoops w).hart.status = s.hart.status := rfl
@[simp] theorem State.setLoops_hart_ctx (s : State) (w : Loops) : (s.setLoops w).hart.ctx = s.hart.ctx := rfl
@[simp] theorem State.setLoops_hart_root (s : State) (w : Loops) : (s.setLoops w).hart.root = s.hart.root := rfl
@[simp] theorem State.setLoops_hart_x (s : State) (w : Loops) : (s.setLoops w).hart.x = s.hart.x := rfl
@[simp] theorem State.setLoops_hart_pc (s : State) (w : Loops) : (s.setLoops w).hart.pc = s.hart.pc := rfl
@[simp] theorem State.setLoops_hart_priv (s : State) (w : Loops) : (s.setLoops w).hart.priv = s.hart.priv := rfl
@[simp] theorem State.setLoops_hart_fcsr (s : State) (w : Loops) : (s.setLoops w).hart.fcsr = s.hart.fcsr := rfl
@[simp] theorem State.setLoops_hart_trap (s : State) (w : Loops) : (s.setLoops w).hart.trap = s.hart.trap := rfl
@[simp] theorem State.setLoops_hart_vec (s : State) (w : Loops) : (s.setLoops w).hart.vec = s.hart.vec := rfl
@[simp] theorem State.setLoops_hart_v (s : State) (w : Loops) : (s.setLoops w).hart.v = s.hart.v := rfl
@[simp] theorem State.setLoops_hart_p (s : State) (w : Loops) : (s.setLoops w).hart.p = s.hart.p := rfl
@[simp] theorem State.setLoops_hart_rb0 (s : State) (w : Loops) : (s.setLoops w).hart.rb0 = s.hart.rb0 := rfl
@[simp] theorem State.setLoops_hart_pavilions (s : State) (w : Loops) : (s.setLoops w).hart.pavilions = s.hart.pavilions := rfl
@[simp] theorem State.setLoops_hart_pavSet (s : State) (w : Loops) : (s.setLoops w).hart.pavSet = s.hart.pavSet := rfl
@[simp] theorem State.setLoops_hart_detm (s : State) (w : Loops) : (s.setLoops w).hart.detm = s.hart.detm := rfl
@[simp] theorem State.setLoops_hart_taint (s : State) (w : Loops) : (s.setLoops w).hart.taint = s.hart.taint := rfl
@[simp] theorem State.setLoops_hart_mat (s : State) (w : Loops) : (s.setLoops w).hart.mat = s.hart.mat := rfl
@[simp] theorem State.setLoops_hart_streams (s : State) (w : Loops) : (s.setLoops w).hart.streams = s.hart.streams := rfl
@[simp] theorem State.setLoops_hart_y (s : State) (w : Loops) : (s.setLoops w).hart.y = s.hart.y := rfl
@[simp] theorem State.setLoops_hart_engine (s : State) (w : Loops) : (s.setLoops w).hart.engine = s.hart.engine := rfl
@[simp] theorem State.setLoops_hart_counts (s : State) (w : Loops) : (s.setLoops w).hart.counts = s.hart.counts := rfl
@[simp] theorem State.setLoops_hart_tlb (s : State) (w : Loops) : (s.setLoops w).hart.tlb = s.hart.tlb := rfl
@[simp] theorem State.setLoops_hart_fetchPin (s : State) (w : Loops) : (s.setLoops w).hart.fetchPin = s.hart.fetchPin := rfl
@[simp] theorem State.setLoops_hart_tfencing (s : State) (w : Loops) : (s.setLoops w).hart.tfencing = s.hart.tfencing := rfl
@[simp] theorem State.setLoops_hart_inWfi (s : State) (w : Loops) : (s.setLoops w).hart.inWfi = s.hart.inWfi := rfl
@[simp] theorem State.setLoops_hart_passed (s : State) (w : Loops) : (s.setLoops w).hart.passed = s.hart.passed := rfl
@[simp] theorem State.setLoops_hart_preempt (s : State) (w : Loops) : (s.setLoops w).hart.preempt = s.hart.preempt := rfl
@[simp] theorem State.setLoops_hart_srfSeen (s : State) (w : Loops) : (s.setLoops w).hart.srfSeen = s.hart.srfSeen := rfl
@[simp] theorem State.setLoops_hart_stopped (s : State) (w : Loops) : (s.setLoops w).hart.stopped = s.hart.stopped := rfl
@[simp] theorem State.setLoops_hart_load (s : State) (w : Loops) : (s.setLoops w).hart.load = s.hart.load := rfl
@[simp] theorem State.setLoops_hart_edge (s : State) (w : Loops) : (s.setLoops w).hart.edge = s.hart.edge := rfl
@[simp] theorem State.setLoops_hart_held (s : State) (w : Loops) : (s.setLoops w).hart.held = s.hart.held := rfl
@[simp] theorem State.setLoops_hart_ahead (s : State) (w : Loops) : (s.setLoops w).hart.ahead = s.hart.ahead := rfl
@[simp] theorem State.setLoops_hart_early (s : State) (w : Loops) : (s.setLoops w).hart.early = s.hart.early := rfl
@[simp] theorem State.setLoops_hart_kept (s : State) (w : Loops) : (s.setLoops w).hart.kept = s.hart.kept := rfl
@[simp] theorem State.setLoops_hart_prov (s : State) (w : Loops) : (s.setLoops w).hart.prov = s.hart.prov := rfl
@[simp] theorem State.setLoops_hart_loops (s : State) (w : Loops) : (s.setLoops w).hart.loops = w := rfl

/-! ### The matrix side -/

@[simp] theorem State.setMat_core (s : State) (w : Matrix) : (s.setMat w).core = s.core := rfl
@[simp] theorem State.setMat_parked (s : State) (w : Matrix) : (s.setMat w).parked = s.parked := rfl
@[simp] theorem State.setMat_cores (s : State) (w : Matrix) : (s.setMat w).cores = s.cores := rfl
@[simp] theorem State.setMat_dev (s : State) (w : Matrix) : (s.setMat w).dev = s.dev := rfl
@[simp] theorem State.setMat_agenda (s : State) (w : Matrix) : (s.setMat w).agenda = s.agenda := rfl
@[simp] theorem State.setMat_pause (s : State) (w : Matrix) : (s.setMat w).pause = s.pause := rfl
@[simp] theorem State.setMat_hart_ident (s : State) (w : Matrix) : (s.setMat w).hart.ident = s.hart.ident := rfl
@[simp] theorem State.setMat_hart_status (s : State) (w : Matrix) : (s.setMat w).hart.status = s.hart.status := rfl
@[simp] theorem State.setMat_hart_ctx (s : State) (w : Matrix) : (s.setMat w).hart.ctx = s.hart.ctx := rfl
@[simp] theorem State.setMat_hart_root (s : State) (w : Matrix) : (s.setMat w).hart.root = s.hart.root := rfl
@[simp] theorem State.setMat_hart_x (s : State) (w : Matrix) : (s.setMat w).hart.x = s.hart.x := rfl
@[simp] theorem State.setMat_hart_pc (s : State) (w : Matrix) : (s.setMat w).hart.pc = s.hart.pc := rfl
@[simp] theorem State.setMat_hart_priv (s : State) (w : Matrix) : (s.setMat w).hart.priv = s.hart.priv := rfl
@[simp] theorem State.setMat_hart_fcsr (s : State) (w : Matrix) : (s.setMat w).hart.fcsr = s.hart.fcsr := rfl
@[simp] theorem State.setMat_hart_loops (s : State) (w : Matrix) : (s.setMat w).hart.loops = s.hart.loops := rfl
@[simp] theorem State.setMat_hart_trap (s : State) (w : Matrix) : (s.setMat w).hart.trap = s.hart.trap := rfl
@[simp] theorem State.setMat_hart_vec (s : State) (w : Matrix) : (s.setMat w).hart.vec = s.hart.vec := rfl
@[simp] theorem State.setMat_hart_v (s : State) (w : Matrix) : (s.setMat w).hart.v = s.hart.v := rfl
@[simp] theorem State.setMat_hart_p (s : State) (w : Matrix) : (s.setMat w).hart.p = s.hart.p := rfl
@[simp] theorem State.setMat_hart_rb0 (s : State) (w : Matrix) : (s.setMat w).hart.rb0 = s.hart.rb0 := rfl
@[simp] theorem State.setMat_hart_pavilions (s : State) (w : Matrix) : (s.setMat w).hart.pavilions = s.hart.pavilions := rfl
@[simp] theorem State.setMat_hart_pavSet (s : State) (w : Matrix) : (s.setMat w).hart.pavSet = s.hart.pavSet := rfl
@[simp] theorem State.setMat_hart_detm (s : State) (w : Matrix) : (s.setMat w).hart.detm = s.hart.detm := rfl
@[simp] theorem State.setMat_hart_taint (s : State) (w : Matrix) : (s.setMat w).hart.taint = s.hart.taint := rfl
@[simp] theorem State.setMat_hart_streams (s : State) (w : Matrix) : (s.setMat w).hart.streams = s.hart.streams := rfl
@[simp] theorem State.setMat_hart_y (s : State) (w : Matrix) : (s.setMat w).hart.y = s.hart.y := rfl
@[simp] theorem State.setMat_hart_engine (s : State) (w : Matrix) : (s.setMat w).hart.engine = s.hart.engine := rfl
@[simp] theorem State.setMat_hart_counts (s : State) (w : Matrix) : (s.setMat w).hart.counts = s.hart.counts := rfl
@[simp] theorem State.setMat_hart_tlb (s : State) (w : Matrix) : (s.setMat w).hart.tlb = s.hart.tlb := rfl
@[simp] theorem State.setMat_hart_fetchPin (s : State) (w : Matrix) : (s.setMat w).hart.fetchPin = s.hart.fetchPin := rfl
@[simp] theorem State.setMat_hart_tfencing (s : State) (w : Matrix) : (s.setMat w).hart.tfencing = s.hart.tfencing := rfl
@[simp] theorem State.setMat_hart_inWfi (s : State) (w : Matrix) : (s.setMat w).hart.inWfi = s.hart.inWfi := rfl
@[simp] theorem State.setMat_hart_passed (s : State) (w : Matrix) : (s.setMat w).hart.passed = s.hart.passed := rfl
@[simp] theorem State.setMat_hart_preempt (s : State) (w : Matrix) : (s.setMat w).hart.preempt = s.hart.preempt := rfl
@[simp] theorem State.setMat_hart_srfSeen (s : State) (w : Matrix) : (s.setMat w).hart.srfSeen = s.hart.srfSeen := rfl
@[simp] theorem State.setMat_hart_stopped (s : State) (w : Matrix) : (s.setMat w).hart.stopped = s.hart.stopped := rfl
@[simp] theorem State.setMat_hart_load (s : State) (w : Matrix) : (s.setMat w).hart.load = s.hart.load := rfl
@[simp] theorem State.setMat_hart_edge (s : State) (w : Matrix) : (s.setMat w).hart.edge = s.hart.edge := rfl
@[simp] theorem State.setMat_hart_held (s : State) (w : Matrix) : (s.setMat w).hart.held = s.hart.held := rfl
@[simp] theorem State.setMat_hart_ahead (s : State) (w : Matrix) : (s.setMat w).hart.ahead = s.hart.ahead := rfl
@[simp] theorem State.setMat_hart_early (s : State) (w : Matrix) : (s.setMat w).hart.early = s.hart.early := rfl
@[simp] theorem State.setMat_hart_kept (s : State) (w : Matrix) : (s.setMat w).hart.kept = s.hart.kept := rfl
@[simp] theorem State.setMat_hart_prov (s : State) (w : Matrix) : (s.setMat w).hart.prov = s.hart.prov := rfl
@[simp] theorem State.setMat_hart_mat (s : State) (w : Matrix) : (s.setMat w).hart.mat = w := rfl

/-! ### TAINT -/

@[simp] theorem State.setTaint_core (s : State) (w : TaintBits) : (s.setTaint w).core = s.core := rfl
@[simp] theorem State.setTaint_parked (s : State) (w : TaintBits) : (s.setTaint w).parked = s.parked := rfl
@[simp] theorem State.setTaint_cores (s : State) (w : TaintBits) : (s.setTaint w).cores = s.cores := rfl
@[simp] theorem State.setTaint_dev (s : State) (w : TaintBits) : (s.setTaint w).dev = s.dev := rfl
@[simp] theorem State.setTaint_agenda (s : State) (w : TaintBits) : (s.setTaint w).agenda = s.agenda := rfl
@[simp] theorem State.setTaint_pause (s : State) (w : TaintBits) : (s.setTaint w).pause = s.pause := rfl
@[simp] theorem State.setTaint_hart_ident (s : State) (w : TaintBits) : (s.setTaint w).hart.ident = s.hart.ident := rfl
@[simp] theorem State.setTaint_hart_status (s : State) (w : TaintBits) : (s.setTaint w).hart.status = s.hart.status := rfl
@[simp] theorem State.setTaint_hart_ctx (s : State) (w : TaintBits) : (s.setTaint w).hart.ctx = s.hart.ctx := rfl
@[simp] theorem State.setTaint_hart_root (s : State) (w : TaintBits) : (s.setTaint w).hart.root = s.hart.root := rfl
@[simp] theorem State.setTaint_hart_x (s : State) (w : TaintBits) : (s.setTaint w).hart.x = s.hart.x := rfl
@[simp] theorem State.setTaint_hart_pc (s : State) (w : TaintBits) : (s.setTaint w).hart.pc = s.hart.pc := rfl
@[simp] theorem State.setTaint_hart_priv (s : State) (w : TaintBits) : (s.setTaint w).hart.priv = s.hart.priv := rfl
@[simp] theorem State.setTaint_hart_fcsr (s : State) (w : TaintBits) : (s.setTaint w).hart.fcsr = s.hart.fcsr := rfl
@[simp] theorem State.setTaint_hart_loops (s : State) (w : TaintBits) : (s.setTaint w).hart.loops = s.hart.loops := rfl
@[simp] theorem State.setTaint_hart_trap (s : State) (w : TaintBits) : (s.setTaint w).hart.trap = s.hart.trap := rfl
@[simp] theorem State.setTaint_hart_vec (s : State) (w : TaintBits) : (s.setTaint w).hart.vec = s.hart.vec := rfl
@[simp] theorem State.setTaint_hart_v (s : State) (w : TaintBits) : (s.setTaint w).hart.v = s.hart.v := rfl
@[simp] theorem State.setTaint_hart_p (s : State) (w : TaintBits) : (s.setTaint w).hart.p = s.hart.p := rfl
@[simp] theorem State.setTaint_hart_rb0 (s : State) (w : TaintBits) : (s.setTaint w).hart.rb0 = s.hart.rb0 := rfl
@[simp] theorem State.setTaint_hart_pavilions (s : State) (w : TaintBits) : (s.setTaint w).hart.pavilions = s.hart.pavilions := rfl
@[simp] theorem State.setTaint_hart_pavSet (s : State) (w : TaintBits) : (s.setTaint w).hart.pavSet = s.hart.pavSet := rfl
@[simp] theorem State.setTaint_hart_detm (s : State) (w : TaintBits) : (s.setTaint w).hart.detm = s.hart.detm := rfl
@[simp] theorem State.setTaint_hart_mat (s : State) (w : TaintBits) : (s.setTaint w).hart.mat = s.hart.mat := rfl
@[simp] theorem State.setTaint_hart_streams (s : State) (w : TaintBits) : (s.setTaint w).hart.streams = s.hart.streams := rfl
@[simp] theorem State.setTaint_hart_y (s : State) (w : TaintBits) : (s.setTaint w).hart.y = s.hart.y := rfl
@[simp] theorem State.setTaint_hart_engine (s : State) (w : TaintBits) : (s.setTaint w).hart.engine = s.hart.engine := rfl
@[simp] theorem State.setTaint_hart_counts (s : State) (w : TaintBits) : (s.setTaint w).hart.counts = s.hart.counts := rfl
@[simp] theorem State.setTaint_hart_tlb (s : State) (w : TaintBits) : (s.setTaint w).hart.tlb = s.hart.tlb := rfl
@[simp] theorem State.setTaint_hart_fetchPin (s : State) (w : TaintBits) : (s.setTaint w).hart.fetchPin = s.hart.fetchPin := rfl
@[simp] theorem State.setTaint_hart_tfencing (s : State) (w : TaintBits) : (s.setTaint w).hart.tfencing = s.hart.tfencing := rfl
@[simp] theorem State.setTaint_hart_inWfi (s : State) (w : TaintBits) : (s.setTaint w).hart.inWfi = s.hart.inWfi := rfl
@[simp] theorem State.setTaint_hart_passed (s : State) (w : TaintBits) : (s.setTaint w).hart.passed = s.hart.passed := rfl
@[simp] theorem State.setTaint_hart_preempt (s : State) (w : TaintBits) : (s.setTaint w).hart.preempt = s.hart.preempt := rfl
@[simp] theorem State.setTaint_hart_srfSeen (s : State) (w : TaintBits) : (s.setTaint w).hart.srfSeen = s.hart.srfSeen := rfl
@[simp] theorem State.setTaint_hart_stopped (s : State) (w : TaintBits) : (s.setTaint w).hart.stopped = s.hart.stopped := rfl
@[simp] theorem State.setTaint_hart_load (s : State) (w : TaintBits) : (s.setTaint w).hart.load = s.hart.load := rfl
@[simp] theorem State.setTaint_hart_edge (s : State) (w : TaintBits) : (s.setTaint w).hart.edge = s.hart.edge := rfl
@[simp] theorem State.setTaint_hart_held (s : State) (w : TaintBits) : (s.setTaint w).hart.held = s.hart.held := rfl
@[simp] theorem State.setTaint_hart_ahead (s : State) (w : TaintBits) : (s.setTaint w).hart.ahead = s.hart.ahead := rfl
@[simp] theorem State.setTaint_hart_early (s : State) (w : TaintBits) : (s.setTaint w).hart.early = s.hart.early := rfl
@[simp] theorem State.setTaint_hart_kept (s : State) (w : TaintBits) : (s.setTaint w).hart.kept = s.hart.kept := rfl
@[simp] theorem State.setTaint_hart_prov (s : State) (w : TaintBits) : (s.setTaint w).hart.prov = s.hart.prov := rfl
@[simp] theorem State.setTaint_hart_taint (s : State) (w : TaintBits) : (s.setTaint w).hart.taint = w := rfl

/-! ### VTYPE -/

@[simp] theorem State.setVType_core (s : State) (w : VType) : (s.setVType w).core = s.core := rfl
@[simp] theorem State.setVType_parked (s : State) (w : VType) : (s.setVType w).parked = s.parked := rfl
@[simp] theorem State.setVType_cores (s : State) (w : VType) : (s.setVType w).cores = s.cores := rfl
@[simp] theorem State.setVType_dev (s : State) (w : VType) : (s.setVType w).dev = s.dev := rfl
@[simp] theorem State.setVType_agenda (s : State) (w : VType) : (s.setVType w).agenda = s.agenda := rfl
@[simp] theorem State.setVType_pause (s : State) (w : VType) : (s.setVType w).pause = s.pause := rfl
@[simp] theorem State.setVType_hart_ident (s : State) (w : VType) : (s.setVType w).hart.ident = s.hart.ident := rfl
@[simp] theorem State.setVType_hart_status (s : State) (w : VType) : (s.setVType w).hart.status = s.hart.status := rfl
@[simp] theorem State.setVType_hart_ctx (s : State) (w : VType) : (s.setVType w).hart.ctx = s.hart.ctx := rfl
@[simp] theorem State.setVType_hart_root (s : State) (w : VType) : (s.setVType w).hart.root = s.hart.root := rfl
@[simp] theorem State.setVType_hart_x (s : State) (w : VType) : (s.setVType w).hart.x = s.hart.x := rfl
@[simp] theorem State.setVType_hart_pc (s : State) (w : VType) : (s.setVType w).hart.pc = s.hart.pc := rfl
@[simp] theorem State.setVType_hart_priv (s : State) (w : VType) : (s.setVType w).hart.priv = s.hart.priv := rfl
@[simp] theorem State.setVType_hart_fcsr (s : State) (w : VType) : (s.setVType w).hart.fcsr = s.hart.fcsr := rfl
@[simp] theorem State.setVType_hart_loops (s : State) (w : VType) : (s.setVType w).hart.loops = s.hart.loops := rfl
@[simp] theorem State.setVType_hart_trap (s : State) (w : VType) : (s.setVType w).hart.trap = s.hart.trap := rfl
@[simp] theorem State.setVType_hart_v (s : State) (w : VType) : (s.setVType w).hart.v = s.hart.v := rfl
@[simp] theorem State.setVType_hart_p (s : State) (w : VType) : (s.setVType w).hart.p = s.hart.p := rfl
@[simp] theorem State.setVType_hart_rb0 (s : State) (w : VType) : (s.setVType w).hart.rb0 = s.hart.rb0 := rfl
@[simp] theorem State.setVType_hart_pavilions (s : State) (w : VType) : (s.setVType w).hart.pavilions = s.hart.pavilions := rfl
@[simp] theorem State.setVType_hart_pavSet (s : State) (w : VType) : (s.setVType w).hart.pavSet = s.hart.pavSet := rfl
@[simp] theorem State.setVType_hart_detm (s : State) (w : VType) : (s.setVType w).hart.detm = s.hart.detm := rfl
@[simp] theorem State.setVType_hart_taint (s : State) (w : VType) : (s.setVType w).hart.taint = s.hart.taint := rfl
@[simp] theorem State.setVType_hart_mat (s : State) (w : VType) : (s.setVType w).hart.mat = s.hart.mat := rfl
@[simp] theorem State.setVType_hart_streams (s : State) (w : VType) : (s.setVType w).hart.streams = s.hart.streams := rfl
@[simp] theorem State.setVType_hart_y (s : State) (w : VType) : (s.setVType w).hart.y = s.hart.y := rfl
@[simp] theorem State.setVType_hart_engine (s : State) (w : VType) : (s.setVType w).hart.engine = s.hart.engine := rfl
@[simp] theorem State.setVType_hart_counts (s : State) (w : VType) : (s.setVType w).hart.counts = s.hart.counts := rfl
@[simp] theorem State.setVType_hart_tlb (s : State) (w : VType) : (s.setVType w).hart.tlb = s.hart.tlb := rfl
@[simp] theorem State.setVType_hart_fetchPin (s : State) (w : VType) : (s.setVType w).hart.fetchPin = s.hart.fetchPin := rfl
@[simp] theorem State.setVType_hart_tfencing (s : State) (w : VType) : (s.setVType w).hart.tfencing = s.hart.tfencing := rfl
@[simp] theorem State.setVType_hart_inWfi (s : State) (w : VType) : (s.setVType w).hart.inWfi = s.hart.inWfi := rfl
@[simp] theorem State.setVType_hart_passed (s : State) (w : VType) : (s.setVType w).hart.passed = s.hart.passed := rfl
@[simp] theorem State.setVType_hart_preempt (s : State) (w : VType) : (s.setVType w).hart.preempt = s.hart.preempt := rfl
@[simp] theorem State.setVType_hart_srfSeen (s : State) (w : VType) : (s.setVType w).hart.srfSeen = s.hart.srfSeen := rfl
@[simp] theorem State.setVType_hart_stopped (s : State) (w : VType) : (s.setVType w).hart.stopped = s.hart.stopped := rfl
@[simp] theorem State.setVType_hart_load (s : State) (w : VType) : (s.setVType w).hart.load = s.hart.load := rfl
@[simp] theorem State.setVType_hart_edge (s : State) (w : VType) : (s.setVType w).hart.edge = s.hart.edge := rfl
@[simp] theorem State.setVType_hart_held (s : State) (w : VType) : (s.setVType w).hart.held = s.hart.held := rfl
@[simp] theorem State.setVType_hart_ahead (s : State) (w : VType) : (s.setVType w).hart.ahead = s.hart.ahead := rfl
@[simp] theorem State.setVType_hart_early (s : State) (w : VType) : (s.setVType w).hart.early = s.hart.early := rfl
@[simp] theorem State.setVType_hart_kept (s : State) (w : VType) : (s.setVType w).hart.kept = s.hart.kept := rfl
@[simp] theorem State.setVType_hart_prov (s : State) (w : VType) : (s.setVType w).hart.prov = s.hart.prov := rfl
@[simp] theorem State.setVType_hart_vec (s : State) (w : VType) : (s.setVType w).hart.vec = { s.hart.vec with vtype := w } := rfl

/-! ### VSTART -/

@[simp] theorem State.setVstart_core (s : State) (n : Nat) : (s.setVstart n).core = s.core := rfl
@[simp] theorem State.setVstart_parked (s : State) (n : Nat) : (s.setVstart n).parked = s.parked := rfl
@[simp] theorem State.setVstart_cores (s : State) (n : Nat) : (s.setVstart n).cores = s.cores := rfl
@[simp] theorem State.setVstart_dev (s : State) (n : Nat) : (s.setVstart n).dev = s.dev := rfl
@[simp] theorem State.setVstart_agenda (s : State) (n : Nat) : (s.setVstart n).agenda = s.agenda := rfl
@[simp] theorem State.setVstart_pause (s : State) (n : Nat) : (s.setVstart n).pause = s.pause := rfl
@[simp] theorem State.setVstart_hart_ident (s : State) (n : Nat) : (s.setVstart n).hart.ident = s.hart.ident := rfl
@[simp] theorem State.setVstart_hart_status (s : State) (n : Nat) : (s.setVstart n).hart.status = s.hart.status := rfl
@[simp] theorem State.setVstart_hart_ctx (s : State) (n : Nat) : (s.setVstart n).hart.ctx = s.hart.ctx := rfl
@[simp] theorem State.setVstart_hart_root (s : State) (n : Nat) : (s.setVstart n).hart.root = s.hart.root := rfl
@[simp] theorem State.setVstart_hart_x (s : State) (n : Nat) : (s.setVstart n).hart.x = s.hart.x := rfl
@[simp] theorem State.setVstart_hart_pc (s : State) (n : Nat) : (s.setVstart n).hart.pc = s.hart.pc := rfl
@[simp] theorem State.setVstart_hart_priv (s : State) (n : Nat) : (s.setVstart n).hart.priv = s.hart.priv := rfl
@[simp] theorem State.setVstart_hart_fcsr (s : State) (n : Nat) : (s.setVstart n).hart.fcsr = s.hart.fcsr := rfl
@[simp] theorem State.setVstart_hart_loops (s : State) (n : Nat) : (s.setVstart n).hart.loops = s.hart.loops := rfl
@[simp] theorem State.setVstart_hart_trap (s : State) (n : Nat) : (s.setVstart n).hart.trap = s.hart.trap := rfl
@[simp] theorem State.setVstart_hart_v (s : State) (n : Nat) : (s.setVstart n).hart.v = s.hart.v := rfl
@[simp] theorem State.setVstart_hart_p (s : State) (n : Nat) : (s.setVstart n).hart.p = s.hart.p := rfl
@[simp] theorem State.setVstart_hart_rb0 (s : State) (n : Nat) : (s.setVstart n).hart.rb0 = s.hart.rb0 := rfl
@[simp] theorem State.setVstart_hart_pavilions (s : State) (n : Nat) : (s.setVstart n).hart.pavilions = s.hart.pavilions := rfl
@[simp] theorem State.setVstart_hart_pavSet (s : State) (n : Nat) : (s.setVstart n).hart.pavSet = s.hart.pavSet := rfl
@[simp] theorem State.setVstart_hart_detm (s : State) (n : Nat) : (s.setVstart n).hart.detm = s.hart.detm := rfl
@[simp] theorem State.setVstart_hart_taint (s : State) (n : Nat) : (s.setVstart n).hart.taint = s.hart.taint := rfl
@[simp] theorem State.setVstart_hart_mat (s : State) (n : Nat) : (s.setVstart n).hart.mat = s.hart.mat := rfl
@[simp] theorem State.setVstart_hart_streams (s : State) (n : Nat) : (s.setVstart n).hart.streams = s.hart.streams := rfl
@[simp] theorem State.setVstart_hart_y (s : State) (n : Nat) : (s.setVstart n).hart.y = s.hart.y := rfl
@[simp] theorem State.setVstart_hart_engine (s : State) (n : Nat) : (s.setVstart n).hart.engine = s.hart.engine := rfl
@[simp] theorem State.setVstart_hart_counts (s : State) (n : Nat) : (s.setVstart n).hart.counts = s.hart.counts := rfl
@[simp] theorem State.setVstart_hart_tlb (s : State) (n : Nat) : (s.setVstart n).hart.tlb = s.hart.tlb := rfl
@[simp] theorem State.setVstart_hart_fetchPin (s : State) (n : Nat) : (s.setVstart n).hart.fetchPin = s.hart.fetchPin := rfl
@[simp] theorem State.setVstart_hart_tfencing (s : State) (n : Nat) : (s.setVstart n).hart.tfencing = s.hart.tfencing := rfl
@[simp] theorem State.setVstart_hart_inWfi (s : State) (n : Nat) : (s.setVstart n).hart.inWfi = s.hart.inWfi := rfl
@[simp] theorem State.setVstart_hart_passed (s : State) (n : Nat) : (s.setVstart n).hart.passed = s.hart.passed := rfl
@[simp] theorem State.setVstart_hart_preempt (s : State) (n : Nat) : (s.setVstart n).hart.preempt = s.hart.preempt := rfl
@[simp] theorem State.setVstart_hart_srfSeen (s : State) (n : Nat) : (s.setVstart n).hart.srfSeen = s.hart.srfSeen := rfl
@[simp] theorem State.setVstart_hart_stopped (s : State) (n : Nat) : (s.setVstart n).hart.stopped = s.hart.stopped := rfl
@[simp] theorem State.setVstart_hart_load (s : State) (n : Nat) : (s.setVstart n).hart.load = s.hart.load := rfl
@[simp] theorem State.setVstart_hart_edge (s : State) (n : Nat) : (s.setVstart n).hart.edge = s.hart.edge := rfl
@[simp] theorem State.setVstart_hart_held (s : State) (n : Nat) : (s.setVstart n).hart.held = s.hart.held := rfl
@[simp] theorem State.setVstart_hart_ahead (s : State) (n : Nat) : (s.setVstart n).hart.ahead = s.hart.ahead := rfl
@[simp] theorem State.setVstart_hart_early (s : State) (n : Nat) : (s.setVstart n).hart.early = s.hart.early := rfl
@[simp] theorem State.setVstart_hart_kept (s : State) (n : Nat) : (s.setVstart n).hart.kept = s.hart.kept := rfl
@[simp] theorem State.setVstart_hart_prov (s : State) (n : Nat) : (s.setVstart n).hart.prov = s.hart.prov := rfl
@[simp] theorem State.setVstart_hart_vec (s : State) (n : Nat) : (s.setVstart n).hart.vec = { s.hart.vec with vstart := n } := rfl

/-! ### FCSR -/

@[simp] theorem State.raiseFcsr_core (s : State) (f : Flags) : (s.raiseFcsr f).core = s.core := rfl
@[simp] theorem State.raiseFcsr_parked (s : State) (f : Flags) : (s.raiseFcsr f).parked = s.parked := rfl
@[simp] theorem State.raiseFcsr_cores (s : State) (f : Flags) : (s.raiseFcsr f).cores = s.cores := rfl
@[simp] theorem State.raiseFcsr_dev (s : State) (f : Flags) : (s.raiseFcsr f).dev = s.dev := rfl
@[simp] theorem State.raiseFcsr_agenda (s : State) (f : Flags) : (s.raiseFcsr f).agenda = s.agenda := rfl
@[simp] theorem State.raiseFcsr_pause (s : State) (f : Flags) : (s.raiseFcsr f).pause = s.pause := rfl
@[simp] theorem State.raiseFcsr_hart_ident (s : State) (f : Flags) : (s.raiseFcsr f).hart.ident = s.hart.ident := rfl
@[simp] theorem State.raiseFcsr_hart_status (s : State) (f : Flags) : (s.raiseFcsr f).hart.status = s.hart.status := rfl
@[simp] theorem State.raiseFcsr_hart_ctx (s : State) (f : Flags) : (s.raiseFcsr f).hart.ctx = s.hart.ctx := rfl
@[simp] theorem State.raiseFcsr_hart_root (s : State) (f : Flags) : (s.raiseFcsr f).hart.root = s.hart.root := rfl
@[simp] theorem State.raiseFcsr_hart_x (s : State) (f : Flags) : (s.raiseFcsr f).hart.x = s.hart.x := rfl
@[simp] theorem State.raiseFcsr_hart_pc (s : State) (f : Flags) : (s.raiseFcsr f).hart.pc = s.hart.pc := rfl
@[simp] theorem State.raiseFcsr_hart_priv (s : State) (f : Flags) : (s.raiseFcsr f).hart.priv = s.hart.priv := rfl
@[simp] theorem State.raiseFcsr_hart_loops (s : State) (f : Flags) : (s.raiseFcsr f).hart.loops = s.hart.loops := rfl
@[simp] theorem State.raiseFcsr_hart_trap (s : State) (f : Flags) : (s.raiseFcsr f).hart.trap = s.hart.trap := rfl
@[simp] theorem State.raiseFcsr_hart_vec (s : State) (f : Flags) : (s.raiseFcsr f).hart.vec = s.hart.vec := rfl
@[simp] theorem State.raiseFcsr_hart_v (s : State) (f : Flags) : (s.raiseFcsr f).hart.v = s.hart.v := rfl
@[simp] theorem State.raiseFcsr_hart_p (s : State) (f : Flags) : (s.raiseFcsr f).hart.p = s.hart.p := rfl
@[simp] theorem State.raiseFcsr_hart_rb0 (s : State) (f : Flags) : (s.raiseFcsr f).hart.rb0 = s.hart.rb0 := rfl
@[simp] theorem State.raiseFcsr_hart_pavilions (s : State) (f : Flags) : (s.raiseFcsr f).hart.pavilions = s.hart.pavilions := rfl
@[simp] theorem State.raiseFcsr_hart_pavSet (s : State) (f : Flags) : (s.raiseFcsr f).hart.pavSet = s.hart.pavSet := rfl
@[simp] theorem State.raiseFcsr_hart_detm (s : State) (f : Flags) : (s.raiseFcsr f).hart.detm = s.hart.detm := rfl
@[simp] theorem State.raiseFcsr_hart_taint (s : State) (f : Flags) : (s.raiseFcsr f).hart.taint = s.hart.taint := rfl
@[simp] theorem State.raiseFcsr_hart_mat (s : State) (f : Flags) : (s.raiseFcsr f).hart.mat = s.hart.mat := rfl
@[simp] theorem State.raiseFcsr_hart_streams (s : State) (f : Flags) : (s.raiseFcsr f).hart.streams = s.hart.streams := rfl
@[simp] theorem State.raiseFcsr_hart_y (s : State) (f : Flags) : (s.raiseFcsr f).hart.y = s.hart.y := rfl
@[simp] theorem State.raiseFcsr_hart_engine (s : State) (f : Flags) : (s.raiseFcsr f).hart.engine = s.hart.engine := rfl
@[simp] theorem State.raiseFcsr_hart_counts (s : State) (f : Flags) : (s.raiseFcsr f).hart.counts = s.hart.counts := rfl
@[simp] theorem State.raiseFcsr_hart_tlb (s : State) (f : Flags) : (s.raiseFcsr f).hart.tlb = s.hart.tlb := rfl
@[simp] theorem State.raiseFcsr_hart_fetchPin (s : State) (f : Flags) : (s.raiseFcsr f).hart.fetchPin = s.hart.fetchPin := rfl
@[simp] theorem State.raiseFcsr_hart_tfencing (s : State) (f : Flags) : (s.raiseFcsr f).hart.tfencing = s.hart.tfencing := rfl
@[simp] theorem State.raiseFcsr_hart_inWfi (s : State) (f : Flags) : (s.raiseFcsr f).hart.inWfi = s.hart.inWfi := rfl
@[simp] theorem State.raiseFcsr_hart_passed (s : State) (f : Flags) : (s.raiseFcsr f).hart.passed = s.hart.passed := rfl
@[simp] theorem State.raiseFcsr_hart_preempt (s : State) (f : Flags) : (s.raiseFcsr f).hart.preempt = s.hart.preempt := rfl
@[simp] theorem State.raiseFcsr_hart_srfSeen (s : State) (f : Flags) : (s.raiseFcsr f).hart.srfSeen = s.hart.srfSeen := rfl
@[simp] theorem State.raiseFcsr_hart_stopped (s : State) (f : Flags) : (s.raiseFcsr f).hart.stopped = s.hart.stopped := rfl
@[simp] theorem State.raiseFcsr_hart_load (s : State) (f : Flags) : (s.raiseFcsr f).hart.load = s.hart.load := rfl
@[simp] theorem State.raiseFcsr_hart_edge (s : State) (f : Flags) : (s.raiseFcsr f).hart.edge = s.hart.edge := rfl
@[simp] theorem State.raiseFcsr_hart_held (s : State) (f : Flags) : (s.raiseFcsr f).hart.held = s.hart.held := rfl
@[simp] theorem State.raiseFcsr_hart_ahead (s : State) (f : Flags) : (s.raiseFcsr f).hart.ahead = s.hart.ahead := rfl
@[simp] theorem State.raiseFcsr_hart_early (s : State) (f : Flags) : (s.raiseFcsr f).hart.early = s.hart.early := rfl
@[simp] theorem State.raiseFcsr_hart_kept (s : State) (f : Flags) : (s.raiseFcsr f).hart.kept = s.hart.kept := rfl
@[simp] theorem State.raiseFcsr_hart_prov (s : State) (f : Flags) : (s.raiseFcsr f).hart.prov = s.hart.prov := rfl
@[simp] theorem State.raiseFcsr_hart_fcsr (s : State) (f : Flags) : (s.raiseFcsr f).hart.fcsr = { s.hart.fcsr with flags := s.hart.fcsr.flags ||| f } := rfl

/-! ### VTYPE's sticky bits -/

@[simp] theorem State.raise_core (s : State) (r : Raised) : (s.raise r).core = s.core := rfl
@[simp] theorem State.raise_parked (s : State) (r : Raised) : (s.raise r).parked = s.parked := rfl
@[simp] theorem State.raise_cores (s : State) (r : Raised) : (s.raise r).cores = s.cores := rfl
@[simp] theorem State.raise_dev (s : State) (r : Raised) : (s.raise r).dev = s.dev := rfl
@[simp] theorem State.raise_agenda (s : State) (r : Raised) : (s.raise r).agenda = s.agenda := rfl
@[simp] theorem State.raise_pause (s : State) (r : Raised) : (s.raise r).pause = s.pause := rfl
@[simp] theorem State.raise_hart_ident (s : State) (r : Raised) : (s.raise r).hart.ident = s.hart.ident := rfl
@[simp] theorem State.raise_hart_status (s : State) (r : Raised) : (s.raise r).hart.status = s.hart.status := rfl
@[simp] theorem State.raise_hart_ctx (s : State) (r : Raised) : (s.raise r).hart.ctx = s.hart.ctx := rfl
@[simp] theorem State.raise_hart_root (s : State) (r : Raised) : (s.raise r).hart.root = s.hart.root := rfl
@[simp] theorem State.raise_hart_x (s : State) (r : Raised) : (s.raise r).hart.x = s.hart.x := rfl
@[simp] theorem State.raise_hart_pc (s : State) (r : Raised) : (s.raise r).hart.pc = s.hart.pc := rfl
@[simp] theorem State.raise_hart_priv (s : State) (r : Raised) : (s.raise r).hart.priv = s.hart.priv := rfl
@[simp] theorem State.raise_hart_fcsr (s : State) (r : Raised) : (s.raise r).hart.fcsr = s.hart.fcsr := rfl
@[simp] theorem State.raise_hart_loops (s : State) (r : Raised) : (s.raise r).hart.loops = s.hart.loops := rfl
@[simp] theorem State.raise_hart_trap (s : State) (r : Raised) : (s.raise r).hart.trap = s.hart.trap := rfl
@[simp] theorem State.raise_hart_v (s : State) (r : Raised) : (s.raise r).hart.v = s.hart.v := rfl
@[simp] theorem State.raise_hart_p (s : State) (r : Raised) : (s.raise r).hart.p = s.hart.p := rfl
@[simp] theorem State.raise_hart_rb0 (s : State) (r : Raised) : (s.raise r).hart.rb0 = s.hart.rb0 := rfl
@[simp] theorem State.raise_hart_pavilions (s : State) (r : Raised) : (s.raise r).hart.pavilions = s.hart.pavilions := rfl
@[simp] theorem State.raise_hart_pavSet (s : State) (r : Raised) : (s.raise r).hart.pavSet = s.hart.pavSet := rfl
@[simp] theorem State.raise_hart_detm (s : State) (r : Raised) : (s.raise r).hart.detm = s.hart.detm := rfl
@[simp] theorem State.raise_hart_taint (s : State) (r : Raised) : (s.raise r).hart.taint = s.hart.taint := rfl
@[simp] theorem State.raise_hart_mat (s : State) (r : Raised) : (s.raise r).hart.mat = s.hart.mat := rfl
@[simp] theorem State.raise_hart_streams (s : State) (r : Raised) : (s.raise r).hart.streams = s.hart.streams := rfl
@[simp] theorem State.raise_hart_y (s : State) (r : Raised) : (s.raise r).hart.y = s.hart.y := rfl
@[simp] theorem State.raise_hart_engine (s : State) (r : Raised) : (s.raise r).hart.engine = s.hart.engine := rfl
@[simp] theorem State.raise_hart_counts (s : State) (r : Raised) : (s.raise r).hart.counts = s.hart.counts := rfl
@[simp] theorem State.raise_hart_tlb (s : State) (r : Raised) : (s.raise r).hart.tlb = s.hart.tlb := rfl
@[simp] theorem State.raise_hart_fetchPin (s : State) (r : Raised) : (s.raise r).hart.fetchPin = s.hart.fetchPin := rfl
@[simp] theorem State.raise_hart_tfencing (s : State) (r : Raised) : (s.raise r).hart.tfencing = s.hart.tfencing := rfl
@[simp] theorem State.raise_hart_inWfi (s : State) (r : Raised) : (s.raise r).hart.inWfi = s.hart.inWfi := rfl
@[simp] theorem State.raise_hart_passed (s : State) (r : Raised) : (s.raise r).hart.passed = s.hart.passed := rfl
@[simp] theorem State.raise_hart_preempt (s : State) (r : Raised) : (s.raise r).hart.preempt = s.hart.preempt := rfl
@[simp] theorem State.raise_hart_srfSeen (s : State) (r : Raised) : (s.raise r).hart.srfSeen = s.hart.srfSeen := rfl
@[simp] theorem State.raise_hart_stopped (s : State) (r : Raised) : (s.raise r).hart.stopped = s.hart.stopped := rfl
@[simp] theorem State.raise_hart_load (s : State) (r : Raised) : (s.raise r).hart.load = s.hart.load := rfl
@[simp] theorem State.raise_hart_edge (s : State) (r : Raised) : (s.raise r).hart.edge = s.hart.edge := rfl
@[simp] theorem State.raise_hart_held (s : State) (r : Raised) : (s.raise r).hart.held = s.hart.held := rfl
@[simp] theorem State.raise_hart_ahead (s : State) (r : Raised) : (s.raise r).hart.ahead = s.hart.ahead := rfl
@[simp] theorem State.raise_hart_early (s : State) (r : Raised) : (s.raise r).hart.early = s.hart.early := rfl
@[simp] theorem State.raise_hart_kept (s : State) (r : Raised) : (s.raise r).hart.kept = s.hart.kept := rfl
@[simp] theorem State.raise_hart_prov (s : State) (r : Raised) : (s.raise r).hart.prov = s.hart.prov := rfl
@[simp] theorem State.raise_hart_vec (s : State) (r : Raised) : (s.raise r).hart.vec = { s.hart.vec with vtype := s.hart.vec.vtype.raise r } := rfl

/-! ### markSeen -/

@[simp] theorem State.markSeen_core (s : State) (b : Bool) : (s.markSeen b).core = s.core := by unfold State.markSeen; split <;> rfl
@[simp] theorem State.markSeen_parked (s : State) (b : Bool) : (s.markSeen b).parked = s.parked := by unfold State.markSeen; split <;> rfl
@[simp] theorem State.markSeen_cores (s : State) (b : Bool) : (s.markSeen b).cores = s.cores := by unfold State.markSeen; split <;> rfl
@[simp] theorem State.markSeen_dev (s : State) (b : Bool) : (s.markSeen b).dev = s.dev := by unfold State.markSeen; split <;> rfl
@[simp] theorem State.markSeen_agenda (s : State) (b : Bool) : (s.markSeen b).agenda = s.agenda := by unfold State.markSeen; split <;> rfl
@[simp] theorem State.markSeen_pause (s : State) (b : Bool) : (s.markSeen b).pause = s.pause := by unfold State.markSeen; split <;> rfl
@[simp] theorem State.markSeen_hart_ident (s : State) (b : Bool) : (s.markSeen b).hart.ident = s.hart.ident := by unfold State.markSeen; split <;> rfl
@[simp] theorem State.markSeen_hart_status (s : State) (b : Bool) : (s.markSeen b).hart.status = s.hart.status := by unfold State.markSeen; split <;> rfl
@[simp] theorem State.markSeen_hart_ctx (s : State) (b : Bool) : (s.markSeen b).hart.ctx = s.hart.ctx := by unfold State.markSeen; split <;> rfl
@[simp] theorem State.markSeen_hart_root (s : State) (b : Bool) : (s.markSeen b).hart.root = s.hart.root := by unfold State.markSeen; split <;> rfl
@[simp] theorem State.markSeen_hart_x (s : State) (b : Bool) : (s.markSeen b).hart.x = s.hart.x := by unfold State.markSeen; split <;> rfl
@[simp] theorem State.markSeen_hart_pc (s : State) (b : Bool) : (s.markSeen b).hart.pc = s.hart.pc := by unfold State.markSeen; split <;> rfl
@[simp] theorem State.markSeen_hart_priv (s : State) (b : Bool) : (s.markSeen b).hart.priv = s.hart.priv := by unfold State.markSeen; split <;> rfl
@[simp] theorem State.markSeen_hart_fcsr (s : State) (b : Bool) : (s.markSeen b).hart.fcsr = s.hart.fcsr := by unfold State.markSeen; split <;> rfl
@[simp] theorem State.markSeen_hart_loops (s : State) (b : Bool) : (s.markSeen b).hart.loops = s.hart.loops := by unfold State.markSeen; split <;> rfl
@[simp] theorem State.markSeen_hart_trap (s : State) (b : Bool) : (s.markSeen b).hart.trap = s.hart.trap := by unfold State.markSeen; split <;> rfl
@[simp] theorem State.markSeen_hart_vec (s : State) (b : Bool) : (s.markSeen b).hart.vec = s.hart.vec := by unfold State.markSeen; split <;> rfl
@[simp] theorem State.markSeen_hart_v (s : State) (b : Bool) : (s.markSeen b).hart.v = s.hart.v := by unfold State.markSeen; split <;> rfl
@[simp] theorem State.markSeen_hart_p (s : State) (b : Bool) : (s.markSeen b).hart.p = s.hart.p := by unfold State.markSeen; split <;> rfl
@[simp] theorem State.markSeen_hart_rb0 (s : State) (b : Bool) : (s.markSeen b).hart.rb0 = s.hart.rb0 := by unfold State.markSeen; split <;> rfl
@[simp] theorem State.markSeen_hart_pavilions (s : State) (b : Bool) : (s.markSeen b).hart.pavilions = s.hart.pavilions := by unfold State.markSeen; split <;> rfl
@[simp] theorem State.markSeen_hart_pavSet (s : State) (b : Bool) : (s.markSeen b).hart.pavSet = s.hart.pavSet := by unfold State.markSeen; split <;> rfl
@[simp] theorem State.markSeen_hart_detm (s : State) (b : Bool) : (s.markSeen b).hart.detm = s.hart.detm := by unfold State.markSeen; split <;> rfl
@[simp] theorem State.markSeen_hart_mat (s : State) (b : Bool) : (s.markSeen b).hart.mat = s.hart.mat := by unfold State.markSeen; split <;> rfl
@[simp] theorem State.markSeen_hart_streams (s : State) (b : Bool) : (s.markSeen b).hart.streams = s.hart.streams := by unfold State.markSeen; split <;> rfl
@[simp] theorem State.markSeen_hart_y (s : State) (b : Bool) : (s.markSeen b).hart.y = s.hart.y := by unfold State.markSeen; split <;> rfl
@[simp] theorem State.markSeen_hart_engine (s : State) (b : Bool) : (s.markSeen b).hart.engine = s.hart.engine := by unfold State.markSeen; split <;> rfl
@[simp] theorem State.markSeen_hart_counts (s : State) (b : Bool) : (s.markSeen b).hart.counts = s.hart.counts := by unfold State.markSeen; split <;> rfl
@[simp] theorem State.markSeen_hart_tlb (s : State) (b : Bool) : (s.markSeen b).hart.tlb = s.hart.tlb := by unfold State.markSeen; split <;> rfl
@[simp] theorem State.markSeen_hart_fetchPin (s : State) (b : Bool) : (s.markSeen b).hart.fetchPin = s.hart.fetchPin := by unfold State.markSeen; split <;> rfl
@[simp] theorem State.markSeen_hart_tfencing (s : State) (b : Bool) : (s.markSeen b).hart.tfencing = s.hart.tfencing := by unfold State.markSeen; split <;> rfl
@[simp] theorem State.markSeen_hart_inWfi (s : State) (b : Bool) : (s.markSeen b).hart.inWfi = s.hart.inWfi := by unfold State.markSeen; split <;> rfl
@[simp] theorem State.markSeen_hart_passed (s : State) (b : Bool) : (s.markSeen b).hart.passed = s.hart.passed := by unfold State.markSeen; split <;> rfl
@[simp] theorem State.markSeen_hart_preempt (s : State) (b : Bool) : (s.markSeen b).hart.preempt = s.hart.preempt := by unfold State.markSeen; split <;> rfl
@[simp] theorem State.markSeen_hart_srfSeen (s : State) (b : Bool) : (s.markSeen b).hart.srfSeen = s.hart.srfSeen := by unfold State.markSeen; split <;> rfl
@[simp] theorem State.markSeen_hart_stopped (s : State) (b : Bool) : (s.markSeen b).hart.stopped = s.hart.stopped := by unfold State.markSeen; split <;> rfl
@[simp] theorem State.markSeen_hart_load (s : State) (b : Bool) : (s.markSeen b).hart.load = s.hart.load := by unfold State.markSeen; split <;> rfl
@[simp] theorem State.markSeen_hart_edge (s : State) (b : Bool) : (s.markSeen b).hart.edge = s.hart.edge := by unfold State.markSeen; split <;> rfl
@[simp] theorem State.markSeen_hart_held (s : State) (b : Bool) : (s.markSeen b).hart.held = s.hart.held := by unfold State.markSeen; split <;> rfl
@[simp] theorem State.markSeen_hart_ahead (s : State) (b : Bool) : (s.markSeen b).hart.ahead = s.hart.ahead := by unfold State.markSeen; split <;> rfl
@[simp] theorem State.markSeen_hart_early (s : State) (b : Bool) : (s.markSeen b).hart.early = s.hart.early := by unfold State.markSeen; split <;> rfl
@[simp] theorem State.markSeen_hart_kept (s : State) (b : Bool) : (s.markSeen b).hart.kept = s.hart.kept := by unfold State.markSeen; split <;> rfl
@[simp] theorem State.markSeen_hart_prov (s : State) (b : Bool) : (s.markSeen b).hart.prov = s.hart.prov := by unfold State.markSeen; split <;> rfl

/-! ### markEscape -/

@[simp] theorem State.markEscape_core (s : State) (b : Bool) : (s.markEscape b).core = s.core := by unfold State.markEscape; split <;> rfl
@[simp] theorem State.markEscape_parked (s : State) (b : Bool) : (s.markEscape b).parked = s.parked := by unfold State.markEscape; split <;> rfl
@[simp] theorem State.markEscape_cores (s : State) (b : Bool) : (s.markEscape b).cores = s.cores := by unfold State.markEscape; split <;> rfl
@[simp] theorem State.markEscape_dev (s : State) (b : Bool) : (s.markEscape b).dev = s.dev := by unfold State.markEscape; split <;> rfl
@[simp] theorem State.markEscape_agenda (s : State) (b : Bool) : (s.markEscape b).agenda = s.agenda := by unfold State.markEscape; split <;> rfl
@[simp] theorem State.markEscape_pause (s : State) (b : Bool) : (s.markEscape b).pause = s.pause := by unfold State.markEscape; split <;> rfl
@[simp] theorem State.markEscape_hart_ident (s : State) (b : Bool) : (s.markEscape b).hart.ident = s.hart.ident := by unfold State.markEscape; split <;> rfl
@[simp] theorem State.markEscape_hart_status (s : State) (b : Bool) : (s.markEscape b).hart.status = s.hart.status := by unfold State.markEscape; split <;> rfl
@[simp] theorem State.markEscape_hart_ctx (s : State) (b : Bool) : (s.markEscape b).hart.ctx = s.hart.ctx := by unfold State.markEscape; split <;> rfl
@[simp] theorem State.markEscape_hart_root (s : State) (b : Bool) : (s.markEscape b).hart.root = s.hart.root := by unfold State.markEscape; split <;> rfl
@[simp] theorem State.markEscape_hart_x (s : State) (b : Bool) : (s.markEscape b).hart.x = s.hart.x := by unfold State.markEscape; split <;> rfl
@[simp] theorem State.markEscape_hart_pc (s : State) (b : Bool) : (s.markEscape b).hart.pc = s.hart.pc := by unfold State.markEscape; split <;> rfl
@[simp] theorem State.markEscape_hart_priv (s : State) (b : Bool) : (s.markEscape b).hart.priv = s.hart.priv := by unfold State.markEscape; split <;> rfl
@[simp] theorem State.markEscape_hart_fcsr (s : State) (b : Bool) : (s.markEscape b).hart.fcsr = s.hart.fcsr := by unfold State.markEscape; split <;> rfl
@[simp] theorem State.markEscape_hart_loops (s : State) (b : Bool) : (s.markEscape b).hart.loops = s.hart.loops := by unfold State.markEscape; split <;> rfl
@[simp] theorem State.markEscape_hart_trap (s : State) (b : Bool) : (s.markEscape b).hart.trap = s.hart.trap := by unfold State.markEscape; split <;> rfl
@[simp] theorem State.markEscape_hart_vec (s : State) (b : Bool) : (s.markEscape b).hart.vec = s.hart.vec := by unfold State.markEscape; split <;> rfl
@[simp] theorem State.markEscape_hart_v (s : State) (b : Bool) : (s.markEscape b).hart.v = s.hart.v := by unfold State.markEscape; split <;> rfl
@[simp] theorem State.markEscape_hart_p (s : State) (b : Bool) : (s.markEscape b).hart.p = s.hart.p := by unfold State.markEscape; split <;> rfl
@[simp] theorem State.markEscape_hart_rb0 (s : State) (b : Bool) : (s.markEscape b).hart.rb0 = s.hart.rb0 := by unfold State.markEscape; split <;> rfl
@[simp] theorem State.markEscape_hart_pavilions (s : State) (b : Bool) : (s.markEscape b).hart.pavilions = s.hart.pavilions := by unfold State.markEscape; split <;> rfl
@[simp] theorem State.markEscape_hart_pavSet (s : State) (b : Bool) : (s.markEscape b).hart.pavSet = s.hart.pavSet := by unfold State.markEscape; split <;> rfl
@[simp] theorem State.markEscape_hart_detm (s : State) (b : Bool) : (s.markEscape b).hart.detm = s.hart.detm := by unfold State.markEscape; split <;> rfl
@[simp] theorem State.markEscape_hart_mat (s : State) (b : Bool) : (s.markEscape b).hart.mat = s.hart.mat := by unfold State.markEscape; split <;> rfl
@[simp] theorem State.markEscape_hart_streams (s : State) (b : Bool) : (s.markEscape b).hart.streams = s.hart.streams := by unfold State.markEscape; split <;> rfl
@[simp] theorem State.markEscape_hart_y (s : State) (b : Bool) : (s.markEscape b).hart.y = s.hart.y := by unfold State.markEscape; split <;> rfl
@[simp] theorem State.markEscape_hart_engine (s : State) (b : Bool) : (s.markEscape b).hart.engine = s.hart.engine := by unfold State.markEscape; split <;> rfl
@[simp] theorem State.markEscape_hart_counts (s : State) (b : Bool) : (s.markEscape b).hart.counts = s.hart.counts := by unfold State.markEscape; split <;> rfl
@[simp] theorem State.markEscape_hart_tlb (s : State) (b : Bool) : (s.markEscape b).hart.tlb = s.hart.tlb := by unfold State.markEscape; split <;> rfl
@[simp] theorem State.markEscape_hart_fetchPin (s : State) (b : Bool) : (s.markEscape b).hart.fetchPin = s.hart.fetchPin := by unfold State.markEscape; split <;> rfl
@[simp] theorem State.markEscape_hart_tfencing (s : State) (b : Bool) : (s.markEscape b).hart.tfencing = s.hart.tfencing := by unfold State.markEscape; split <;> rfl
@[simp] theorem State.markEscape_hart_inWfi (s : State) (b : Bool) : (s.markEscape b).hart.inWfi = s.hart.inWfi := by unfold State.markEscape; split <;> rfl
@[simp] theorem State.markEscape_hart_passed (s : State) (b : Bool) : (s.markEscape b).hart.passed = s.hart.passed := by unfold State.markEscape; split <;> rfl
@[simp] theorem State.markEscape_hart_preempt (s : State) (b : Bool) : (s.markEscape b).hart.preempt = s.hart.preempt := by unfold State.markEscape; split <;> rfl
@[simp] theorem State.markEscape_hart_srfSeen (s : State) (b : Bool) : (s.markEscape b).hart.srfSeen = s.hart.srfSeen := by unfold State.markEscape; split <;> rfl
@[simp] theorem State.markEscape_hart_stopped (s : State) (b : Bool) : (s.markEscape b).hart.stopped = s.hart.stopped := by unfold State.markEscape; split <;> rfl
@[simp] theorem State.markEscape_hart_load (s : State) (b : Bool) : (s.markEscape b).hart.load = s.hart.load := by unfold State.markEscape; split <;> rfl
@[simp] theorem State.markEscape_hart_edge (s : State) (b : Bool) : (s.markEscape b).hart.edge = s.hart.edge := by unfold State.markEscape; split <;> rfl
@[simp] theorem State.markEscape_hart_held (s : State) (b : Bool) : (s.markEscape b).hart.held = s.hart.held := by unfold State.markEscape; split <;> rfl
@[simp] theorem State.markEscape_hart_ahead (s : State) (b : Bool) : (s.markEscape b).hart.ahead = s.hart.ahead := by unfold State.markEscape; split <;> rfl
@[simp] theorem State.markEscape_hart_early (s : State) (b : Bool) : (s.markEscape b).hart.early = s.hart.early := by unfold State.markEscape; split <;> rfl
@[simp] theorem State.markEscape_hart_kept (s : State) (b : Bool) : (s.markEscape b).hart.kept = s.hart.kept := by unfold State.markEscape; split <;> rfl
@[simp] theorem State.markEscape_hart_prov (s : State) (b : Bool) : (s.markEscape b).hart.prov = s.hart.prov := by unfold State.markEscape; split <;> rfl

/-! ### markRead -/

@[simp] theorem State.markRead_core (s : State) (b : Bool) : (s.markRead b).core = s.core := by unfold State.markRead; split <;> rfl
@[simp] theorem State.markRead_parked (s : State) (b : Bool) : (s.markRead b).parked = s.parked := by unfold State.markRead; split <;> rfl
@[simp] theorem State.markRead_cores (s : State) (b : Bool) : (s.markRead b).cores = s.cores := by unfold State.markRead; split <;> rfl
@[simp] theorem State.markRead_dev (s : State) (b : Bool) : (s.markRead b).dev = s.dev := by unfold State.markRead; split <;> rfl
@[simp] theorem State.markRead_agenda (s : State) (b : Bool) : (s.markRead b).agenda = s.agenda := by unfold State.markRead; split <;> rfl
@[simp] theorem State.markRead_pause (s : State) (b : Bool) : (s.markRead b).pause = s.pause := by unfold State.markRead; split <;> rfl
@[simp] theorem State.markRead_hart_ident (s : State) (b : Bool) : (s.markRead b).hart.ident = s.hart.ident := by unfold State.markRead; split <;> rfl
@[simp] theorem State.markRead_hart_status (s : State) (b : Bool) : (s.markRead b).hart.status = s.hart.status := by unfold State.markRead; split <;> rfl
@[simp] theorem State.markRead_hart_ctx (s : State) (b : Bool) : (s.markRead b).hart.ctx = s.hart.ctx := by unfold State.markRead; split <;> rfl
@[simp] theorem State.markRead_hart_root (s : State) (b : Bool) : (s.markRead b).hart.root = s.hart.root := by unfold State.markRead; split <;> rfl
@[simp] theorem State.markRead_hart_x (s : State) (b : Bool) : (s.markRead b).hart.x = s.hart.x := by unfold State.markRead; split <;> rfl
@[simp] theorem State.markRead_hart_pc (s : State) (b : Bool) : (s.markRead b).hart.pc = s.hart.pc := by unfold State.markRead; split <;> rfl
@[simp] theorem State.markRead_hart_priv (s : State) (b : Bool) : (s.markRead b).hart.priv = s.hart.priv := by unfold State.markRead; split <;> rfl
@[simp] theorem State.markRead_hart_fcsr (s : State) (b : Bool) : (s.markRead b).hart.fcsr = s.hart.fcsr := by unfold State.markRead; split <;> rfl
@[simp] theorem State.markRead_hart_loops (s : State) (b : Bool) : (s.markRead b).hart.loops = s.hart.loops := by unfold State.markRead; split <;> rfl
@[simp] theorem State.markRead_hart_trap (s : State) (b : Bool) : (s.markRead b).hart.trap = s.hart.trap := by unfold State.markRead; split <;> rfl
@[simp] theorem State.markRead_hart_vec (s : State) (b : Bool) : (s.markRead b).hart.vec = s.hart.vec := by unfold State.markRead; split <;> rfl
@[simp] theorem State.markRead_hart_v (s : State) (b : Bool) : (s.markRead b).hart.v = s.hart.v := by unfold State.markRead; split <;> rfl
@[simp] theorem State.markRead_hart_p (s : State) (b : Bool) : (s.markRead b).hart.p = s.hart.p := by unfold State.markRead; split <;> rfl
@[simp] theorem State.markRead_hart_rb0 (s : State) (b : Bool) : (s.markRead b).hart.rb0 = s.hart.rb0 := by unfold State.markRead; split <;> rfl
@[simp] theorem State.markRead_hart_pavilions (s : State) (b : Bool) : (s.markRead b).hart.pavilions = s.hart.pavilions := by unfold State.markRead; split <;> rfl
@[simp] theorem State.markRead_hart_pavSet (s : State) (b : Bool) : (s.markRead b).hart.pavSet = s.hart.pavSet := by unfold State.markRead; split <;> rfl
@[simp] theorem State.markRead_hart_detm (s : State) (b : Bool) : (s.markRead b).hart.detm = s.hart.detm := by unfold State.markRead; split <;> rfl
@[simp] theorem State.markRead_hart_mat (s : State) (b : Bool) : (s.markRead b).hart.mat = s.hart.mat := by unfold State.markRead; split <;> rfl
@[simp] theorem State.markRead_hart_streams (s : State) (b : Bool) : (s.markRead b).hart.streams = s.hart.streams := by unfold State.markRead; split <;> rfl
@[simp] theorem State.markRead_hart_y (s : State) (b : Bool) : (s.markRead b).hart.y = s.hart.y := by unfold State.markRead; split <;> rfl
@[simp] theorem State.markRead_hart_engine (s : State) (b : Bool) : (s.markRead b).hart.engine = s.hart.engine := by unfold State.markRead; split <;> rfl
@[simp] theorem State.markRead_hart_counts (s : State) (b : Bool) : (s.markRead b).hart.counts = s.hart.counts := by unfold State.markRead; split <;> rfl
@[simp] theorem State.markRead_hart_tlb (s : State) (b : Bool) : (s.markRead b).hart.tlb = s.hart.tlb := by unfold State.markRead; split <;> rfl
@[simp] theorem State.markRead_hart_fetchPin (s : State) (b : Bool) : (s.markRead b).hart.fetchPin = s.hart.fetchPin := by unfold State.markRead; split <;> rfl
@[simp] theorem State.markRead_hart_tfencing (s : State) (b : Bool) : (s.markRead b).hart.tfencing = s.hart.tfencing := by unfold State.markRead; split <;> rfl
@[simp] theorem State.markRead_hart_inWfi (s : State) (b : Bool) : (s.markRead b).hart.inWfi = s.hart.inWfi := by unfold State.markRead; split <;> rfl
@[simp] theorem State.markRead_hart_passed (s : State) (b : Bool) : (s.markRead b).hart.passed = s.hart.passed := by unfold State.markRead; split <;> rfl
@[simp] theorem State.markRead_hart_preempt (s : State) (b : Bool) : (s.markRead b).hart.preempt = s.hart.preempt := by unfold State.markRead; split <;> rfl
@[simp] theorem State.markRead_hart_srfSeen (s : State) (b : Bool) : (s.markRead b).hart.srfSeen = s.hart.srfSeen := by unfold State.markRead; split <;> rfl
@[simp] theorem State.markRead_hart_stopped (s : State) (b : Bool) : (s.markRead b).hart.stopped = s.hart.stopped := by unfold State.markRead; split <;> rfl
@[simp] theorem State.markRead_hart_load (s : State) (b : Bool) : (s.markRead b).hart.load = s.hart.load := by unfold State.markRead; split <;> rfl
@[simp] theorem State.markRead_hart_edge (s : State) (b : Bool) : (s.markRead b).hart.edge = s.hart.edge := by unfold State.markRead; split <;> rfl
@[simp] theorem State.markRead_hart_held (s : State) (b : Bool) : (s.markRead b).hart.held = s.hart.held := by unfold State.markRead; split <;> rfl
@[simp] theorem State.markRead_hart_ahead (s : State) (b : Bool) : (s.markRead b).hart.ahead = s.hart.ahead := by unfold State.markRead; split <;> rfl
@[simp] theorem State.markRead_hart_early (s : State) (b : Bool) : (s.markRead b).hart.early = s.hart.early := by unfold State.markRead; split <;> rfl
@[simp] theorem State.markRead_hart_kept (s : State) (b : Bool) : (s.markRead b).hart.kept = s.hart.kept := by unfold State.markRead; split <;> rfl
@[simp] theorem State.markRead_hart_prov (s : State) (b : Bool) : (s.markRead b).hart.prov = s.hart.prov := by unfold State.markRead; split <;> rfl

/-! ### The count of one retirement -/

@[simp] theorem Hart.count_ident (h : Hart) (p : Priv) (c : Nat) : (h.count p c).ident = h.ident := by cases p <;> rfl
@[simp] theorem Hart.count_status (h : Hart) (p : Priv) (c : Nat) : (h.count p c).status = h.status := by cases p <;> rfl
@[simp] theorem Hart.count_ctx (h : Hart) (p : Priv) (c : Nat) : (h.count p c).ctx = h.ctx := by cases p <;> rfl
@[simp] theorem Hart.count_root (h : Hart) (p : Priv) (c : Nat) : (h.count p c).root = h.root := by cases p <;> rfl
@[simp] theorem Hart.count_x (h : Hart) (p : Priv) (c : Nat) : (h.count p c).x = h.x := by cases p <;> rfl
@[simp] theorem Hart.count_pc (h : Hart) (p : Priv) (c : Nat) : (h.count p c).pc = h.pc := by cases p <;> rfl
@[simp] theorem Hart.count_priv (h : Hart) (p : Priv) (c : Nat) : (h.count p c).priv = h.priv := by cases p <;> rfl
@[simp] theorem Hart.count_fcsr (h : Hart) (p : Priv) (c : Nat) : (h.count p c).fcsr = h.fcsr := by cases p <;> rfl
@[simp] theorem Hart.count_loops (h : Hart) (p : Priv) (c : Nat) : (h.count p c).loops = h.loops := by cases p <;> rfl
@[simp] theorem Hart.count_vec (h : Hart) (p : Priv) (c : Nat) : (h.count p c).vec = h.vec := by cases p <;> rfl
@[simp] theorem Hart.count_v (h : Hart) (p : Priv) (c : Nat) : (h.count p c).v = h.v := by cases p <;> rfl
@[simp] theorem Hart.count_p (h : Hart) (p : Priv) (c : Nat) : (h.count p c).p = h.p := by cases p <;> rfl
@[simp] theorem Hart.count_rb0 (h : Hart) (p : Priv) (c : Nat) : (h.count p c).rb0 = h.rb0 := by cases p <;> rfl
@[simp] theorem Hart.count_pavilions (h : Hart) (p : Priv) (c : Nat) : (h.count p c).pavilions = h.pavilions := by cases p <;> rfl
@[simp] theorem Hart.count_pavSet (h : Hart) (p : Priv) (c : Nat) : (h.count p c).pavSet = h.pavSet := by cases p <;> rfl
@[simp] theorem Hart.count_detm (h : Hart) (p : Priv) (c : Nat) : (h.count p c).detm = h.detm := by cases p <;> rfl
@[simp] theorem Hart.count_taint (h : Hart) (p : Priv) (c : Nat) : (h.count p c).taint = h.taint := by cases p <;> rfl
@[simp] theorem Hart.count_mat (h : Hart) (p : Priv) (c : Nat) : (h.count p c).mat = h.mat := by cases p <;> rfl
@[simp] theorem Hart.count_streams (h : Hart) (p : Priv) (c : Nat) : (h.count p c).streams = h.streams := by cases p <;> rfl
@[simp] theorem Hart.count_y (h : Hart) (p : Priv) (c : Nat) : (h.count p c).y = h.y := by cases p <;> rfl
@[simp] theorem Hart.count_engine (h : Hart) (p : Priv) (c : Nat) : (h.count p c).engine = h.engine := by cases p <;> rfl
@[simp] theorem Hart.count_tlb (h : Hart) (p : Priv) (c : Nat) : (h.count p c).tlb = h.tlb := by cases p <;> rfl
@[simp] theorem Hart.count_fetchPin (h : Hart) (p : Priv) (c : Nat) : (h.count p c).fetchPin = h.fetchPin := by cases p <;> rfl
@[simp] theorem Hart.count_tfencing (h : Hart) (p : Priv) (c : Nat) : (h.count p c).tfencing = h.tfencing := by cases p <;> rfl
@[simp] theorem Hart.count_inWfi (h : Hart) (p : Priv) (c : Nat) : (h.count p c).inWfi = h.inWfi := by cases p <;> rfl
@[simp] theorem Hart.count_preempt (h : Hart) (p : Priv) (c : Nat) : (h.count p c).preempt = h.preempt := by cases p <;> rfl
@[simp] theorem Hart.count_srfSeen (h : Hart) (p : Priv) (c : Nat) : (h.count p c).srfSeen = h.srfSeen := by cases p <;> rfl
@[simp] theorem Hart.count_load (h : Hart) (p : Priv) (c : Nat) : (h.count p c).load = h.load := by cases p <;> rfl
@[simp] theorem Hart.count_edge (h : Hart) (p : Priv) (c : Nat) : (h.count p c).edge = h.edge := by cases p <;> rfl
@[simp] theorem Hart.count_ahead (h : Hart) (p : Priv) (c : Nat) : (h.count p c).ahead = h.ahead := by cases p <;> rfl
@[simp] theorem Hart.count_prov (h : Hart) (p : Priv) (c : Nat) : (h.count p c).prov = h.prov := by cases p <;> rfl
@[simp] theorem Hart.count_stopped (h : Hart) (p : Priv) (c : Nat) : (h.count p c).stopped = false := by cases p <;> rfl
@[simp] theorem Hart.count_passed (h : Hart) (p : Priv) (c : Nat) : (h.count p c).passed = false := by cases p <;> rfl
@[simp] theorem Hart.count_held (h : Hart) (p : Priv) (c : Nat) : (h.count p c).held = none := by cases p <;> rfl
@[simp] theorem Hart.count_early (h : Hart) (p : Priv) (c : Nat) : (h.count p c).early = [] := by cases p <;> rfl
@[simp] theorem Hart.count_kept (h : Hart) (p : Priv) (c : Nat) : (h.count p c).kept = none := by cases p <;> rfl
@[simp] theorem Hart.count_counts_instret (h : Hart) (p : Priv) (c : Nat) : (h.count p c).counts.instret = h.counts.instret + 1 := by cases p <;> rfl
theorem Hart.count_tstatus (h : Hart) (p : Priv) (c : Nat) :
    (h.count p c).trap.status = (if p = .u then h.trap.status.tick else h.trap.status) := by cases p <;> rfl
@[simp] theorem Hart.count_trap_but (h : Hart) (p : Priv) (c : Nat) (t : TStatus) :
    { (h.count p c).trap with status := t } = { h.trap with status := t } := by cases p <;> rfl
@[simp] theorem State.count_core (s : State) (p : Priv) : (s.count p).core = s.core := rfl
@[simp] theorem State.count_parked (s : State) (p : Priv) : (s.count p).parked = s.parked := rfl
@[simp] theorem State.count_cores (s : State) (p : Priv) : (s.count p).cores = s.cores := rfl
@[simp] theorem State.count_agenda (s : State) (p : Priv) : (s.count p).agenda = s.agenda := rfl
@[simp] theorem State.count_pause (s : State) (p : Priv) : (s.count p).pause = s.pause := rfl
@[simp] theorem State.count_hart (s : State) (p : Priv) : (s.count p).hart = s.hart.count p (Config.clocks s.dev.freeCount) := rfl
@[simp] theorem State.count_dev (s : State) (p : Priv) : (s.count p).dev = { s.dev with freeCount := s.dev.freeCount + 1 } := rfl

/-! ### Retirement in sequence -/

/-- What retirement in sequence is, without its case distinction. -/
theorem State.advance_eq (s : State) (n : Nat) :
    s.advance n = { s.count s.hart.priv with
      hart := { (s.count s.hart.priv).hart with
        pc := ((s.hart.loops.step s.hart.pc).2).getD (s.hart.pc + word n)
        loops := (s.hart.loops.step s.hart.pc).1
        fetchPin := if (s.hart.loops.step s.hart.pc).2.isSome then none else s.hart.fetchPin } } := by
  simp only [State.advance]
  rcases s.hart.loops.step s.hart.pc with ⟨l, _ | b⟩ <;> simp

@[simp] theorem State.advance_core (s : State) (n : Nat) : (s.advance n).core = s.core := by rw [State.advance_eq]; rfl
@[simp] theorem State.advance_parked (s : State) (n : Nat) : (s.advance n).parked = s.parked := by rw [State.advance_eq]; rfl
@[simp] theorem State.advance_cores (s : State) (n : Nat) : (s.advance n).cores = s.cores := by rw [State.advance_eq]; rfl
@[simp] theorem State.advance_agenda (s : State) (n : Nat) : (s.advance n).agenda = s.agenda := by rw [State.advance_eq]; rfl
@[simp] theorem State.advance_pause (s : State) (n : Nat) : (s.advance n).pause = s.pause := by rw [State.advance_eq]; rfl
@[simp] theorem State.advance_dev (s : State) (n : Nat) : (s.advance n).dev = { s.dev with freeCount := s.dev.freeCount + 1 } := by rw [State.advance_eq]; rfl
@[simp] theorem State.advance_hart_ident (s : State) (n : Nat) : (s.advance n).hart.ident = s.hart.ident := by rw [State.advance_eq]; simp
@[simp] theorem State.advance_hart_status (s : State) (n : Nat) : (s.advance n).hart.status = s.hart.status := by rw [State.advance_eq]; simp
@[simp] theorem State.advance_hart_ctx (s : State) (n : Nat) : (s.advance n).hart.ctx = s.hart.ctx := by rw [State.advance_eq]; simp
@[simp] theorem State.advance_hart_root (s : State) (n : Nat) : (s.advance n).hart.root = s.hart.root := by rw [State.advance_eq]; simp
@[simp] theorem State.advance_hart_x (s : State) (n : Nat) : (s.advance n).hart.x = s.hart.x := by rw [State.advance_eq]; simp
@[simp] theorem State.advance_hart_priv (s : State) (n : Nat) : (s.advance n).hart.priv = s.hart.priv := by rw [State.advance_eq]; simp
@[simp] theorem State.advance_hart_fcsr (s : State) (n : Nat) : (s.advance n).hart.fcsr = s.hart.fcsr := by rw [State.advance_eq]; simp
@[simp] theorem State.advance_hart_vec (s : State) (n : Nat) : (s.advance n).hart.vec = s.hart.vec := by rw [State.advance_eq]; simp
@[simp] theorem State.advance_hart_v (s : State) (n : Nat) : (s.advance n).hart.v = s.hart.v := by rw [State.advance_eq]; simp
@[simp] theorem State.advance_hart_p (s : State) (n : Nat) : (s.advance n).hart.p = s.hart.p := by rw [State.advance_eq]; simp
@[simp] theorem State.advance_hart_rb0 (s : State) (n : Nat) : (s.advance n).hart.rb0 = s.hart.rb0 := by rw [State.advance_eq]; simp
@[simp] theorem State.advance_hart_pavilions (s : State) (n : Nat) : (s.advance n).hart.pavilions = s.hart.pavilions := by rw [State.advance_eq]; simp
@[simp] theorem State.advance_hart_pavSet (s : State) (n : Nat) : (s.advance n).hart.pavSet = s.hart.pavSet := by rw [State.advance_eq]; simp
@[simp] theorem State.advance_hart_detm (s : State) (n : Nat) : (s.advance n).hart.detm = s.hart.detm := by rw [State.advance_eq]; simp
@[simp] theorem State.advance_hart_taint (s : State) (n : Nat) : (s.advance n).hart.taint = s.hart.taint := by rw [State.advance_eq]; simp
@[simp] theorem State.advance_hart_mat (s : State) (n : Nat) : (s.advance n).hart.mat = s.hart.mat := by rw [State.advance_eq]; simp
@[simp] theorem State.advance_hart_streams (s : State) (n : Nat) : (s.advance n).hart.streams = s.hart.streams := by rw [State.advance_eq]; simp
@[simp] theorem State.advance_hart_y (s : State) (n : Nat) : (s.advance n).hart.y = s.hart.y := by rw [State.advance_eq]; simp
@[simp] theorem State.advance_hart_engine (s : State) (n : Nat) : (s.advance n).hart.engine = s.hart.engine := by rw [State.advance_eq]; simp
@[simp] theorem State.advance_hart_tlb (s : State) (n : Nat) : (s.advance n).hart.tlb = s.hart.tlb := by rw [State.advance_eq]; simp
@[simp] theorem State.advance_hart_tfencing (s : State) (n : Nat) : (s.advance n).hart.tfencing = s.hart.tfencing := by rw [State.advance_eq]; simp
@[simp] theorem State.advance_hart_inWfi (s : State) (n : Nat) : (s.advance n).hart.inWfi = s.hart.inWfi := by rw [State.advance_eq]; simp
@[simp] theorem State.advance_hart_preempt (s : State) (n : Nat) : (s.advance n).hart.preempt = s.hart.preempt := by rw [State.advance_eq]; simp
@[simp] theorem State.advance_hart_srfSeen (s : State) (n : Nat) : (s.advance n).hart.srfSeen = s.hart.srfSeen := by rw [State.advance_eq]; simp
@[simp] theorem State.advance_hart_load (s : State) (n : Nat) : (s.advance n).hart.load = s.hart.load := by rw [State.advance_eq]; simp
@[simp] theorem State.advance_hart_edge (s : State) (n : Nat) : (s.advance n).hart.edge = s.hart.edge := by rw [State.advance_eq]; simp
@[simp] theorem State.advance_hart_ahead (s : State) (n : Nat) : (s.advance n).hart.ahead = s.hart.ahead := by rw [State.advance_eq]; simp
@[simp] theorem State.advance_hart_prov (s : State) (n : Nat) : (s.advance n).hart.prov = s.hart.prov := by rw [State.advance_eq]; simp
theorem State.advance_instret (s : State) (n : Nat) :
    (s.advance n).hart.counts.instret = s.hart.counts.instret + 1 := by rw [State.advance_eq]; simp
theorem State.advance_status (s : State) (n : Nat) :
    (s.advance n).hart.trap.status = (if s.hart.priv = .u then s.hart.trap.status.tick else s.hart.trap.status) := by
  rw [State.advance_eq]; exact Hart.count_tstatus _ _ _
theorem State.advance_trap_but (s : State) (n : Nat) (t : TStatus) :
    { (s.advance n).hart.trap with status := t } = { s.hart.trap with status := t } := by
  rw [State.advance_eq]; simp
theorem State.advance_loops (s : State) (n : Nat) : (s.advance n).hart.loops = (s.hart.loops.step s.hart.pc).1 := by
  rw [State.advance_eq]
theorem State.advance_pc (s : State) (n : Nat) :
    (s.advance n).hart.pc = ((s.hart.loops.step s.hart.pc).2).getD (s.hart.pc + word n) := by
  rw [State.advance_eq]

/-! ### Retirement with a transfer -/

@[simp] theorem State.transfer_core (s : State) (w : Word) : (s.transfer w).core = s.core := rfl
@[simp] theorem State.transfer_parked (s : State) (w : Word) : (s.transfer w).parked = s.parked := rfl
@[simp] theorem State.transfer_cores (s : State) (w : Word) : (s.transfer w).cores = s.cores := rfl
@[simp] theorem State.transfer_agenda (s : State) (w : Word) : (s.transfer w).agenda = s.agenda := rfl
@[simp] theorem State.transfer_pause (s : State) (w : Word) : (s.transfer w).pause = s.pause := rfl
@[simp] theorem State.transfer_dev (s : State) (w : Word) : (s.transfer w).dev = { s.dev with freeCount := s.dev.freeCount + 1 } := rfl
@[simp] theorem State.transfer_hart_ident (s : State) (w : Word) : (s.transfer w).hart.ident = s.hart.ident := by simp [State.transfer]
@[simp] theorem State.transfer_hart_status (s : State) (w : Word) : (s.transfer w).hart.status = s.hart.status := by simp [State.transfer]
@[simp] theorem State.transfer_hart_ctx (s : State) (w : Word) : (s.transfer w).hart.ctx = s.hart.ctx := by simp [State.transfer]
@[simp] theorem State.transfer_hart_root (s : State) (w : Word) : (s.transfer w).hart.root = s.hart.root := by simp [State.transfer]
@[simp] theorem State.transfer_hart_x (s : State) (w : Word) : (s.transfer w).hart.x = s.hart.x := by simp [State.transfer]
@[simp] theorem State.transfer_hart_priv (s : State) (w : Word) : (s.transfer w).hart.priv = s.hart.priv := by simp [State.transfer]
@[simp] theorem State.transfer_hart_fcsr (s : State) (w : Word) : (s.transfer w).hart.fcsr = s.hart.fcsr := by simp [State.transfer]
@[simp] theorem State.transfer_hart_loops (s : State) (w : Word) : (s.transfer w).hart.loops = s.hart.loops := by simp [State.transfer]
@[simp] theorem State.transfer_hart_vec (s : State) (w : Word) : (s.transfer w).hart.vec = s.hart.vec := by simp [State.transfer]
@[simp] theorem State.transfer_hart_v (s : State) (w : Word) : (s.transfer w).hart.v = s.hart.v := by simp [State.transfer]
@[simp] theorem State.transfer_hart_p (s : State) (w : Word) : (s.transfer w).hart.p = s.hart.p := by simp [State.transfer]
@[simp] theorem State.transfer_hart_rb0 (s : State) (w : Word) : (s.transfer w).hart.rb0 = s.hart.rb0 := by simp [State.transfer]
@[simp] theorem State.transfer_hart_pavilions (s : State) (w : Word) : (s.transfer w).hart.pavilions = s.hart.pavilions := by simp [State.transfer]
@[simp] theorem State.transfer_hart_pavSet (s : State) (w : Word) : (s.transfer w).hart.pavSet = s.hart.pavSet := by simp [State.transfer]
@[simp] theorem State.transfer_hart_detm (s : State) (w : Word) : (s.transfer w).hart.detm = s.hart.detm := by simp [State.transfer]
@[simp] theorem State.transfer_hart_taint (s : State) (w : Word) : (s.transfer w).hart.taint = s.hart.taint := by simp [State.transfer]
@[simp] theorem State.transfer_hart_mat (s : State) (w : Word) : (s.transfer w).hart.mat = s.hart.mat := by simp [State.transfer]
@[simp] theorem State.transfer_hart_streams (s : State) (w : Word) : (s.transfer w).hart.streams = s.hart.streams := by simp [State.transfer]
@[simp] theorem State.transfer_hart_y (s : State) (w : Word) : (s.transfer w).hart.y = s.hart.y := by simp [State.transfer]
@[simp] theorem State.transfer_hart_engine (s : State) (w : Word) : (s.transfer w).hart.engine = s.hart.engine := by simp [State.transfer]
@[simp] theorem State.transfer_hart_tlb (s : State) (w : Word) : (s.transfer w).hart.tlb = s.hart.tlb := by simp [State.transfer]
@[simp] theorem State.transfer_hart_tfencing (s : State) (w : Word) : (s.transfer w).hart.tfencing = s.hart.tfencing := by simp [State.transfer]
@[simp] theorem State.transfer_hart_inWfi (s : State) (w : Word) : (s.transfer w).hart.inWfi = s.hart.inWfi := by simp [State.transfer]
@[simp] theorem State.transfer_hart_preempt (s : State) (w : Word) : (s.transfer w).hart.preempt = s.hart.preempt := by simp [State.transfer]
@[simp] theorem State.transfer_hart_srfSeen (s : State) (w : Word) : (s.transfer w).hart.srfSeen = s.hart.srfSeen := by simp [State.transfer]
@[simp] theorem State.transfer_hart_load (s : State) (w : Word) : (s.transfer w).hart.load = s.hart.load := by simp [State.transfer]
@[simp] theorem State.transfer_hart_edge (s : State) (w : Word) : (s.transfer w).hart.edge = s.hart.edge := by simp [State.transfer]
@[simp] theorem State.transfer_hart_ahead (s : State) (w : Word) : (s.transfer w).hart.ahead = s.hart.ahead := by simp [State.transfer]
@[simp] theorem State.transfer_hart_prov (s : State) (w : Word) : (s.transfer w).hart.prov = s.hart.prov := by simp [State.transfer]
@[simp] theorem State.transfer_hart_pc (s : State) (w : Word) : (s.transfer w).hart.pc = w := rfl
theorem State.transfer_instret (s : State) (w : Word) :
    (s.transfer w).hart.counts.instret = s.hart.counts.instret + 1 := by simp [State.transfer]
theorem State.transfer_status (s : State) (w : Word) :
    (s.transfer w).hart.trap.status = (if s.hart.priv = .u then s.hart.trap.status.tick else s.hart.trap.status) := by
  exact Hart.count_tstatus _ _ _
theorem State.transfer_trap_but (s : State) (w : Word) (t : TStatus) :
    { (s.transfer w).hart.trap with status := t } = { s.hart.trap with status := t } := by simp [State.transfer]

/-! ### Reading what was written -/

@[simp] theorem State.x_zero (s : State) : s.x 0 = 0 := by simp [State.x]

theorem State.setX_x_same (s : State) (r : BitVec 5) (w : Word) : (s.setX r w).x r = (if r = 0 then 0 else w) := by
  unfold State.setX State.x; split <;> simp_all

theorem State.setX_x_other (s : State) (r q : BitVec 5) (w : Word) (h : q ≠ r) : (s.setX r w).x q = s.x q := by
  have hn : r.toNat ≠ q.toNat := fun e => h (BitVec.eq_of_toNat_eq e.symm)
  unfold State.setX; split
  · rfl
  · simp [State.x, hn]

@[simp] theorem State.setX_zero (s : State) (w : Word) : s.setX 0 w = s := by simp [State.setX]

@[simp] theorem State.setV_v_same (s : State) (r : BitVec 6) (w : VReg) : (s.setV r w).v r = w := by simp [State.setV, State.v]

theorem State.setV_v_other (s : State) (r q : BitVec 6) (w : VReg) (h : q ≠ r) : (s.setV r w).v q = s.v q := by
  have hn : r.toNat ≠ q.toNat := fun e => h (BitVec.eq_of_toNat_eq e.symm)
  simp [State.setV, State.v, hn]

theorem State.setP_p_other (s : State) (r q : BitVec 4) (m n : Nat) (h : q ≠ r) : (s.setP r m).p q n = s.p q n := by
  have hn : r.toNat ≠ q.toNat := fun e => h (BitVec.eq_of_toNat_eq e.symm)
  unfold State.setP; split
  · rfl
  · simp [State.p, hn]

theorem State.setP_p_same (s : State) (r : BitVec 4) (m n : Nat) (h : r ≠ 0) : (s.setP r m).p r n = m % 2 ^ n := by
  have h' : r ≠ 0#4 := h
  simp [State.setP, State.p, h']

/-! ### The registers read through an update of another part -/

@[simp] theorem State.setV_x (s : State) (r : BitVec 6) (w : VReg) (q : BitVec 5) : (s.setV r w).x q = s.x q := rfl
@[simp] theorem State.setV_p (s : State) (r : BitVec 6) (w : VReg) (q : BitVec 4) (k : Nat) : (s.setV r w).p q k = s.p q k := rfl
@[simp] theorem State.setP_x (s : State) (r : BitVec 4) (m : Nat) (q : BitVec 5) : (s.setP r m).x q = s.x q := by unfold State.setP; split <;> rfl
@[simp] theorem State.setP_v (s : State) (r : BitVec 4) (m : Nat) (q : BitVec 6) : (s.setP r m).v q = s.v q := by unfold State.setP; split <;> rfl
@[simp] theorem State.setVec_x (s : State) (w : VecCtl) (q : BitVec 5) : (s.setVec w).x q = s.x q := rfl
@[simp] theorem State.setVec_v (s : State) (w : VecCtl) (q : BitVec 6) : (s.setVec w).v q = s.v q := rfl
@[simp] theorem State.setVec_p (s : State) (w : VecCtl) (q : BitVec 4) (k : Nat) : (s.setVec w).p q k = s.p q k := rfl
@[simp] theorem State.setTrap_x (s : State) (w : TrapRegs) (q : BitVec 5) : (s.setTrap w).x q = s.x q := rfl
@[simp] theorem State.setTrap_v (s : State) (w : TrapRegs) (q : BitVec 6) : (s.setTrap w).v q = s.v q := rfl
@[simp] theorem State.setTrap_p (s : State) (w : TrapRegs) (q : BitVec 4) (k : Nat) : (s.setTrap w).p q k = s.p q k := rfl
@[simp] theorem State.setLoops_x (s : State) (w : Loops) (q : BitVec 5) : (s.setLoops w).x q = s.x q := rfl
@[simp] theorem State.setLoops_v (s : State) (w : Loops) (q : BitVec 6) : (s.setLoops w).v q = s.v q := rfl
@[simp] theorem State.setLoops_p (s : State) (w : Loops) (q : BitVec 4) (k : Nat) : (s.setLoops w).p q k = s.p q k := rfl
@[simp] theorem State.setMat_x (s : State) (w : Matrix) (q : BitVec 5) : (s.setMat w).x q = s.x q := rfl
@[simp] theorem State.setMat_v (s : State) (w : Matrix) (q : BitVec 6) : (s.setMat w).v q = s.v q := rfl
@[simp] theorem State.setMat_p (s : State) (w : Matrix) (q : BitVec 4) (k : Nat) : (s.setMat w).p q k = s.p q k := rfl
@[simp] theorem State.setTaint_x (s : State) (w : TaintBits) (q : BitVec 5) : (s.setTaint w).x q = s.x q := rfl
@[simp] theorem State.setTaint_v (s : State) (w : TaintBits) (q : BitVec 6) : (s.setTaint w).v q = s.v q := rfl
@[simp] theorem State.setTaint_p (s : State) (w : TaintBits) (q : BitVec 4) (k : Nat) : (s.setTaint w).p q k = s.p q k := rfl
@[simp] theorem State.setVType_x (s : State) (w : VType) (q : BitVec 5) : (s.setVType w).x q = s.x q := rfl
@[simp] theorem State.setVType_v (s : State) (w : VType) (q : BitVec 6) : (s.setVType w).v q = s.v q := rfl
@[simp] theorem State.setVType_p (s : State) (w : VType) (q : BitVec 4) (k : Nat) : (s.setVType w).p q k = s.p q k := rfl
@[simp] theorem State.setVstart_x (s : State) (n : Nat) (q : BitVec 5) : (s.setVstart n).x q = s.x q := rfl
@[simp] theorem State.setVstart_v (s : State) (n : Nat) (q : BitVec 6) : (s.setVstart n).v q = s.v q := rfl
@[simp] theorem State.setVstart_p (s : State) (n : Nat) (q : BitVec 4) (k : Nat) : (s.setVstart n).p q k = s.p q k := rfl
@[simp] theorem State.raiseFcsr_x (s : State) (f : Flags) (q : BitVec 5) : (s.raiseFcsr f).x q = s.x q := rfl
@[simp] theorem State.raiseFcsr_v (s : State) (f : Flags) (q : BitVec 6) : (s.raiseFcsr f).v q = s.v q := rfl
@[simp] theorem State.raiseFcsr_p (s : State) (f : Flags) (q : BitVec 4) (k : Nat) : (s.raiseFcsr f).p q k = s.p q k := rfl
@[simp] theorem State.raise_x (s : State) (r : Raised) (q : BitVec 5) : (s.raise r).x q = s.x q := rfl
@[simp] theorem State.raise_v (s : State) (r : Raised) (q : BitVec 6) : (s.raise r).v q = s.v q := rfl
@[simp] theorem State.raise_p (s : State) (r : Raised) (q : BitVec 4) (k : Nat) : (s.raise r).p q k = s.p q k := rfl
@[simp] theorem State.advance_x (s : State) (n : Nat) (q : BitVec 5) : (s.advance n).x q = s.x q := by simp [State.x]
@[simp] theorem State.advance_v (s : State) (n : Nat) (q : BitVec 6) : (s.advance n).v q = s.v q := by simp [State.v]
@[simp] theorem State.advance_p (s : State) (n : Nat) (q : BitVec 4) (k : Nat) : (s.advance n).p q k = s.p q k := by simp [State.p]
@[simp] theorem State.transfer_x (s : State) (w : Word) (q : BitVec 5) : (s.transfer w).x q = s.x q := by simp [State.x]
@[simp] theorem State.transfer_v (s : State) (w : Word) (q : BitVec 6) : (s.transfer w).v q = s.v q := by simp [State.v]
@[simp] theorem State.transfer_p (s : State) (w : Word) (q : BitVec 4) (k : Nat) : (s.transfer w).p q k = s.p q k := by simp [State.p]
@[simp] theorem State.setX_v (s : State) (r : BitVec 5) (w : Word) (q : BitVec 6) : (s.setX r w).v q = s.v q := by unfold State.setX; split <;> rfl
@[simp] theorem State.setX_p (s : State) (r : BitVec 5) (w : Word) (q : BitVec 4) (k : Nat) : (s.setX r w).p q k = s.p q k := by unfold State.setX; split <;> rfl

end Sys2Proof.Machine
end

