-- ==== Sys2Proof/Laws/Ops.lean ====
section
/-!
SUPPORT. What each shared operation does, said once: retirement, a result in an x register, the frame of a meaning that may
trap or wait, and taking a trap.
-/

namespace Sys2Proof.Machine

/-- Retirement in sequence counts one instruction and steps the loops. -/
theorem sequential_advance (s : State) (n : Nat) : Sequential n s (s.advance n) :=
  ⟨⟨s.advance_instret n, s.advance_status n⟩, s.advance_loops n, s.advance_pc n⟩

/-- A byte reads the same through the buffer when the buffer and memory are the same. -/
theorem keepsMemory_of_eq {s t : State} (hm : t.dev.mem = s.dev.mem) (hw : t.core.wcb = s.core.wcb)
    (hp : t.hart.prov = s.hart.prov) : KeepsMemory s t := by
  intro k
  simp [State.viewByte, hm, hw, hp]

/-- A register-only update followed by retirement in sequence. -/
theorem writesX_advance (s : State) (d : BitVec 5) (v : Word) (n : Nat) :
    WritesX d v s ((s.setX d v).advance n) ∧ Sequential n s ((s.setX d v).advance n) := by
  have hs := sequential_advance (s.setX d v) n
  refine ⟨⟨?_, ?_, ?_, ?_, ?_, ?_, ⟨?_, ?_, ?_⟩, ?_, ?_, ?_, ?_, ?_⟩, ?_⟩
  · rw [State.advance_x, State.setX_x_same]
  · intro r h; rw [State.advance_x, State.setX_x_other _ _ _ _ h]
  · intro r; simp
  · intro r k; simp
  · simp [KeepsFcsr]
  · simp [KeepsVec]
  · simp only [KeepsTrap]; rw [State.advance_trap_but]; simp
  · simp [KeepsUnits]
  · simp [KeepsTaint]
  · exact keepsMemory_of_eq (by simp) (by simp) (by simp)
  · simp
  · simp
  · simp
  · simp
  · simpa [Sequential, Counted] using hs

/-- An X[D] result and retirement (R44). -/
theorem result4_spec (s : State) (d : BitVec 5) (v : Word) :
    ∃ t, result4 d v s = .next t ∧ WritesX d v s t ∧ Sequential 4 s t :=
  ⟨_, rfl, writesX_advance s d v 4⟩

/-- An FCSR result: X[D], the flags that are raised, and nothing else (R70). -/
theorem fpResult_spec (s : State) (d : BitVec 5) (r : Nat × Flags) :
    ∃ t, fpResult d r s = .next t ∧ t.x d = (if d = 0 then 0 else word r.1) ∧ KeepsXBut d s t ∧
      t.hart.fcsr = { s.hart.fcsr with flags := s.hart.fcsr.flags ||| r.2 } ∧ KeepsV s t ∧ KeepsP s t ∧ KeepsVec s t ∧
      KeepsRest s t ∧ KeepsMemory s t ∧ KeepsOutside s t ∧ Sequential 4 s t := by
  have hs := sequential_advance ((s.setX d (word r.1)).raiseFcsr r.2) 4
  refine ⟨_, rfl, ?_, ?_, ?_, ?_, ?_, ?_, ⟨?_, ?_, ?_⟩, ?_, ⟨?_, ?_, ?_, ?_⟩, ?_⟩
  · rw [State.advance_x, State.raiseFcsr_x, State.setX_x_same]
  · intro q h; rw [State.advance_x, State.raiseFcsr_x, State.setX_x_other _ _ _ _ h]
  · simp
  · intro q; simp
  · intro q k; simp
  · simp [KeepsVec]
  · simp only [KeepsTrap]; rw [State.advance_trap_but]; simp
  · simp [KeepsUnits]
  · simp [KeepsTaint]
  · exact keepsMemory_of_eq (by simp) (by simp) (by simp)
  · simp
  · simp
  · simp
  · simp
  · simpa [Sequential, Counted] using hs

/-- A computation that succeeds completes the instruction. -/
theorem complete_ok {m : M Unit} {s s' : State} (k : State → State) (h : m s = .ok ((), s')) :
    complete m k s = .next (k s') := by simp [complete, h]

/-- Every outcome of a computation that may end early: it completes, it traps or waits, or it is refused. -/
theorem complete_cases (m : M Unit) (k : State → State) (s : State) :
    (∃ s', m s = .ok ((), s') ∧ complete m k s = .next (k s')) ∨
    (∃ s' tr, m s = .error (s', .trap tr) ∧ complete m k s = .next (s'.takeTrap tr)) ∨
    (∃ s', m s = .error (s', .wait) ∧ complete m k s = .next s') ∨
    (∃ s' r, m s = .error (s', .refuse r) ∧ complete m k s = .refused r) := by
  unfold complete
  rcases h : m s with ⟨s', w⟩ | ⟨⟨⟩, s'⟩
  · cases w with
    | trap tr => exact .inr (.inl ⟨s', tr, rfl, rfl⟩)
    | wait => exact .inr (.inr (.inl ⟨s', rfl, rfl⟩))
    | refuse r => exact .inr (.inr (.inr ⟨s', r, rfl, rfl⟩))
  · exact .inl ⟨s', rfl, rfl⟩

/-- The bind of two computations, when the first succeeds. -/
theorem bind_ok {α β : Type} {m : M α} {f : α → M β} {s s' : State} {a : α} (h : m s = .ok (a, s')) :
    (m >>= f) s = f a s' := by
  show (StateT.bind m f) s = _
  simp only [StateT.bind, h]
  rfl

/-- The bind of two computations, when the first ends early. -/
theorem bind_error {α β : Type} {m : M α} {f : α → M β} {s s' : State} {w : Why} (h : m s = .error (s', w)) :
    (m >>= f) s = .error (s', w) := by
  show (StateT.bind m f) s = _
  simp only [StateT.bind, h]
  rfl

/-- A check that holds changes nothing. -/
@[simp] theorem need_true (t : Trap) (s : State) : need true t s = .ok ((), s) := rfl

/-- A check that fails traps, and nothing has changed. -/
@[simp] theorem need_false (t : Trap) (s : State) : need false t s = .error (s, .trap t) := rfl

/-- The black box does not change the hart. -/
@[simp] theorem State.noteError_hart (s : State) (c : Cause) : (s.noteError c).hart = s.hart := by
  unfold State.noteError; split <;> rfl

/-- What is discarded of a hart is what it has issued ahead (R85). -/
theorem State.discard_hart (s : State) : s.discard.hart = { s.hart with ahead := none } := by
  unfold State.discard State.squash State.mapHart
  split
  · rename_i h
    rw [← Option.isNone_iff_eq_none.mp h]
  · simp

/-- The hart after a trap that is no double trap (R81). -/
theorem State.takeTrap_hart (s : State) (tr : Trap) (h : s.hart.trap.status.eip = false) :
    (s.takeTrap tr).hart = { s.hart with ahead := none }.trapEntry tr s.hart.pc := by
  simp [State.takeTrap, State.discard_hart, h]

/-- Taking a trap outside a handler (R81). -/
theorem takeTrap_entered (s : State) (tr : Trap) (h : s.hart.trap.status.eip = false) : Entered tr s (s.takeTrap tr) := by
  unfold Entered
  rw [State.takeTrap_hart s tr h]
  refine ⟨rfl, rfl, rfl, rfl, rfl, ?_, rfl, rfl, rfl, rfl, ?_, rfl⟩
  · obtain ⟨c, v, e, i⟩ := tr
    cases i <;> rfl
  · have ne (a b : Nat) : (a != b) = decide (a ≠ b) := by by_cases h : a = b <;> simp [h]
    simp only [Hart.trapEntry, TStatus.enter, ne]

end Sys2Proof.Machine
end

