-- ==== Sys2Proof/Tests/Slice0.lean ====
section
/-!
SUPPORT. Tests: words and what they decode to, the field rules, single steps, and a state for the premises of each statement.
Expected values are the manual's own examples and tables, or worked out by hand from its rules.
-/

open Sys2Proof Sys2Proof.Machine

namespace Sys2Proof.Tests

/-! ## Decoding -/

/-- The bytes of words, as they lie in memory. -/
def bytesOfWords (l : List Word32) : List Byte := l.flatMap bytesOfWord

/-- Each list of words decodes to its instruction, and the instruction is encoded as those words. -/
def Decodes (l : List (List Word32 × Instr)) : Prop :=
  ∀ p ∈ l, decode (bytesOfWords p.1) = .ok (p.2, []) ∧ encode p.2 = p.1

/-- No instruction has these words. -/
def Refused (l : List Word32) : Prop := ∃ e, decode (bytesOfWords l) = .error e

/-! Words put together from the fields of the opcode table (R35 to R37), with mixed field values. -/

theorem test_decode_alu : Decodes [
    ([0x0009E501], .add 10 30 4), ([0x00434601], .sub 12 20 1), ([0x00A3A101], .and 2 26 17), ([0x00E4B181], .or 3 11 18),
    ([0x0121D081], .xor 1 29 16), ([0x01441301], .sll 6 1 2), ([0x0184D681], .srl 13 13 2), ([0x01E22381], .sra 7 2 17),
    ([0x02341681], .slt 13 1 26), ([0x027C3901], .sltu 18 3 30), ([0x02A94381], .min 7 20 20),
    ([0x02C3E901], .max 18 30 1), ([0x03192901], .minu 18 18 12), ([0x034FF081], .maxu 1 31 7),
    ([0x03B71081], .andn 1 17 27), ([0x03DA9201], .orn 4 9 13), ([0x04011201], .clz 4 17), ([0x04412181], .ctz 3 18),
    ([0x04811481], .popc 9 17), ([0x04C15D01], .sextw 26 21), ([0x05243281], .addw 5 3 18), ([0x054D4901], .subw 18 20 6)] := by
  simp only [Decodes, List.forall_mem_cons, List.not_mem_nil, false_implies, implies_true, and_true]
  refine ⟨?_, ?_, ?_, ?_, ?_, ?_, ?_, ?_, ?_, ?_, ?_, ?_, ?_, ?_, ?_, ?_, ?_, ?_, ?_, ?_, ?_, ?_⟩ <;> exact ⟨rfl, rfl⟩

theorem test_decode_immediates : Decodes [
    ([0x8C383582], .addi 11 3 17948), ([0x907A2B03], .andi 22 2 18493), ([0x34B93084], .ori 1 19 6748),
    ([0x881F5785], .xori 15 21 17423), ([0x506B8686], .slti 13 24 10293), ([0xEC672707], .sltiu 14 18 30259),
    ([0x0026B708], .slli 14 11 19), ([0x20179388], .srli 7 25 11), ([0x401F8B08], .srai 22 24 15),
    ([0x930D6109], .lui 2 602326), ([0x8673448A], .auipc 9 550708)] := by
  simp only [Decodes, List.forall_mem_cons, List.not_mem_nil, false_implies, implies_true, and_true]
  refine ⟨?_, ?_, ?_, ?_, ?_, ?_, ?_, ?_, ?_, ?_, ?_⟩ <;> exact ⟨rfl, rfl⟩

theorem test_decode_muldiv : Decodes [
    ([0x0015C78B], .mul 15 28 10), ([0x0052EB8B], .mulh 23 14 9), ([0x0085F98B], .mulhu 19 31 2),
    ([0x00DB018B], .mulhsu 3 16 13), ([0x0115828B], .div 5 24 10), ([0x015FD20B], .divu 4 29 15),
    ([0x01BC168B], .rem 13 1 30), ([0x01F02A8B], .remu 21 2 24), ([0x0233288B], .mulw 17 18 25)] := by
  simp only [Decodes, List.forall_mem_cons, List.not_mem_nil, false_implies, implies_true, and_true]
  refine ⟨?_, ?_, ?_, ?_, ?_, ?_, ?_, ?_, ?_⟩ <;> exact ⟨rfl, rfl⟩

theorem test_decode_control : Decodes [
    ([0x5051AE0C], .beq 28 26 1285), ([0x59A3650C], .bne 10 22 1434), ([0x9478F98C], .blt 19 15 2375),
    ([0x119AEC8C], .bge 25 14 281), ([0xF1DC2D0C], .bltu 26 2 3869), ([0xB27EF40C], .bgeu 8 15 2855),
    ([0x10A3DA8D], .jal 21 68157), ([0xB395708E], .jalr 1 23 22986), ([0x2B04B00F], .loop 0 11 5506),
    ([0x0000001E], .ecall), ([0x0040001E], .ebreak), ([0x0080001E], .tret), ([0x00C0001E], .wfi), ([0x0100001E], .cvb),
    ([0x0141301E], .tmark 19), ([0x01E2F19F], .csrrw 3 15 241), ([0x2933831F], .csrrs 6 24 1177),
    ([0x47ED721F], .csrrc 4 23 1014), ([0x9D56C61F], .csrrwi 12 12 3755), ([0xA294FD9F], .csrrsi 27 15 330),
    ([0xCCDAE29F], .csrrci 5 14 1645)] := by
  simp only [Decodes, List.forall_mem_cons, List.not_mem_nil, false_implies, implies_true, and_true]
  refine ⟨?_, ?_, ?_, ?_, ?_, ?_, ?_, ?_, ?_, ?_, ?_, ?_, ?_, ?_, ?_, ?_, ?_, ?_, ?_, ?_, ?_⟩ <;> exact ⟨rfl, rfl⟩

theorem test_decode_loads_stores : Decodes [
    ([0xE2248890], .lb 17 8 28946), ([0x6E37A211], .lh 4 26 14107), ([0x47471D92], .lw 27 17 9123),
    ([0xFC88DB13], .ld 22 13 32324), ([0xE25B5594], .lbu 11 21 28973), ([0x3B13E615], .lhu 12 30 7561),
    ([0x2D1C2216], .lwu 4 2 5774), ([0xA8947218], .sb 4 7 21578), ([0x7C260399], .sh 7 0 15891),
    ([0x2EAF2D1A], .sw 26 18 5975), ([0x010C941B], .sd 8 9 134)] := by
  simp only [Decodes, List.forall_mem_cons, List.not_mem_nil, false_implies, implies_true, and_true]
  refine ⟨?_, ?_, ?_, ?_, ?_, ?_, ?_, ?_, ?_, ?_, ?_⟩ <;> exact ⟨rfl, rfl⟩

theorem test_decode_atomics : Decodes [
    ([0x9022D21C], .amoswap 4 13 17 0 2 4), ([0x9C49E51C], .amoadd 10 30 4 1 3 4), ([0x14A93F1C], .amoand 30 19 20 1 2 0),
    ([0x68E39A9C], .amoor 21 25 17 0 1 3), ([0x0D1E361C], .amoxor 12 3 15 1 1 0), ([0x297E231C], .amomin 6 2 31 0 1 1),
    ([0x01A6A19C], .amomax 3 10 19 0 0 0), ([0x59E2491C], .amominu 18 4 17 0 3 2), ([0x8604099C], .amomaxu 19 0 2 1 0 4),
    ([0x5A68461C], .amocas 12 4 20 0 3 2)] := by
  simp only [Decodes, List.forall_mem_cons, List.not_mem_nil, false_implies, implies_true, and_true]
  refine ⟨?_, ?_, ?_, ?_, ?_, ?_, ?_, ?_, ?_, ?_⟩ <;> exact ⟨rfl, rfl⟩

theorem test_decode_fences_sync_tasks : Decodes [
    ([0x6A00001D], .fence 4 2 3), ([0x0040001D], .tfence 0), ([0x0A00EFA3], .syld 31 14 1 1),
    ([0x00449023], .syst 9 2 0 0), ([0x0C80ABA3], .sytas 23 10 2 1), ([0x10EDA7A3], .syfaa 15 26 22 0 2),
    ([0x173C6023], .sycas 0 6 30 3 2), ([0x53776123], .sywait 2 22 27 1 2 2), ([0x07965EA3], .sybar 29 5 11 3 0),
    ([0x00231024], .ipost 17 17), ([0x00550C24], .iwait 24 16 10), ([0x00807A24], .tspawn 20 7),
    ([0x00C009A4], .ttake 19), ([0x01019CA4], .tjoin 25 25), ([0x0141F024], .tdone 31), ([0x20000043], .vfence 1)] := by
  simp only [Decodes, List.forall_mem_cons, List.not_mem_nil, false_implies, implies_true, and_true]
  refine ⟨?_, ?_, ?_, ?_, ?_, ?_, ?_, ?_, ?_, ?_, ?_, ?_, ?_, ?_, ?_, ?_⟩ <;> exact ⟨rfl, rfl⟩

theorem test_decode_float : Decodes [
    ([0x00347CA0], .faddS 25 7 26), ([0x00737620], .faddD 12 23 25), ([0x00A063A0], .fsubS 7 6 16),
    ([0x00EEB7A0], .fsubD 15 11 23), ([0x0101F020], .fmulS 0 31 0), ([0x015E8CA0], .fmulD 25 8 15),
    ([0x01AC6420], .fdivS 8 6 22), ([0x01D7E9A0], .fdivD 19 30 11), ([0x02019720], .fsqrtS 14 25),
    ([0x02417EA0], .fsqrtD 29 23), ([0x02BCBFA0], .fminS 31 11 30), ([0x02C4BFA0], .fminD 31 11 2),
    ([0x030E33A0], .fmaxS 7 3 7), ([0x035467A0], .fmaxD 15 6 10), ([0x03A6F320], .fsgnjS 6 15 19),
    ([0x03E7CFA0], .fsgnjD 31 28 19), ([0x041E0D20], .fsgnjnS 26 0 15), ([0x04574EA0], .fsgnjnD 29 20 11),
    ([0x04854CA0], .fsgnjxS 25 20 2), ([0x04C75D20], .fsgnjxD 26 21 3), ([0x0532CEA0], .feqS 29 12 25),
    ([0x054D8B20], .feqD 22 24 6), ([0x058BC7A0], .fltS 15 28 5), ([0x05E996A0], .fltD 13 25 20),
    ([0x06322520], .fleS 10 2 25), ([0x066FFF20], .fleD 30 31 23), ([0x0680E620], .fclassS 12 14),
    ([0x06C17620], .fclassD 12 23), ([0x016E2F21], .fmaddS 30 2 23 5), ([0x2009F2A1], .fmaddD 5 31 4 0),
    ([0x0BB92221], .fmsubS 4 18 28 14), ([0x2CC94CA1], .fmsubD 25 20 4 19), ([0x13FF3D21], .fnmaddS 26 19 31 15),
    ([0x3117DAA1], .fnmaddD 21 29 11 4), ([0x180918A1], .fnmsubS 17 17 4 0), ([0x3DFF9021], .fnmsubD 0 25 31 23)] := by
  simp only [Decodes, List.forall_mem_cons, List.not_mem_nil, false_implies, implies_true, and_true]
  refine ⟨?_, ?_, ?_, ?_, ?_, ?_, ?_, ?_, ?_, ?_, ?_, ?_, ?_, ?_, ?_, ?_, ?_, ?_, ?_, ?_, ?_, ?_, ?_, ?_, ?_, ?_, ?_, ?_, ?_, ?_, ?_, ?_, ?_, ?_, ?_, ?_⟩ <;> exact ⟨rfl, rfl⟩

theorem test_decode_float_convert : Decodes [
    ([0x00003A22], .fcvtws 20 3), ([0x00417822], .fcvtwus 16 23), ([0x00804EA2], .fcvtls 29 4),
    ([0x00C1F6A2], .fcvtlus 13 31), ([0x01006DA2], .fcvtsw 27 6), ([0x0141BD22], .fcvtswu 26 27),
    ([0x01800322], .fcvtsl 6 0), ([0x01C06422], .fcvtslu 8 6), ([0x020104A2], .fcvtwd 9 16),
    ([0x024183A2], .fcvtwud 7 24), ([0x0280A922], .fcvtld 18 10), ([0x02C11422], .fcvtlud 8 17),
    ([0x0301A6A2], .fcvtdw 13 26), ([0x03401222], .fcvtdwu 4 1), ([0x03817EA2], .fcvtdl 29 23),
    ([0x03C1C5A2], .fcvtdlu 11 28), ([0x04015722], .fcvtsd 14 21), ([0x0441A922], .fcvtds 18 26)] := by
  simp only [Decodes, List.forall_mem_cons, List.not_mem_nil, false_implies, implies_true, and_true]
  refine ⟨?_, ?_, ?_, ?_, ?_, ?_, ?_, ?_, ?_, ?_, ?_, ?_, ?_, ?_, ?_, ?_, ?_, ?_⟩ <;> exact ⟨rfl, rfl⟩

theorem test_decode_vector_config : Decodes [
    ([0x00800E30], .setvl 28 16), ([0x20063230], .vcfg 4 1 1 2 1), ([0x40000030], .vtag 0), ([0x6001DBB0], .vretag 55 14),
    ([0x80280C30], .mmode 24 5), ([0xA00009B0], .settile 19 0)] := by
  simp only [Decodes, List.forall_mem_cons, List.not_mem_nil, false_implies, implies_true, and_true]
  refine ⟨?_, ?_, ?_, ?_, ?_, ?_⟩ <;> exact ⟨rfl, rfl⟩

theorem test_decode_vector_arith : Decodes [
    ([0x044E78B1], .vaddV 49 51 9 2), ([0x373BC4B1], .vsubV 9 30 39 11), ([0x4A1C63B1], .vmulV 7 35 3 5),
    ([0x710C35B1], .vmulhV 43 33 33 8), ([0x838E4F31], .vminV 30 50 49 1), ([0xA61C7C31], .vmaxV 56 35 3 3),
    ([0xD8122631], .vdivV 12 17 2 12), ([0xF0E40331], .vremV 6 32 28 8), ([0x1CE600B2], .vaddW 1 48 28 14),
    ([0x32538232], .vsubW 4 28 10 9), ([0x509C1F32], .vmulW 62 32 19 8), ([0x6E458632], .vmulhW 12 44 8 7),
    ([0x8ECC5032], .vminW 32 34 25 7), ([0xB63F9032], .vmaxW 32 60 7 11), ([0xDEE710B2], .vdivW 33 56 28 15),
    ([0xF0EA1DB2], .vremW 59 16 29 8), ([0x1A679CB3], .vandV 57 60 12 13), ([0x22D10E33], .vorV 28 8 26 1),
    ([0x42A38CB3], .vxorV 25 28 20 1), ([0x62D9F533], .vandnV 42 15 27 1), ([0x989D46B3], .vsllV 13 42 19 12),
    ([0xA58F23B3], .vsrlV 7 57 49 2), ([0xD54DBE33], .vsraV 60 45 41 10), ([0xFC812BB3], .vmulhuV 23 9 16 14),
    ([0x0677A434], .vandW 8 61 14 3), ([0x2C1F97B4], .vorW 47 60 3 6), ([0x5E2BFC34], .vxorW 56 31 5 15),
    ([0x643EB534], .vandnW 42 53 7 2), ([0x90FB76B4], .vsllW 45 27 31 8), ([0xA66AACB4], .vsrlW 25 21 13 3),
    ([0xD6128B34], .vsraW 22 20 2 11), ([0xF0502BB4], .vmulhuW 23 1 10 8)] := by
  simp only [Decodes, List.forall_mem_cons, List.not_mem_nil, false_implies, implies_true, and_true]
  refine ⟨?_, ?_, ?_, ?_, ?_, ?_, ?_, ?_, ?_, ?_, ?_, ?_, ?_, ?_, ?_, ?_, ?_, ?_, ?_, ?_, ?_, ?_, ?_, ?_, ?_, ?_, ?_, ?_, ?_, ?_, ?_, ?_⟩ <;> exact ⟨rfl, rfl⟩

theorem test_decode_vector_fused_unary : Decodes [
    ([0x016B8EB5], .vfmaV 29 28 45 0), ([0x330AAC35], .vfmsV 24 21 33 9), ([0x43EC0935], .vfnmaV 18 32 61 1),
    ([0x79D7E3B5], .vfnmsV 7 63 58 12), ([0x02E7C736], .vfmaW 14 62 28 1), ([0x204202B6], .vfmsW 5 16 8 0),
    ([0x482E3CB6], .vfnmaW 57 49 5 4), ([0x6CD11836], .vfnmsW 48 8 26 6), ([0x14075B37], .vneg 54 58 10),
    ([0x28079A37], .vabs 52 60 4), ([0x50012CB7], .vsqrt 25 9 8), ([0x72041D37], .vexp2 58 32 9),
    ([0x8A058FB7], .vlog2 31 44 5), ([0xA00222B7], .vrcp 5 17 0), ([0xC40599B7], .vnot 51 44 2),
    ([0xE201CDB7], .viota 27 14 1)] := by
  simp only [Decodes, List.forall_mem_cons, List.not_mem_nil, false_implies, implies_true, and_true]
  refine ⟨?_, ?_, ?_, ?_, ?_, ?_, ?_, ?_, ?_, ?_, ?_, ?_, ?_, ?_, ?_, ?_⟩ <;> exact ⟨rfl, rfl⟩

theorem test_decode_vector_compare : Decodes [
    ([0x140F8238], .vcmpeqV 4 60 1 10), ([0x228660B8], .vcmpneV 1 51 16 1), ([0x4276C4B8], .vcmpltV 9 54 14 1),
    ([0x6E3EE238], .vcmpleV 4 55 7 7), ([0x91FAA038], .vcmpgtV 0 21 63 8), ([0xA9D76338], .vcmpgeV 6 59 58 4),
    ([0xD01104B8], .vcmpunV 9 8 2 8), ([0x02F1E5B9], .vcmpeqW 11 15 30 1), ([0x204147B9], .vcmpneW 15 10 8 0),
    ([0x48E98139], .vcmpltW 2 12 29 4), ([0x78826539], .vcmpleW 10 19 16 12), ([0x907241B9], .vcmpgtW 3 18 14 8),
    ([0xAA416539], .vcmpgeW 10 11 8 5), ([0xC8F82639], .vcmpunW 12 1 31 4)] := by
  simp only [Decodes, List.forall_mem_cons, List.not_mem_nil, false_implies, implies_true, and_true]
  refine ⟨?_, ?_, ?_, ?_, ?_, ?_, ?_, ?_, ?_, ?_, ?_, ?_, ?_, ?_⟩ <;> exact ⟨rfl, rfl⟩

theorem test_decode_vector_move_predicate : Decodes [
    ([0x0000013A], .vmv 2 0 0), ([0x3080173A], .vsplat 46 16 8), ([0x4F019F3A], .vsel 62 12 32 7),
    ([0x607763BA], .vmvx 7 59 14), ([0x80D2A33A], .vins 6 21 26), ([0xB64C1F3A], .vcvt 62 32 9 11),
    ([0x0A19E1BB], .pand 3 15 3 5), ([0x3671A1BB], .por 3 13 14 11), ([0x4C1145BB], .pxor 11 10 2 6),
    ([0x6078A7BB], .pandn 15 5 15 0), ([0x800046BB], .pnot 13 2 0), ([0xB60140BB], .pfirst 1 10 11),
    ([0xCC008E3B], .pcnt 28 4 6), ([0xE20002BB], .psetvl 5 0 1)] := by
  simp only [Decodes, List.forall_mem_cons, List.not_mem_nil, false_implies, implies_true, and_true]
  refine ⟨?_, ?_, ?_, ?_, ?_, ?_, ?_, ?_, ?_, ?_, ?_, ?_, ?_, ?_⟩ <;> exact ⟨rfl, rfl⟩

theorem test_decode_vector_cross : Decodes [
    ([0x1A66B53C], .vslideup 42 53 12 13), ([0x28FD503C], .vslidedn 32 42 31 4), ([0x4961F33C], .vperm 38 15 44 4),
    ([0x6413A13C], .vbfly 2 29 2 2), ([0x800388BC], .vcompress 17 28 0), ([0xBE02E83C], .vexpand 16 23 15),
    ([0xDE07CABC], .vscan 21 62 15), ([0xE60291BC], .vrev 35 20 3), ([0x1C07A13D], .vredsum 2 61 14),
    ([0x2A01A9BD], .vredmin 19 13 5), ([0x4A0005BD], .vredmax 11 0 5), ([0x6E00AC3D], .vredand 24 5 7),
    ([0x940408BD], .vredor 17 32 10), ([0xB001E63D], .vredxor 12 15 8), ([0xC20018BD], .vredmini 49 0 1),
    ([0xE206883D], .vredmaxi 16 52 1), ([0x0093223E], .vsample 4 25 9 0), ([0x28482CBE], .vtopk 25 1 9 4)] := by
  simp only [Decodes, List.forall_mem_cons, List.not_mem_nil, false_implies, implies_true, and_true]
  refine ⟨?_, ?_, ?_, ?_, ?_, ?_, ?_, ?_, ?_, ?_, ?_, ?_, ?_, ?_, ?_, ?_, ?_, ?_⟩ <;> exact ⟨rfl, rfl⟩

theorem test_decode_vector_memory : Decodes [
    ([0x1200F440], .vld 40 7 0 9), ([0x256E1EC0], .vlds 61 16 27 1 2), ([0x5DB79540], .vldx 42 28 45 1 14),
    ([0x0B019341], .vst 38 12 1 5), ([0x283FF741], .vsts 46 31 15 0 4), ([0x40A67741], .vstx 46 19 41 0 0),
    ([0x71B75A41], .vcadd 52 26 45 1 8), ([0x99B9B441], .vcmin 40 13 46 1 12), ([0xB9E89041], .vcmax 32 4 58 1 12),
    ([0xD9D65041], .vcor 32 18 53 1 12), ([0x19AF40C2], .vaadd 1 26 43 1 12), ([0x37AEDCC2], .vamin 57 22 43 1 11),
    ([0x4014F4C2], .vamax 41 7 5 0 0), ([0x635E8442], .vaand 8 20 23 1 1), ([0x81734C42], .vaor 24 26 28 1 0),
    ([0xB5A01442], .vaxor 40 0 40 1 10), ([0xCE41E7C2], .vaswap 15 15 16 0 7), ([0x00B819C4], .vbind 51 0 23),
    ([0x2000E044], .vunbind 7), ([0x4000E844], .vbstat 16 7)] := by
  simp only [Decodes, List.forall_mem_cons, List.not_mem_nil, false_implies, implies_true, and_true]
  refine ⟨?_, ?_, ?_, ?_, ?_, ?_, ?_, ?_, ?_, ?_, ?_, ?_, ?_, ?_, ?_, ?_, ?_, ?_, ?_, ?_⟩ <;> exact ⟨rfl, rfl⟩

theorem test_decode_matrix_hyper_sparse : Decodes [
    ([0x00000148], .mzero 2), ([0x230D4048], .mmac 0 42 33 1), ([0x4E05E148], .mmacw 2 47 7), ([0x60180148], .mcvt 2 3),
    ([0x80A81648], .mrdrow 44 0 21), ([0xA0B240C8], .mwrrow 1 18 22), ([0xC071C348], .mwld 2 1 14 14),
    ([0xE03E20C8], .mscl 1 49 7), ([0x068B9FCC], .hgen 63 28 17 3), ([0x3C17C9CC], .hrot 19 62 2 14),
    ([0x48002F4C], .hacc 30 1 4), ([0x71A08ECC], .hsign 29 4 52 8), ([0x9EE7EF4C], .hdist 30 63 28 15),
    ([0xA03308CC], .hsimm 17 24 6), ([0xC0EF9D4C], .hfstep 58 60 29), ([0x009040D0], .svld 1 2 18),
    ([0x20008050], .svst 0 4), ([0x401082D0], .svadd 5 4 2), ([0x600843D0], .svmul 7 2 1), ([0x8028C9D0], .svdot 19 6 5),
    ([0xA0E05050], .svtov 32 2 28), ([0xC000A1D0], .svlen 3 5), ([0x003AE054], .rpost 23 7),
    ([0x20E727D4], .rwait 15 57 28)] := by
  simp only [Decodes, List.forall_mem_cons, List.not_mem_nil, false_implies, implies_true, and_true]
  refine ⟨?_, ?_, ?_, ?_, ?_, ?_, ?_, ?_, ?_, ?_, ?_, ?_, ?_, ?_, ?_, ?_, ?_, ?_, ?_, ?_, ?_, ?_, ?_, ?_⟩ <;> exact ⟨rfl, rfl⟩

theorem test_decode_long_forms : Decodes [
    ([0x00000070, 0x00EBF330], .loopi 0 235 62256), ([0x020007F1, 0x736506EC], .li 15 1 1936000748),
    ([0x00BA6673, 0x00000000], .hclean 12 19 23), ([0x025B44F3, 0x00000000], .hfact 9 26 11),
    ([0x00530572, 0x0000006D], .cpy 10 24 10 13 0 3), ([0x0233AF72, 0x0001378B], .cpys 30 29 6 11 0 28 5 9),
    ([0x04116472, 0x0004BBE6], .cpyx 8 11 2 6 0 31 6 37), ([0x06016172, 0x00000000], .cpyt 2 11),
    ([0x0003A074, 0x00000000], .srdef 29), ([0x028B0DF4, 0x00000000], .srld 27 24 17),
    ([0x04883B74, 0x00000000], .srst 54 1 17), ([0x06D020F4, 0x00000000], .srrow 1 1 26),
    ([0x08A13574, 0x00000000], .srtrav 42 9 10), ([0x0A388EF4, 0x00000110], .srdense 29 4 7 1 8),
    ([0x0C0206F4, 0x00000000], .srcnt 13 16), ([0x00314075, 0xC5EF5CFB], .edef 10 6 3320798459),
    ([0x02C805F5, 0x00000000], .erun 11 25), ([0x04000075, 0x00000000], .eend), ([0x06680F75, 0x00000000], .estat 30 13),
    ([0x08000E75, 0x00000000], .efront 28)] := by
  simp only [Decodes, List.forall_mem_cons, List.not_mem_nil, false_implies, implies_true, and_true]
  refine ⟨?_, ?_, ?_, ?_, ?_, ?_, ?_, ?_, ?_, ?_, ?_, ?_, ?_, ?_, ?_, ?_, ?_, ?_, ?_, ?_⟩ <;> exact ⟨rfl, rfl⟩

/-! The manual's own words. -/

theorem test_decode_manual : Decodes [
    ([0x000A4181], .add 3 4 5), ([0xFFFE0482], .addi 9 0 0x7FFF), ([0x40067308], .srai 6 7 3), ([0x021AC70B], .mulw 14 12 13),
    ([0x0000708D], .jal 1 7), ([0x0000100E], .jalr 0 1 0), ([0x203800BA], .vsplat 1 7 0), ([0x6000A63A], .vmvx 12 5 0),
    ([0xA06841BA], .vcvt 3 2 13 0), ([0x42288138], .vcmpltV 2 4 5 1), ([0x00512435], .vfmaV 8 9 10 0), ([0x000A41A0], .faddS 3 4 5),
    ([0x024041A0], .fsqrtD 3 4), ([0x2358B521], .fmaddD 10 11 12 13), ([0x0080001E], .tret), ([0x00C0001E], .wfi),
    ([0x0100001E], .cvb), ([0x0140501E], .tmark 5), ([0x00C005A4], .ttake 11), ([0x820082BC], .vcompress 5 4 1),
    ([0xC200833C], .vscan 6 4 1), ([0x0200843D], .vredsum 8 4 1), ([0xE20083BD], .vredmaxi 7 4 1), ([0x203084BC], .vslidedn 9 4 6 0),
    ([0x40000930], .vtag 18), ([0x20000A3A], .vsplat 20 0 0), ([0x40002A4C], .hacc 20 1 0), ([0x60B28ACC], .hsign 21 20 22 0),
    ([0x800AA3CC], .hdist 7 21 1 0), ([0x401D41C1], .vstx 3 10 7 0 0), ([0x601D41C1], .vcadd 3 10 7 0 0)] := by
  simp only [Decodes, List.forall_mem_cons, List.not_mem_nil, false_implies, implies_true, and_true]
  refine ⟨?_, ?_, ?_, ?_, ?_, ?_, ?_, ?_, ?_, ?_, ?_, ?_, ?_, ?_, ?_, ?_, ?_, ?_, ?_, ?_, ?_, ?_, ?_, ?_, ?_, ?_, ?_, ?_, ?_, ?_, ?_⟩ <;> exact ⟨rfl, rfl⟩

theorem test_decode_hclean : decode (bytesOfWords [0x0032A2F3, 0x00000000]) = .ok (.hclean 5 21 6, []) := rfl

/-! The field rules: for each, a term that breaks only it, and its words. -/

theorem test_wellFormed_refuses : ∀ p ∈ ([
    ([0x0001C08F], Instr.loop 1 28 0),
    ([0xC3ABD00F], Instr.loop 0 29 25045),
    ([0x00000070, 0x0000D91B], Instr.loopi 0 0 55579),
    ([0x000000F0, 0xD5E7F1A9], Instr.loopi 1 54759 61865),
    ([0xC03B011C], Instr.amoswap 2 16 29 0 0 6),
    ([0xF07CF01C], Instr.amoadd 0 15 30 0 2 7),
    ([0xCCA80E1C], Instr.amoand 28 0 20 1 1 6),
    ([0xA4DF609C], Instr.amoor 1 22 15 1 0 5),
    ([0xC11E089C], Instr.amoxor 17 0 15 0 0 6),
    ([0xD55EF01C], Instr.amomin 0 15 15 1 2 6),
    ([0xC9B04F1C], Instr.amomax 30 4 24 0 1 6),
    ([0xF9DC941C], Instr.amominu 8 9 14 0 3 7),
    ([0xDA0A7C1C], Instr.amomaxu 24 7 5 0 3 6),
    ([0xEA47001C], Instr.amocas 0 16 3 0 1 7),
    ([0xBF80001D], Instr.fence 7 7 5),
    ([0x8200001D], Instr.fence 4 0 4),
    ([0x0A00001D], Instr.fence 4 2 0),
    ([0x02C0001D], Instr.tfence 5),
    ([0x1E01C723], Instr.syld 14 28 3 3),
    ([0x1A4CC023], Instr.syst 12 6 1 3),
    ([0x1E812F23], Instr.sytas 30 18 3 3),
    ([0x18F15423], Instr.syfaa 8 21 24 0 3),
    ([0x1B02AF23], Instr.sycas 30 10 1 1 3),
    ([0x5D4D37A3], Instr.sywait 15 19 6 2 3 2),
    ([0xCF629B23], Instr.sywait 22 9 17 3 1 6),
    ([0x1BA953A3], Instr.sybar 7 21 20 1 3),
    ([0x20058EB0], Instr.vcfg 29 0 4 1 1),
    ([0x2000C6B0], Instr.vcfg 13 0 6 0 0),
    ([0x200340B0], Instr.vcfg 1 0 2 3 0),
    ([0x40000A30], Instr.vtag 20),
    ([0x60000EB0], Instr.vretag 29 0),
    ([0x6003C4B0], Instr.vretag 9 30),
    ([0xA404543A], Instr.vcvt 40 34 0 2),
    ([0xAED5ED3A], Instr.vcvt 26 47 26 7),
    ([0x34E3FFBE], Instr.vtopk 63 31 28 10),
    ([0xE0000043], Instr.vfence 7),
    ([0x60F80148], Instr.mcvt 2 31),
    ([0xC04307C8], Instr.mwld 3 3 24 8),
    ([0xC0C0BFCC], Instr.hfstep 63 5 24),
    ([0x0056A073, 0x00000000], Instr.hclean 0 53 10),
    ([0x00E8CEF3, 0x00000000], Instr.hclean 29 6 29),
    ([0x02029EF3, 0x00000000], Instr.hfact 61 20 0),
    ([0x00CB0672, 0x00000002], Instr.cpy 12 24 25 2 0 0),
    ([0x0278CA72, 0x0001B007], Instr.cpys 20 6 15 7 0 0 4 13),
    ([0x02E04872, 0x00017CFA], Instr.cpys 16 2 28 10 1 7 7 11),
    ([0x04A08A72, 0x0003440B], Instr.cpyx 20 4 20 11 0 0 1 26),
    ([0x045A26F2, 0x00053E2A], Instr.cpyx 13 17 11 10 0 17 7 41),
    ([0x0890BFF4, 0x00000000], Instr.srtrav 63 5 9),
    ([0x0ACB0CF4, 0x00000000], Instr.srdense 25 24 25 0 0)] : List (List Word32 × Instr)), p.2.wellFormed = false := by
  decide

theorem test_decode_refuses_ill_formed : ∀ w ∈ ([
    [0x0001C08F], [0xC3ABD00F], [0x00000070, 0x0000D91B], [0x000000F0, 0xD5E7F1A9], [0xC03B011C], [0xF07CF01C],
    [0xCCA80E1C], [0xA4DF609C], [0xC11E089C], [0xD55EF01C], [0xC9B04F1C], [0xF9DC941C],
    [0xDA0A7C1C], [0xEA47001C], [0xBF80001D], [0x8200001D], [0x0A00001D], [0x02C0001D],
    [0x1E01C723], [0x1A4CC023], [0x1E812F23], [0x18F15423], [0x1B02AF23], [0x5D4D37A3],
    [0xCF629B23], [0x1BA953A3], [0x20058EB0], [0x2000C6B0], [0x200340B0], [0x40000A30],
    [0x60000EB0], [0x6003C4B0], [0xA404543A], [0xAED5ED3A], [0x34E3FFBE], [0xE0000043],
    [0x60F80148], [0xC04307C8], [0xC0C0BFCC], [0x0056A073, 0x00000000], [0x00E8CEF3, 0x00000000], [0x02029EF3, 0x00000000],
    [0x00CB0672, 0x00000002], [0x0278CA72, 0x0001B007], [0x02E04872, 0x00017CFA], [0x04A08A72, 0x0003440B], [0x045A26F2, 0x00053E2A], [0x0890BFF4, 0x00000000],
    [0x0ACB0CF4, 0x00000000]] : List (List Word32)), Refused w := by
  simp only [List.forall_mem_cons, List.not_mem_nil, false_implies, implies_true, and_true]
  refine ⟨?_, ?_, ?_, ?_, ?_, ?_, ?_, ?_, ?_, ?_, ?_, ?_, ?_, ?_, ?_, ?_, ?_, ?_, ?_, ?_, ?_, ?_, ?_, ?_, ?_, ?_, ?_, ?_, ?_, ?_, ?_, ?_, ?_, ?_, ?_, ?_, ?_, ?_, ?_, ?_, ?_, ?_, ?_, ?_, ?_, ?_, ?_, ?_, ?_⟩ <;> exact ⟨_, rfl⟩

/-! Reserved majors, unlisted function values, nonzero fields that must be zero. -/

theorem test_decode_refuses_reserved : ∀ w ∈ ([
    0x00000000, 0x0064960C, 0x013840B2, 0x00000017, 0x00000025, 0x0000002F, 0x0000003F, 0x00000045,
    0x00000047, 0x00000049, 0x0000004D, 0x00000051, 0x00000053, 0x00000055, 0x0000006F, 0x00000076,
    0x0000007F, 0x05800001, 0xC2400030, 0x0240000B, 0x0180001E, 0x6000001F, 0x01800024, 0x80000035] : List Word32), Refused [w, 0] := by
  simp only [List.forall_mem_cons, List.not_mem_nil, false_implies, implies_true, and_true]
  refine ⟨?_, ?_, ?_, ?_, ?_, ?_, ?_, ?_, ?_, ?_, ?_, ?_, ?_, ?_, ?_, ?_, ?_, ?_, ?_, ?_, ?_, ?_, ?_, ?_⟩ <;> exact ⟨_, rfl⟩

/-! ## Single steps -/

/-- The state after an outcome; the reset state where there is none. -/
def after : Res → State
  | .next s => s
  | _ => State.reset

/-- The state in which an instruction has run. -/
noncomputable def run (i : Instr) (s : State) : State := after (exec i s)

/-- A page of device memory that a hart may do everything with. -/
def page (vpn frame : Nat) : TlbEntry :=
  { vpn := vpn, frame := frame, cls := .device, r := true, w := true, x := true, u := true, g := false, dirty := true }

/-- A running hart in U at 0x1000, with handler 0x8000, one pavilion, and the page at 0x2000 in device memory. -/
def base : State :=
  { hart := { status := .running, pc := 0x1000, rb0 := 512, tlb := [page 2 0x2000], trap := { tvec := 0x8000 } } }

/-- The hart in S. -/
def super : State := { base with hart := { base.hart with priv := .s } }

/-- The hart with some x registers. -/
def withX (l : List (BitVec 5 × Word)) : State := l.foldl (fun s p => s.setX p.1 p.2) base

/-- The hart with some VL, some VTYPE and some v registers: number, tag, elements from 0 up. -/
def withV (vl : Nat) (vt : VType) (l : List (BitVec 6 × Tag × List Nat)) : State :=
  l.foldl (fun s p => s.setV p.1 { tag := p.2.1, data := packItems (8 * tagWidth p.2.1) p.2.2 })
    (base.setVec { base.hart.vec with vl := vl, vtype := vt })

/-- The elements of a register. -/
def elems (s : State) (r : BitVec 6) (t : Tag) (n : Nat) : List Nat := (List.range n).map fun i => (s.v r).elem t i

/-! ### Integers (R45 to R50) -/

theorem test_add_wraps : (run (.add 3 1 2) (withX [(1, 0xFFFFFFFFFFFFFFFF), (2, 2)])).x 3 = 1 := by decide
theorem test_write_of_x0 : (run (.addi 0 1 5) (withX [(1, 7)])).x 0 = 0 := by decide
theorem test_sltiu_extends : (run (.sltiu 3 1 0x7FFF) (withX [(1, 5)])).x 3 = 1 := by decide
theorem test_shifts : (run (.sra 3 1 2) (withX [(1, 0x8000000000000000), (2, 0x47F)])).x 3 = 0xFFFFFFFFFFFFFFFF ∧
    (run (.slli 3 1 63) (withX [(1, 3)])).x 3 = 0x8000000000000000 := by decide
theorem test_counts : (run (.clz 3 1) (withX [])).x 3 = 64 ∧ (run (.ctz 3 1) (withX [(1, 0x50)])).x 3 = 4 ∧
    (run (.popc 3 1) (withX [(1, 0xFF01)])).x 3 = 9 := by decide
theorem test_lui_auipc : (run (.lui 3 0x80000) base).x 3 = 0xFFFFFFFF80000000 ∧ (run (.auipc 3 1) base).x 3 = 0x2000 := by decide
theorem test_li : (run (.li 5 1 0x80000000) base).x 5 = 0x80000000 ∧ (run (.li 5 0 0x80000000) base).x 5 = 0xFFFFFFFF80000000 ∧
    (run (.li 5 0 0) base).hart.pc = 0x1008 := by decide
theorem test_division : (run (.div 3 1 2) (withX [(1, -7), (2, 2)])).x 3 = -3 ∧ (run (.rem 3 1 2) (withX [(1, -7), (2, 2)])).x 3 = -1 ∧
    (run (.div 3 1 2) (withX [(1, 5)])).x 3 = -1 ∧ (run (.rem 3 1 2) (withX [(1, 5)])).x 3 = 5 := by decide
theorem test_division_overflow : (run (.div 3 1 2) (withX [(1, 0x8000000000000000), (2, -1)])).x 3 = 0x8000000000000000 ∧
    (run (.rem 3 1 2) (withX [(1, 0x8000000000000000), (2, -1)])).x 3 = 0 := by decide
theorem test_high_products : (run (.mulh 3 1 1) (withX [(1, -1)])).x 3 = 0 ∧
    (run (.mulhu 3 1 1) (withX [(1, -1)])).x 3 = 0xFFFFFFFFFFFFFFFE ∧ (run (.mulhsu 3 1 1) (withX [(1, -1)])).x 3 = -1 := by decide

/-! ### Control (R51 to R57) -/

theorem test_branch_back : (run (.bge 1 2 0xFFE) (withX [(1, 3), (2, -3)])).hart.pc = 0xFF8 ∧
    (run (.bgeu 1 2 0xFFE) (withX [(1, 3), (2, -3)])).hart.pc = 0x1004 := by decide
theorem test_jalr_reads_first : let t := run (.jalr 1 1 0) (withX [(1, 0x3000)]); t.hart.pc = 0x3000 ∧ t.x 1 = 0x1004 := by decide
theorem test_jalr_misaligned : let t := run (.jalr 1 2 1) (withX [(2, 0x3001)])
    t.hart.pc = 0x8000 ∧ t.hart.trap.cause = 0x03 ∧ t.hart.trap.tval = 0x3002 ∧ t.x 1 = 0 := by decide
theorem test_loop_sets_up : let t := run (.loop 0 1 3) (withX [(1, 5)])
    t.hart.loops = { lb0 := 0x1004, le0 := 0x100C, lc0 := 5, lact := 1 } ∧ t.hart.pc = 0x1004 := by decide
theorem test_two_loops_end_together :
    let l : Loops := { lb0 := 0x0F00, le0 := 0x1000, lc0 := 3, lb1 := 0x0F80, le1 := 0x1000, lc1 := 1, lact := 3 }
    let t := run (.addi 0 0 0) (base.setLoops l)
    t.hart.pc = 0x0F00 ∧ t.hart.loops = { l with lc0 := 2, lc1 := 0, lact := 1 } := by decide
theorem test_branch_leaves_loop :
    let l : Loops := { lb0 := 0x0F00, le0 := 0x1000, lc0 := 3, lact := 1 }
    (run (.jal 0 4) (base.setLoops l)).hart.loops.lact = 0 ∧ (run (.jal 1 4) (base.setLoops l)).hart.loops.lact = 1 := by decide

/-! ### Scalar memory (R61 to R66) -/

theorem test_store_then_load :
    let s := run (.sd 3 1 0) (withX [(1, 0x2008), (3, 0x1122334455667788)])
    (run (.lb 4 1 0) s).x 4 = 0xFFFFFFFFFFFFFF88 ∧ (run (.lhu 4 1 6) s).x 4 = 0x1122 := by decide
theorem test_load_misaligned : let t := run (.ld 4 1 4) (withX [(1, 0x2000)])
    t.hart.trap.cause = 0x03 ∧ t.hart.trap.tval = 0x2004 ∧ t.hart.trap.tinfo2 = 0x0000000108000000 := by decide
theorem test_store_unmapped : let t := run (.sw 4 1 0) (withX [(1, 0x9000)])
    t.hart.trap.cause = 0x05 ∧ t.hart.trap.tval = 0x9000 ∧ t.hart.trap.tpc = 0x1000 := by decide
theorem test_amoadd_word : let s := run (.sw 3 1 0) (withX [(1, 0x2000), (3, -1), (5, 2)])
    let t := run (.amoadd 4 1 5 0 0 0) s
    t.x 4 = 0xFFFFFFFFFFFFFFFF ∧ t.dev.read 0x2000 4 = 1 := by decide
theorem test_amocas_fails : let s := run (.sd 3 1 0) (withX [(1, 0x2000), (3, 9), (4, 8), (5, 2)])
    let t := run (.amocas 4 1 5 1 0 0) s
    t.x 4 = 9 ∧ t.dev.read 0x2000 8 = 9 := by decide

/-! ### Scalar floating point (R73, R75: the manual's table) -/

/-- X[3] and the flags after a conversion or an operation. -/
noncomputable def fp (i : Instr) (rm : Rm) (a b : Word) : Word × BitVec 5 :=
  let s := withX [(1, a), (2, b)]
  let t := run i { s with hart := { s.hart with fcsr := { rm := rm } } }
  (t.x 3, t.hart.fcsr.flags)
theorem test_fcvtws : fp (.fcvtws 3 1) .rne 0xC0600000 0 = (-4, 1) ∧ fp (.fcvtws 3 1) .rtz 0xC0600000 0 = (-3, 1) ∧
    fp (.fcvtws 3 1) .rne 0x4F32D05E 0 = (0x7FFFFFFF, 16) := by decide
theorem test_fcvtwus : fp (.fcvtwus 3 1) .rne 0xBF800000 0 = (0, 16) ∧ fp (.fcvtwus 3 1) .rne 0xBE800000 0 = (0, 1) ∧
    fp (.fcvtwus 3 1) .rne 0x4F9502F9 0 = (0xFFFFFFFFFFFFFFFF, 16) := by decide
theorem test_fcvtlud_nan : fp (.fcvtlud 3 1) .rne 0x7FF8000000000000 0 = (0xFFFFFFFFFFFFFFFF, 16) := by decide
theorem test_fmin : fp (.fminS 3 1 2) .rne 0x80000000 0 = (0x80000000, 0) ∧
    fp (.fminS 3 1 2) .rne 0x7FC00000 0x3F800000 = (0x3F800000, 0) := by decide
theorem test_fdiv_by_zero : fp (.fdivD 3 1 2) .rne 0x3FF0000000000000 0 = (0x7FF0000000000000, 8) := by decide
theorem test_fadd_rounds : fp (.faddS 3 1 2) .rne 0x4B800000 0x3F800000 = (0x4B800000, 1) ∧
    fp (.faddS 3 1 2) .rup 0x4B800000 0x3F800000 = (0x4B800001, 1) := by decide

/-! ### CSRs, traps and privilege (R41, R42, R81 to R84) -/

theorem test_csrrw_fcsr : let t := run (.csrrw 3 1 0x001) (withX [(1, 0xFFFFFFFFFFFFFF24)])
    t.x 3 = 0 ∧ t.hart.fcsr = { rm := .rtz, flags := 4 } := by decide
theorem test_csr_read_only : let t := run (.csrrw 3 1 0x010) (withX [(1, 1)])
    t.hart.trap.cause = 0x01 ∧ t.hart.trap.tval = 0x0020119F := by decide
theorem test_csr_supervisor_only : (run (.csrrs 3 0 0x140) base).hart.trap.cause = 0x01 ∧
    (run (.csrrs 3 0 0x140) super).hart.pc = 0x1004 := by decide
theorem test_ebreak : let t := run .ebreak base
    t.hart.pc = 0x8000 ∧ t.hart.priv = .s ∧ t.hart.trap.tpc = 0x1000 ∧ t.hart.trap.cause = 0x0E ∧ t.hart.trap.status.pprv = .u := by
  decide
theorem test_double_trap : let t := run .ebreak (run .ebreak base)
    t.hart.status = .stopped ∧ t.dev.blackBox.map Prod.snd = [.doubleTrap 0 0x0E 0x1000 0x0E] := by decide
theorem test_tret : let t := run .tret (run .ebreak base)
    t.hart.pc = 0x1000 ∧ t.hart.priv = .u ∧ t.hart.trap.status.eip = false := by decide
theorem test_tret_in_u : (run .tret base).hart.trap.tval = 0x0080001E := by decide

/-! ### Vector instructions: the manual's worked examples -/

/-- R129's elements 100 and 50. -/
theorem test_vadd_saturates :
    let s (sat : Bool) := withV 1 { sat := sat } [(1, .i8, [100]), (2, .i8, [50])]
    let t := run (.vaddV 3 1 2 0) (s true)
    elems (run (.vaddV 3 1 2 0) (s false)) 3 .i8 1 = [0x96] ∧ elems t 3 .i8 1 = [0x7F] ∧ t.hart.vec.vtype.satf = true := by decide
/-- R132's residues of 1,500 and 1,000; R133's 0x0F4A, which stands for 100. -/
theorem test_residues :
    elems (run (.vaddV 3 1 2 0) (withV 1 {} [(1, .rn12, [0x04C0]), (2, .rn12, [0x0E8A])])) 3 .rn12 1 = [0x014A] ∧
    elems (run (.vcvt 3 1 3 0) (withV 1 {} [(1, .rn12, [0x0F4A])])) 3 .i32 1 = [100] := by decide

/-- The example across lanes: v4 holds 3, −1, 4, 1, −5, 9, 2, 6 and p1 selects elements 0, 2, 4, 5 and 7. -/
def lanes : State :=
  let s := withV 8 { etag := .f32 } [(4, .f32, [0x40400000, 0xBF800000, 0x40800000, 0x3F800000, 0xC0A00000, 0x41100000, 0x40000000,
    0x40C00000])]
  (s.setP 1 0xB5).setX 6 3
theorem test_vcompress : elems (run (.vcompress 5 4 1) lanes) 5 .f32 6 =
    [0x40400000, 0x40800000, 0xC0A00000, 0x41100000, 0x40C00000, 0] := by decide
theorem test_vscan : elems (run (.vscan 6 4 1) lanes) 6 .f32 8 =
    [0x40400000, 0, 0x40E00000, 0, 0x40000000, 0x41300000, 0, 0x41880000] := by decide
theorem test_vredsum : elems (run (.vredsum 8 4 1) lanes) 8 .f32 1 = [0x41880000] := by decide
theorem test_vredmaxi : let t := run (.vredmaxi 7 4 1) lanes; elems t 7 .i32 1 = [5] ∧ (t.v 7).tag = .i32 := by decide
theorem test_vslidedn : elems (run (.vslidedn 9 4 6 0) lanes) 9 .f32 8 =
    [0x3F800000, 0xC0A00000, 0x41100000, 0x40000000, 0x40C00000, 0, 0, 0] := by decide
theorem test_pfirst : (run (.pfirst 2 1 0) (lanes.setP 1 0xB4)).p 2 8 = 4 ∧ (run (.psetvl 3 1 0) lanes).hart.vec.vl = 1 := by decide

/-- The strided fault: the page at 0x1000 of the example is here 0x3000, the first element at 0x2FC0. -/
theorem test_strided_fault :
    let s := ((withV 16 { etag := .f64 } [(2, .f64, [])]).setX 5 0x2FC0).setX 6 24
    let t := run (.vlds 2 5 6 0 0) s
    t.hart.trap.cause = 0x04 ∧ t.hart.trap.tstart = 3 ∧ t.hart.trap.tval = 0x3008 ∧ t.hart.trap.tinfo0 = 0x2FC0 ∧
      t.hart.trap.tinfo1 = 24 ∧ t.hart.trap.tinfo2 = 0x0000000D28000000 := by decide

/-- Collision and combination. -/
def collide : State :=
  (withV 4 { etag := .i32 } [(3, .i32, [10, 20, 30, 40]), (7, .i32, [3, 1, 3, 0])]).setX 10 0x2000
/-- The four words. -/
def words (s : State) : List Nat := (List.range 4).map fun i => s.dev.read (0x2000 + 4 * i) 4
theorem test_vstx_collides : words (run (.vstx 3 10 7 0 0) collide) = [40, 20, 0, 30] := by decide
theorem test_vcadd_combines :
    let s := collide.setV 7 { tag := .i32, data := packItems 32 [3, 1, 2, 0] }
    words (run (.vcadd 3 10 7 0 0) (run (.vstx 3 10 7 0 0) s)) = [80, 40, 60, 20] := by decide

/-- The bundle of two: counters of v20, then their signs with v22 breaking ties, then a distance. -/
def bundle : State := withV 64 { etag := .hc } [(1, .hb, [0x5C5C5C5C, 0x5C5C5C5C]), (2, .hb, [0x1B1B1B1B, 0x1B1B1B1B]), (20, .hc, []),
  (22, .hb, [0, 0])]
/-- After both items. -/
noncomputable def bundled : State := run (.hacc 20 2 0) (run (.hacc 20 1 0) bundle)
theorem test_hacc : (bundled.v 20).elem .f64 0 = 0x020002FEFE000000 ∧ (bundled.v 20).elem .f64 7 = 0x020002FEFE000000 := by decide
set_option maxRecDepth 4000 in
theorem test_hsign : elems (run (.hsign 21 20 22 0) bundled) 21 .hb 2 = [0x18181818, 0x18181818] := by decide
set_option maxRecDepth 4000 in
theorem test_hdist : (run (.hdist 7 21 1 0) (run (.hsign 21 20 22 0) bundled)).x 7 = 16 := by decide

/-! ### Synchronisation (R311, R312, R316) -/

/-- A hart of a gang that owns the registers from 0 up. -/
def ganged (l : List (BitVec 5 × Word)) : State :=
  { withX l with dev := { gangs := [{ id := 0, srfLen := 16384 }], nextId := 1 } }
theorem test_syfaa : let t := run (.syfaa 3 1 2 0 0) (ganged [(1, 16383), (2, 5)])
    t.x 3 = 0 ∧ (t.dev.srfHome 16383).value = 5 := by decide
theorem test_sy_index : (run (.syld 3 1 0 0) (ganged [(1, 16384)])).hart.trap.cause = 0x07 := by decide
theorem test_sybar_last : let t := run (.sybar 3 1 2 3 0) (ganged [(1, 5), (2, 1)])
    t.x 3 = 1 ∧ (t.dev.srfHome 5).value = 0x100000000 := by decide
theorem test_iwait : (run (.iwait 3 1 2) (run (.ipost 1 2) (ganged [(1, 0x1F), (2, 7)]))).x 3 = 7 := by decide

/-! ## A state and operands for the premises of each statement -/

/-- An outcome that is no error has a value. -/
theorem ok_of {ε α β : Type} {e : Except ε (α × β)} (h : e.isOk = true) : ∃ a b, e = .ok (a, b) := by
  cases e with
  | ok p => exact ⟨p.1, p.2, rfl⟩
  | error _ => cases h

theorem test_witness_ControlTransfers :
    ((withX [(2, 0x3003)]).x 2 + (1 : BitVec 15).signExtend 64).toNat % 4 = 0 ∧
    (withX [(2, 0x3003)]).hart.trap.status.eip = false ∧
    ((withX [(2, 0x3003)]).x 2 + (2 : BitVec 15).signExtend 64).toNat % 4 ≠ 0 := by decide

theorem test_witness_HardwareLoops :
    (withX [(1, 0xFFFFFFFFFFFFFFFF)]).x 1 ≠ 0 ∧ ((1 : BitVec 16).setWidth 64 : Word) ≠ 0 ∧
    ((withX []).x 1 = 0 ∧ ∃ w u, fetchWord (withX []) (base.hart.pc + (0x400 : BitVec 15).setWidth 64 * 4).toNat = .ok (w, u)) ∧
    (∃ f u, fetchWord (withX []) (base.hart.pc + (0x7FFF : BitVec 15).setWidth 64 * 4).toNat = .error (f, u) ∧
      u.hart.trap.status.eip = false) := by
  refine ⟨by decide, by decide, ⟨by decide, _, _, rfl⟩, _, _, rfl, by decide⟩

/-- Both loops active, ending at one address or not, with counts of one or more. -/
theorem test_witness_HardwareLoops_step :
    let l (e1 c0 c1 : Word) : Loops := { lb0 := 8, le0 := 16, lc0 := c0, lb1 := 4, le1 := e1, lc1 := c1, lact := 3 }
    let ends (l : Loops) (k : Bool) : Bool := if k then l.lact.getLsbD 1 && (16 : Word) == l.le1 else l.lact.getLsbD 0 && (16 : Word) == l.le0
    let i (l : Loops) : Bool := decide (l.lb0.toNat ≤ l.lb1.toNat)
    i (l 16 2 1) = false ∧ ends (l 16 2 1) false = true ∧ 1 < (l 16 2 1).lc0.toNat ∧
    ¬1 < (l 16 1 2).lc0.toNat ∧ ends (l 16 1 2) true = true ∧ 1 < (l 16 1 2).lc1.toNat ∧ ¬1 < (l 16 1 1).lc1.toNat ∧
    ends (l 20 1 1) true = false ∧ ends { l 16 1 1 with le0 := 20 } false = false ∧ ends { l 20 1 1 with le0 := 20 } true = false := by
  decide

/-- The hart with the page at 0x2000 behind tables at 0x10000, 0x11000 and 0x12000, and no cached translation. -/
def walked : State :=
  { base with
    hart := { base.hart with root := 0x10000, tlb := [] }
    dev := { mem := [(0x10000, 0x01), (0x10001, 0x10), (0x10002, 0x01), (0x11000, 0x01), (0x11001, 0x20), (0x11002, 0x01),
      (0x12000, 0x3D)] } }
set_option maxRecDepth 8000 in
theorem test_witness_TranslationFrame :
    base.memoryWf ∧ (∃ pl u, base.locate 0x2FF8 8 .load = .ok (pl, u)) ∧ (cached base.hart.tlb 0x2FF8 .load).isSome = true ∧
    (∃ pl u, base.locate Config.windowBase 8 .store = .ok (pl, u)) ∧ inWindow Config.windowBase = true ∧
    walked.memoryWf ∧ (∃ pl u, walked.locate 0x2FF8 8 .store = .ok (pl, u)) ∧ inWindow 0x2FF8 = false ∧
    (cached walked.hart.tlb 0x2FF8 .store).isSome = false := by
  refine ⟨by decide, ok_of ?_, by decide, ok_of ?_, by decide, by decide, ok_of (e := walked.locate 0x2FF8 8 .store) ?_, by decide, by decide⟩ <;> decide

/-- With an empty write-combining buffer, and outside the windows, a store disturbs no other. -/
theorem storesAlone_of {s : State} {pl : Place} {n : Nat} (h : s.core.wcb = []) (w : s.windowOf pl = none) : s.storesAlone pl n :=
  ⟨by simp [h], fun _ => ⟨fun _ => h, by simp [w]⟩⟩

/-- The last doubleword of the page. -/
def near : State := withX [(1, 0x2FF8), (4, 0x1122334455667788)]
/-- A load that was performed ahead read 5 there. -/
def nearEarly : State :=
  { near with hart := { near.hart with early := [{ elem := 0, key := 0x2FF8, size := 8, vector := false, value := 5, tainted := true }] } }
theorem test_witness_ScalarMemory :
    let va := near.x 1 + (0 : BitVec 15).signExtend 64
    let pl : Place := { key := 0x2FF8, cls := .device }
    (∀ p ∈ [(near, 0, false), (nearEarly, 5, true)],
      p.1.held va.toNat 8 = false ∧ va.toNat % 8 = 0 ∧ p.1.hart.tlb = near.hart.tlb ∧ p.1.dev = near.dev ∧
      (p.1.windowOf pl).any Window.isCut = false ∧ (p.1.arrived pl).watchHit va.toNat 8 .load = none ∧
      (p.1.arrived pl).seen false 0 pl.key 8 = some p.2) ∧
    Reaches near va 8 .load pl near ∧ Reaches nearEarly va 8 .load pl nearEarly ∧
    near.memoryWf ∧ Reaches near va 8 .store pl near ∧ near.watchHit va.toNat 8 .store = none ∧ pl.cls = .device ∧
    near.storesAlone pl 8 ∧ near.hart.prov = none ∧ pl.cls ≠ .scratch := by
  refine ⟨by decide, ⟨by decide, by decide, rfl, by decide⟩, ⟨by decide, by decide, rfl, by decide⟩, by decide,
    ⟨by decide, by decide, rfl, by decide⟩, by decide, rfl, storesAlone_of rfl rfl, rfl, by decide⟩

theorem test_witness_ScalarMisaligned :
    base.hart.trap.status.eip = false ∧ base.hart.detm.atom = false ∧
    let s := withX [(1, 0x2FFF)]
    s.held (s.x 1 + (0 : BitVec 15).signExtend 64).toNat 8 = false ∧ (s.x 1 + (0 : BitVec 15).signExtend 64).toNat % 8 ≠ 0 ∧
    s.held (s.x 1).toNat 8 = false ∧ (s.x 1).toNat % 8 ≠ 0 := by decide

theorem test_witness_ScalarAtomics :
    let pl : Place := { key := 0x2FF8, cls := .device }
    let q := near.settle pl 8
    near.memoryWf ∧ ¬(near.hart.detm.atom = true ∧ (3 : BitVec 5) ≠ 0) ∧
    ¬(AmoOp.swap = .swap ∧ (3 : BitVec 5) = 0 ∧ ((3 : BitVec 2) = 0 ∨ (3 : BitVec 2) = 2)) ∧
    ¬(AmoOp.swap = .swap ∧ (0 : BitVec 5) = 0 ∧ ((1 : BitVec 2) = 0 ∨ (1 : BitVec 2) = 2)) ∧
    Reaches near (near.x 1) 8 .atomic pl near ∧ (∀ op ∈ [AmoOp.swap, .cas, .add],
      amoAllowed op (scopeOf (3 : BitVec 3)) near.dev.hostAtomics pl.cls = true) ∧
    (near.windowOf pl).any Window.isCut = false ∧ q.viewPoison q.hart.ident.uid .scalar pl.key 8 = none ∧
    q.watchHit (near.x 1).toNat 8 .atomic = none ∧ q.postsHeld (scopeOf (3 : BitVec 3)) = false ∧ q.gang.replay ≠ 1 ∧
    near.viewPoison near.hart.ident.uid .scalar pl.key 8 = none ∧ near.watchHit (near.x 1).toNat 8 .atomic = none ∧
    near.postsHeld (scopeOf (3 : BitVec 3)) = false ∧
    near.storesAlone pl 8 ∧ (near.release (scopeOf (3 : BitVec 3))).storesAlone pl 8 := by
  refine ⟨by decide, by decide, by decide, by decide, ⟨by decide, by decide, rfl, by decide⟩, by decide, by decide, by decide, by decide,
    by decide, by decide, by decide, by decide, by decide, storesAlone_of rfl rfl, storesAlone_of rfl rfl⟩

/-- A NaN of each kind and size is decoded as one. -/
theorem test_witness_FloatingPoint :
    (3 : BitVec 5) ≠ 0 ∧
    let s := withX [(1, 0x7F800001), (2, 0x7FF8000000000000)]
    (fmtF32.decode ((s.x 1).toNat % 2 ^ 32)).isNan = true ∧ (fmtF32.decode ((s.x 1).toNat % 2 ^ 32)).isSnan = true ∧
    (fmtF64.decode (s.x 2).toNat).isNan = true ∧ (fmtF64.decode (s.x 2).toNat).isSnan = false := by decide

theorem test_witness_FloatComparisons : (3 : BitVec 5) ≠ 0 ∧
    let s := withX [(1, 0xFF800000), (2, 0x80000001)]
    fmtF32.decode ((s.x 1).toNat % 2 ^ 32) = .inf true ∧ fmtF32.decode ((s.x 2).toNat % 2 ^ 32) = .fin true 1 (-149) ∧
    (fmtF32.decode ((s.x 3).toNat % 2 ^ 32)).isNan = false := by decide

/-- The greatest number lies in the range under every mode; a little more does under the modes that round it back. -/
theorem test_range_of_f32 :
    let top : Int := (2 ^ 24 - 1) * 2 ^ 2304
    (fmtF32.decode fmtF32.maxFinite).scaled 2200 = some top ∧ fmtF32.inRange .rne top 1 ∧ fmtF32.inRange .rne (top + 1) 1 ∧
    ¬fmtF32.inRange .rne (top + 2 ^ 2303) 1 ∧ ¬fmtF32.inRange .rup (top + 1) 1 ∧ fmtF32.inRange .rdn (top + 1) 1 ∧
    fmtF32.inRange .rtz (2 * top) 1 := by
  unfold Fmt.inRange
  decide +kernel

/-- Two numbers of each size, the greatest and the least; the second is not zero. -/
theorem test_witness_CorrectRounding : (3 : BitVec 5) ≠ 0 ∧
    (let s := withX [(1, 0x7F7FFFFF), (2, 0x00000001)]
     ((fmtF32.decode ((s.x 1).toNat % 2 ^ 32)).scaled 2200).isSome = true ∧
     ((fmtF32.decode ((s.x 2).toNat % 2 ^ 32)).scaled 2200).any (fun y => decide (y ≠ 0) && decide (0 ≤ y)) = true) ∧
    let s := withX [(1, 0x7FEFFFFFFFFFFFFF), (2, 0x8000000000000001)]
    ((fmtF64.decode (s.x 1).toNat).scaled 2200).isSome = true ∧
    ((fmtF64.decode (s.x 2).toNat).scaled 2200).any (fun y => decide (y < 0)) = true := by decide +kernel

theorem test_witness_CsrAccess :
    csrAccess base.hart.priv 0x001 = .rw ∧ (∃ u, csrWrite base 0x001 0x9F = some u) ∧
    (csrAccess base.hart.priv 0x010 = .ro ∧ ((0 : BitVec 5) != 0) = false) ∧
    base.hart.trap.status.eip = false ∧ csrAccess base.hart.priv 0x140 = .none ∧
    (((1 : BitVec 5) != 0) = true ∧ csrAccess base.hart.priv 0x010 = .ro) ∧ csrAccess base.hart.priv 0x012 = .rw ∧
    csrWrite base 0x012 0x1F = none := by
  refine ⟨by decide, ⟨_, rfl⟩, by decide, by decide, by decide, by decide, by decide, by decide⟩

/-- The values next to those that a write refuses are taken, and the refused ones at the ends of their ranges are not. -/
theorem test_csr_refused_values :
    (∀ p ∈ [(0x001, 4 * 32), (0x012, 18), (0x012, 4 * 32), (0x012, 2 * 512), (0x014, 64), (0x014, 65536), (0x017, 2)],
      (csrWrite super p.1 (word p.2)).isSome = true) ∧
    ∀ p ∈ [(0x001, 5 * 32), (0x001, 7 * 32), (0x012, 19), (0x012, 31), (0x012, 5 * 32), (0x012, 7 * 32), (0x012, 3 * 512), (0x014, 0),
      (0x014, 32), (0x014, 65600), (0x017, 3), (0x010, 0), (0x100, 0), (0x150, 0)],
      (csrWrite super p.1 (word p.2)).isSome = false := by decide

theorem test_witness_CsrReadBack : ∀ c ∈ [0x001, 0x011, 0x017, 0x037, 0x14A], ∃ u, csrWrite super c 1 = some u := by
  simp only [List.forall_mem_cons, List.not_mem_nil, false_implies, implies_true, and_true]
  exact ⟨⟨_, rfl⟩, ⟨_, rfl⟩, ⟨_, rfl⟩, ⟨_, rfl⟩, ⟨_, rfl⟩⟩

theorem test_witness_TrapEntry :
    base.hart.trap.status.eip = false ∧ base.hart.status = .running ∧ (run .ebreak base).hart.trap.status.eip = true := by decide

theorem test_witness_TrapReturn :
    super.hart.priv = .s ∧ super.hart.trap.status.ctxv = false ∧ base.hart.trap.status.eip = false ∧
    base.hart.trap.status.ctxv = false ∧ (VType.unpack super.hart.trap.tvtype.toNat).isSome = true := by
  decide

theorem test_witness_IllegalTraps :
    base.hart.priv = .u ∧ base.hart.trap.status.eip = false ∧
    (∃ f va v, base.fetchInstr = .error (f, va, v) ∧ f.cause ≠ .watch ∧ v.hart.trap.status.eip = false) ∧
    inWindow (word Config.windowBase).toNat = true ∧ base.hart.fetchPin = none := by
  refine ⟨by decide, by decide, ⟨_, _, _, rfl, by decide, by decide⟩, by decide, by decide⟩

/-- The hart in S with a declared region of its context, whose pool is pinned by a translation dropped since or taken after. -/
def pinning (stale : Bool) : State :=
  { super with dev := { super.dev with regions := [{ addr := 0x2000, gang := 0, ctx := 0, home := 0, rank := 1, vtag := .i64, lims := [7]
                                                     pool := 0x4000, size := 768, pages := [4], sound := true
                                                     stale := stale }] } }
theorem test_witness_FencesAndWaits :
    (∀ s ∈ [base, { base with hart := { base.hart with detm := { drain := true } } }], ∀ sc : Scope,
      s.hart.late = [] ∧ (∀ e ∈ s.core.wcb, e.under = []) ∧ s.threadsPending = false ∧ (∀ e ∈ s.core.wcb, e.hart ≠ s.hart.ident.uid → e.prov = none) ∧
      (∀ r ∈ [s.vfence sc, s.fence 7 7 sc], (∀ e ∈ r.dev.combines, e.hart ≠ s.hart.ident.uid) ∧ r.postsHeld sc = false) ∧
      s.dev.combines = [] ∧ s.dev.windows = []) ∧ super.hart.priv = .s ∧
    (super.setTrap { super.hart.trap with status := { tpend := true } }).hart.trap.status.pending = true ∧
    super.hart.trap.status.pending = false ∧ (∀ e ∈ super.applyOwnCombines.dev.combines, e.hart ≠ super.hart.ident.uid) ∧
    super.core.trace = none ∧ super.hart.tfencing = false ∧ super.hart.late = [] ∧
    (∀ sc : Scope, (super.dropContext sc).longPin sc = false) ∧ super.parked = [] ∧ (∀ sc : Scope, (super.dropContext sc).parked = []) ∧
    (∀ sc : Scope, (let s := { super with hart := { super.hart with tfencing := true } }
      s.hart.tfencing = true ∧ s.longPin sc = false)) ∧
    (pinning true).longPin .core = false ∧ (pinning true).longPin .die = true ∧ (pinning false).longPin .die = false := by
  refine ⟨?_, by decide, by decide, by decide, by decide, by decide, by decide, by decide, ?_, by decide, ?_, ?_, by decide, by decide,
    by decide⟩
  · intro s hs sc
    simp only [List.mem_cons, List.not_mem_nil, or_false] at hs
    rcases hs with rfl | rfl <;> cases sc <;> decide
  all_goals
    intro sc
    cases sc <;> decide

/-- One index below the gang's window and one above it, and its two ends; a comparison of SYCAS that holds and one that fails. -/
def windowed : State :=
  { withX [(1, 99), (2, 100), (4, 109), (5, 110), (6, 1)] with
    dev := { gangs := [{ id := 0, srfBase := 100, srfLen := 10 }], nextId := 1 } }
theorem test_witness_SyncUpdates :
    let inside (r : BitVec 5) : Prop := (windowed.x r).toNat < 16384 ∧ windowed.gang.srfBase ≤ (windowed.x r).toNat ∧
      (windowed.x r).toNat < windowed.gang.srfBase + windowed.gang.srfLen
    windowed.hart.late = [] ∧ (∀ sc : BitVec 2, (windowed.release (syScopeOf sc)).postsHeld (syScopeOf sc) = false) ∧
    windowed.hart.trap.status.eip = false ∧ windowed.hart.detm.atom = false ∧ ¬inside 1 ∧ inside 2 ∧ inside 4 ∧ ¬inside 5 ∧
    (windowed.dev.srfHome 100).value = windowed.x 3 ∧ (windowed.dev.srfHome 100).value ≠ windowed.x 6 := by decide

/-- Index 108 is at home on the hart's die. -/
theorem test_witness_SyncReads :
    (108 : Nat) < 16384 ∧ windowed.gang.srfBase ≤ 108 ∧ 108 < windowed.gang.srfBase + windowed.gang.srfLen ∧
    homeDie 108 = windowed.hart.ident.die ∧ windowed.core.copies = [] ∧ windowed.hart.vec.vstart = 0 ∧
    ((withX [(1, 108)]).x 1).toNat = 108 ∧
    sparseGet 0 windowed.hart.srfSeen 108 ≤ (windowed.dev.srfAt windowed.hart.ident.die 108).version ∧
    sparseWf 0 0 windowed.hart.srfSeen = true ∧ windowed.gang.replay ≠ 1 ∧
    (windowed.dev.srfHome 108).set.testBit windowed.hart.ident.lhart = false ∧
    (windowed.x 6).toNat % 2 ^ 32 ≤ (windowed.dev.srfHome 108).value.toNat % 2 ^ 32 + 1 ∧
    (windowed.dev.srfHome 108).value.toNat % 2 ^ 32 + 1 < (windowed.x 2).toNat % 2 ^ 32 := by decide

/-- An index whose home is another die: the hart has written version 2, whose broadcast is on its way to the hart's die. A
barrier that the hart waits at, counted there or released. -/
theorem test_witness_SyncReads_waiting :
    (let s := { windowed with
       hart := { windowed.hart with srfSeen := [(101, 2)], ident := { windowed.hart.ident with core := 8, die := 1 } }
       dev := { windowed.dev with broadcasts := [(mirrorKey 1 101, { value := 1, set := 0, version := 2 })] } }
     homeDie 101 ≠ s.hart.ident.die ∧ sparseGet 0 s.hart.srfSeen 101 = 2 ∧ s.gang.srfBase ≤ 101 ∧
     101 < s.gang.srfBase + s.gang.srfLen ∧
     ∃ b ∈ s.dev.broadcasts, b.1 = mirrorKey s.hart.ident.die 101 ∧ sparseGet 0 s.hart.srfSeen 101 ≤ b.2.version) ∧
    (let s := windowed.setVstart 1
     s.hart.vec.vstart = 1 ∧ (s.readSrf 108).1.set.testBit s.hart.ident.lhart = false ∧ s.core.copies = []) ∧
    (let s := (after (exec (.sybar 3 1 2 0 0) ((windowed.setX 1 108))))
     s.hart.vec.vstart = 1 ∧ (s.readSrf 108).1.set.testBit s.hart.ident.lhart = true ∧ s.core.copies = []) := by decide

theorem test_witness_RingAndTasks :
    let s := { windowed with dev := { windowed.dev with prompt := true } }
    (∃ g, s.dev.gangs.find? (fun g => g.id == s.hart.ident.gang) = some g ∧
      (g.ring[(s.x 2).toNat % 16]?.getD 0).toNat < (s.x 6).toNat ∧ (s.x 0).toNat ≤ (g.ring[(s.x 2).toNat % 16]?.getD 0).toNat) ∧
    s.dev.prompt = true ∧ s.hart.late = [] ∧
    let t := (near.setX 3 0x2FC0)
    let q := { t with core := { t.core with tasks := [(0x2FC0, 0)] } }
    let done := (run (.tdone 3) t)
    t.memoryWf ∧ t.inOrder ∧ t.held ((t.x 3).toNat + 8) 8 = false ∧ (t.x 3).toNat % 64 = 0 ∧
    (∃ pl u, t.locate ((t.x 3).toNat + 8) 8 .store = .ok (pl, u) ∧ (u.windowOf pl).any Window.isCut = false ∧
      u.watchHit (t.x 3 + 8).toNat 8 .store = none ∧ u.storesAlone pl 8 ∧ t.hart.prov = none) ∧
    (2 : BitVec 5) ≠ 0 ∧ (q.core.tasks.findIdx? fun e => e.1 = q.x 3 && e.2 = q.hart.ident.gang) = some 0 ∧
    (done.core.tasks.findIdx? fun e => e.1 = done.x 3 && e.2 = done.hart.ident.gang) = none ∧
    done.hart.early = [] ∧
    (∃ pl u, done.locate ((done.x 3).toNat + 8) 8 .store = .ok (pl, u) ∧
      u.viewPoison u.hart.ident.uid .scalar pl.key 8 = none ∧ u.watchHit (done.x 3 + 8).toNat 8 .load = none ∧
      (u.arrived pl).viewPoison u.hart.ident.uid .scalar pl.key 8 = none ∧
      (u.arrived pl).view u.hart.ident.uid .scalar pl.key 8 ≠ 0) := by
  refine ⟨⟨_, rfl, by decide, by decide⟩, by decide, by decide, by decide, by decide, by decide, by decide,
    ⟨_, _, rfl, by decide, by decide, storesAlone_of rfl rfl, rfl⟩, by decide, by decide, by decide, by decide, ⟨_, _, rfl, by decide, by decide, by decide, by decide⟩⟩


/-- Three registers of bytes, a predicate and a scalar. -/
def bytes3 : State := withV 20 { etag := .i8 } [(1, .i8, [1, 2]), (2, .i8, [3]), (3, .i8, [])]
theorem test_witness_VectorArithmetic :
    let n := bytes3.range .i8 1
    bytes3.pause = none ∧ (bytes3.v 3).bound = none ∧ (bytes3.v 1).tag = .i8 ∧ fits bytes3 .i8 = true ∧
    (bytes3.v 1).readable bytes3.hart.vec.vstart n ∧ VecOp.add.defined (tagClass .i8) = true ∧ (bytes3.v 2).tag = .i8 ∧
    (bytes3.v 2).readable bytes3.hart.vec.vstart n := by decide

theorem test_witness_ElementValues :
    (255 < 2 ^ (8 * tagWidth .w8) ∧ tagClass .w8 = .w) ∧ (0 < 2 ^ (8 * tagWidth .i64) ∧ tagClass .i64 = .i) ∧
    2 ^ 32 - 1 < 2 ^ (8 * tagWidth .hb) ∧ 255 < 2 ^ (8 * tagWidth .hc) := by decide

/-- Numbers of F16 below, at and above zero, its infinities and NaNs; and a pair of tags of each kind of conversion. -/
theorem test_witness_ElementValues_floats :
    (let f := fmtOf .f16
     tagClass .f16 = .f ∧ ({} : VType).fz = .keep ∧ (∀ k ∈ [0, 0x3C00, 0xBC00, 0x7C00, 0xFC00, 0x7E00, 0x7D00], k < 2 ^ (8 * tagWidth .f16)) ∧
     (f.decode 0).scaled 2200 = some 0 ∧ ((f.decode 0x3C00).scaled 2200).any (fun x => decide (0 < x)) = true ∧
     ((f.decode 0xBC00).scaled 2200).any (fun x => decide (x < 0)) = true ∧ f.decode 0x7C00 = .inf false ∧ f.decode 0xFC00 = .inf true ∧
     (f.decode 0x7E00).isNan = true ∧ (f.decode 0x7D00).isNan = true ∧ (f.decode 0x3C00).isNan = false) ∧
    (∀ t ∈ [Tag.f8e4, .f8e5, .bf16, .f16, .f32, .f64], tagClass t = .f ∧ ((fmtOf t).decode (canonicalNan t)).isNan = true) ∧
    (∀ p ∈ [(Tag.i8, Tag.i64), (.i8, .f16), (.w8, .rn12), (.rn12, .i32), (.rn24, .f32), (.rn12, .rn24), (.f16, .f8e4), (.f32, .rn24),
       (.f64, .i8), (.f8e4, .w64)], convertible p.1 p.2 = true) := by decide +kernel

theorem test_witness_FusedAndUnary :
    let n := bytes3.range .i8 1
    bytes3.pause = none ∧ (bytes3.v 3).bound = none ∧ (bytes3.v 1).tag = .i8 ∧ (bytes3.v 1).readable bytes3.hart.vec.vstart n ∧
    fusedDefined (tagClass .i8) = true ∧ (bytes3.v 3).tag = .i8 ∧ (bytes3.v 3).readable bytes3.hart.vec.vstart n ∧
    (bytes3.v 2).tag = .i8 ∧ (bytes3.v 2).readable bytes3.hart.vec.vstart n ∧ fits bytes3 .i8 = true ∧
    UnOp.neg.defined (tagClass .i8) = true ∧ bytes3.hart.vec.vtype.etag = .i8 := by decide

theorem test_witness_VectorCompares :
    let n := bytes3.range .i8 1
    bytes3.pause = none ∧ (bytes3.v 1).tag = .i8 ∧ fits bytes3 .i8 = true ∧ (bytes3.v 1).readable bytes3.hart.vec.vstart n ∧
    relDefined .lt (tagClass .i8) = true ∧ relDefined .eq (tagClass .hb) = true ∧ (bytes3.v 2).tag = .i8 ∧
    (bytes3.v 2).readable bytes3.hart.vec.vstart n := by decide

/-- Sources of the other classes: a number and a NaN of F16, residues, counters and bits. -/
theorem test_witness_VectorCompares_classes :
    ({} : VType).fz = .keep ∧ ((fmtOf .f16).order 0x3C00).isSome = true ∧ ((fmtOf .f16).order 0xFC00).isSome = true ∧
    (fmtOf .f16).order 0x7D00 = none ∧ ((fmtOf .f16).decode 0x7D00).isSnan = true ∧ tagClass .rn24 = .rn ∧
    (∀ r : Rel, relDefined r .f = true) ∧ relDefined .eq .rn = true ∧ relDefined .ge .hc = true ∧ relDefined .ne .hb = true := by
  refine ⟨by decide, by decide, by decide, by decide, by decide, by decide, ?_, by decide, by decide, by decide⟩
  intro r
  cases r <;> rfl

theorem test_witness_Predicates : base.pause = none := rfl

theorem test_witness_VectorMoves :
    let n := bytes3.range .i8 1
    bytes3.pause = none ∧ (bytes3.v 3).bound = none ∧ (bytes3.v 1).tag = .i8 ∧ Tag.i8 ≠ .none ∧ fits bytes3 .i8 = true ∧
    (bytes3.v 1).readable bytes3.hart.vec.vstart n ∧ (bytes3.v 2).tag = .i8 ∧ (bytes3.v 2).readable bytes3.hart.vec.vstart n ∧
    bytes3.hart.vec.vtype.etag = .i8 ∧ convertible .i8 (tagField (3 : BitVec 5)) = true ∧
    (bytes3.v 1).readable bytes3.hart.vec.vstart (bytes3.range .i8 (max 1 (tagWidth (tagField (3 : BitVec 5))))) ∧ (bytes3.v 3).tag = .i8 ∧
    (bytes3.v 1).bound = none ∧ (511 < bytes3.vlmax 1 ∧ (bytes3.v 1).present 511 512 = true) ∧ ¬512 < bytes3.vlmax 1 := by decide

theorem test_witness_VectorConfiguration :
    (Instr.vcfg 18 1 4 2 1).wellFormed = true ∧ (Instr.vtag 18).wellFormed = true ∧ (Instr.vretag 63 18).wellFormed = true ∧
    (bytes3.v 63).bound = none ∧ (bytes3.v 63).absent = 0 ∧
    let m := { bytes3 with hart := { bytes3.hart with pavilions := 1, mat := { bytes3.hart.mat with granted := true } } }
    m.hart.mat.granted = true ∧ (run (.mmode 5 6) (m.setX 6 1)).hart.mat.mvl ≠ 0 ∧ (run (.mmode 5 6) (m.setX 6 1)).hart.mat.mvl ≠ m.hart.mat.mvl ∧ (run (.mmode 5 0) m).hart.mat.mvl = 0 := by
  decide

theorem test_witness_CrossLane :
    let n := bytes3.range .i8 1
    bytes3.pause = none ∧ (bytes3.v 3).bound = none ∧ (bytes3.v 1).tag = .i8 ∧ Tag.i8 ≠ .none ∧ fits bytes3 .i8 = true ∧
    (bytes3.v 1).readable 0 n ∧ (bytes3.v 2).tag = .i8 ∧ tagClass .i8 = .i ∧ (bytes3.v 2).readable 0 n ∧
    RedOp.sum.defined (tagClass .i8) = true ∧ bytes3.hart.vec.vtype.sat = false ∧ bytes3.hart.vec.vl ≠ 0 ∧
    (bytes3.selected 0 n).map (fun i => (bytes3.v 1).elem .i8 i) ≠ [] ∧ bytes3.selected 1 n = [] := by decide

/-- Two F16 numbers; and every class that each reduction has. -/
theorem test_witness_CrossLane_floats :
    let s := withV 2 {} [(1, .f16, [0x3C00, 0xBC00]), (3, .i8, [])]
    let n := s.range .f16 2
    (s.v 3).bound = none ∧ (s.v 1).tag = .f16 ∧ (s.v 1).readable 0 n ∧ tagClass .f16 = .f ∧ s.hart.vec.vtype.fz = .keep ∧
    s.hart.vec.vl ≠ 0 ∧ (s.selected 0 n).map (fun i => (s.v 1).elem .f16 i) = [0x3C00, 0xBC00] ∧
    (∀ k ∈ [0x3C00, 0xBC00], (((fmtOf .f16).decode k).scaled 2200).isSome = true) ∧ s.selected 1 n = [] ∧
    (s.setVec { s.hart.vec with vl := 0 }).hart.vec.vl = 0 ∧ RedOp.sum.defined .rn = true ∧ RedOp.sum.defined .f = true ∧
    RedOp.and.defined .w = true := by decide +kernel

/-- Tags that differ, agree, and have no such operation; a bound destination. -/
theorem test_witness_VectorChecks :
    bytes3.hart.trap.status.eip = false ∧ (bytes3.v 1).tag ≠ (bytes3.v 4).tag ∧ (bytes3.v 4).tag = .none ∧
    ((bytes3.v 1).tag ≠ .none ∧ (bytes3.v 1).tag = (bytes3.v 2).tag ∧ VecOp.add.defined (tagClass (bytes3.v 1).tag) = true) ∧
    VecOp.and.defined (tagClass .f32) = false ∧ fits bytes3 (bytes3.v 1).tag = true ∧
    ((bytes3.setV 3 { tag := .i8, bound := some 0 }).v 3).bound ≠ none ∧
    (let s := (withV 1 {} [(1, .hb, []), (2, .hb, [])]).setVec { hdim := 8192 }
     fits s (s.v 1).tag = false ∧ (Instr.vxorV 3 1 2 0, Tag.hb, true, true) ∈ elementForms s 3 1 2 0 0 0 0) ∧
    (Instr.vaddV 3 1 2 0, Tag.i8, true, true) ∈ elementForms bytes3 3 1 2 0 0 0 0 ∧
    (Instr.vaddV 3 1 4 0, Tag.none, false, true) ∈ elementForms bytes3 3 1 4 0 0 0 0 ∧ ({} : VType).etag = .none := by decide

theorem test_witness_StopAndResume :
    let n := bytes3.range .i8 1
    (bytes3.v 1).tag = .i8 ∧ (bytes3.v 2).tag = .i8 ∧ fits bytes3 .i8 = true ∧ (bytes3.v 3).bound = none ∧
    (∀ r : BitVec 6, r ∈ [1, 2, 3] → (bytes3.v r).readable bytes3.hart.vec.vstart n) ∧
    bytes3.hart.vec.vstart < 31 / 16 * 16 ∧ 31 / 16 * 16 < n ∧ 31 / 16 * 16 < bytes3.hart.vec.vl ∧
    bytes3.hart.vec.vtype.etag = .i8 ∧
    (∀ i ∈ [Instr.vsraV 3 1 2 0, .vaddW 3 1 0 0, .vfmaV 3 1 2 0, .vneg 3 1 0, .vmv 3 1 0, .vsel 3 1 2 0, .vcvt 3 1 1 0, .vcmpltV 5 1 2 0],
      (elementForms bytes3 3 1 2 5 0 0 1).any (fun p => p.1 == i && p.2.2.1) = true) := by decide

/-- Two words at the end of the page, and a register of indices. -/
def ends2 : State := ((withV 2 { etag := .i32 } [(3, .i32, [10, 20]), (7, .i32, [0, 1])]).setX 10 0x2FF8).setX 9 4
theorem pinned_ends2 (acc : Acc) (h : acc = .load ∨ acc = .store ∨ acc = .atomic) :
    OnPinnedPages ends2 acc 4 (ends2.selected 0 2) (fun i => ends2.x 10 + word (4 * i)) (fun i => 0x2FF8 + 4 * i) := by
  have e : ends2.selected 0 2 = [0, 1] := by decide
  rw [OnPinnedPages, e]
  simp only [List.forall_mem_cons, List.not_mem_nil, false_implies, implies_true, and_true]
  rcases h with rfl | rfl | rfl <;> exact ⟨⟨by decide, rfl, by decide, by decide⟩, by decide, rfl, by decide, by decide⟩
theorem test_witness_VectorLoads :
    ends2.hart.vec.vtype.etag = .i32 ∧ Tag.i32 ≠ .none ∧ ends2.dev.combines = [] ∧ fits ends2 .i32 = true ∧
    (ends2.v 2).bound = none ∧ (ends2.v 2).absent = 0 ∧ ends2.pause = none ∧ ends2.hart.load = none ∧ ends2.core.flying = false ∧
    (ends2.hart.late = [] ∧ ends2.hart.pinned = none ∧ ends2.resumes = false) ∧
    (tagClass (ends2.v 7).tag = .i ∧ (ends2.v 7).bound.isNone = true ∧ (ends2.v 7).present ends2.hart.vec.vstart 2 = true) ∧
    ends2.range .i32 4 = 2 ∧
    OnPinnedPages ends2 .load 4 (ends2.selected 0 2) (fun i => ends2.x 10 + word (4 * i)) (fun i => 0x2FF8 + 4 * i) ∧
    ∀ i ∈ ends2.selected 0 2, (ends2.seen true i (0x2FF8 + 4 * i) 4).map Prod.fst = some 0 :=
  ⟨by decide, by decide, by decide, by decide, by decide, by decide, by decide, by decide, by decide, by decide, by decide, by decide,
    pinned_ends2 .load (.inl rfl), by decide⟩

/-- The same load while loads return one element at a time: issued, with both elements outstanding, and with none left. -/
def flying2 : State := { ends2 with core := { ends2.core with flying := true } }
theorem test_witness_VectorLoads_flying :
    flying2.core.flying = true ∧ flying2.hart.vec.vstart < flying2.range .i32 4 ∧ flying2.dev.combines = [] ∧
    (let u := after (exec (.vld 5 10 0 0) flying2)
     u.hart.load.any (fun l => l.reg == 5 && l.width == 4 && !l.ordered && l.strip.isNone && l.fails.isEmpty &&
       (l.items[(1 : Nat)]?).any fun e => e.window.isNone && decide ((u.seen true e.i e.key 4).map Prod.fst = some 0)) = true ∧
     (after (exec (.loadDataReturn 0) (after (exec (.loadDataReturn 1) u)))).hart.load.any
       (fun l => l.reg == 5 && l.items.isEmpty && l.fails.isEmpty && l.strip.isNone) = true) := by decide +kernel

theorem test_witness_VectorStores :
    ends2.memoryWf ∧ (ends2.v 3).tag = .i32 ∧ Tag.i32 ≠ .none ∧ fits ends2 .i32 = true ∧ ends2.pause = none ∧ ends2.core.wcb = [] ∧
    ends2.dev.combines = [] ∧ ends2.hart.prov = none ∧ (ends2.hart.pinned = none ∧ ends2.inOrder) ∧ (ends2.v 3).readable ends2.hart.vec.vstart (ends2.range .i32 4) ∧
    OnPinnedPages ends2 .store 4 (ends2.selected 0 2) (fun i => ends2.x 10 + word (4 * i)) (fun i => 0x2FF8 + 4 * i) :=
  ⟨by decide, by decide, by decide, by decide, by decide, by decide, by decide, by decide, by decide, by decide, pinned_ends2 .store (.inr (.inl rfl))⟩

theorem test_witness_VectorUpdates :
    let s := { ends2 with core := { ends2.core with eager := true } }
    s.memoryWf ∧ (s.v 3).tag = .i32 ∧ fits s .i32 = true ∧ s.pause = none ∧ s.core.wcb = [] ∧ s.dev.combines = [] ∧
    s.core.eager = true ∧ (s.hart.late = [] ∧ s.hart.pinned = none) ∧ tagClass (s.v 7).tag = .i ∧ (s.v 7).readable s.hart.vec.vstart (s.range .i32 4) ∧
    (s.v 3).readable s.hart.vec.vstart (s.range .i32 4) ∧ CombineOp.or.defined .i32 = true ∧ s.hart.detm.atom = false ∧
    (∀ i ∈ s.selected 0 2, s.dev.poisoned (0x2FF8 + 4 * i) 4 = none) ∧ s.selected 0 2 ≠ [] ∧
    (∀ i ∈ s.selected 0 2, ∀ j ∈ s.selected 0 2, i ≠ j → 0x2FF8 + 4 * i + 4 ≤ 0x2FF8 + 4 * j ∨ 0x2FF8 + 4 * j + 4 ≤ 0x2FF8 + 4 * i) ∧
    OnPinnedPages ends2 .atomic 4 (ends2.selected 0 2) (fun i => ends2.x 10 + word (4 * i)) (fun i => 0x2FF8 + 4 * i) :=
  ⟨by decide, by decide, by decide, by decide, by decide, by decide, by decide, by decide, by decide, by decide, by decide, by decide,
    by decide, by decide, by decide, by decide, pinned_ends2 .atomic (.inr (.inr rfl))⟩

/-- A record at 0x2000: two words from 0x2FF8 on, stride 4, format F32 in register and memory, depth 1; one
page block of scratchpad. -/
def streamed : State :=
  { (withX [(1, 0x2000)]) with
    core := { base.core with pb0 := 0, pb1 := 1 }
    dev := { mem := [(0x2000, 0xF8), (0x2001, 0x2F), (0x2008, 4), (0x2010, 2), (0x2018, 13), (0x2019, 13), (0x2038, 1)] } }
/-- The slot after VBIND, with its two elements in the strip buffer or not. -/
def slotted (l : List Nat) : Binding :=
  { reg := 9, base := 0x2FF8, stride := 4, length := 2, smode := 0, ttag := .f32, mtag := .f32, sbase := 0, group := 0
    strips := 0, sbuf := 0, consumed := 0, depth := 1, streamEnd := false
    buffer := l.map fun i => { e := 0 + i, raw := i, scale := 0, taint := false, failure := none, onScale := false }
    spoiled := false }
/-- The state in which register 9 is bound. -/
def boundTo (b : Binding) : State :=
  let s := withV 2 { etag := .f32 } [(9, .f32, [])]
  let s := s.setV 9 { tag := .f32, bound := some 3 }
  { s with hart := { s.hart with streams := s.hart.streams.set 3 (some b) } }
theorem test_witness_Streams :
    (streamed.stream 3 = none ∧ (streamed.v 9).bound = none ∧ (streamed.x 1).toNat % 64 = 0 ∧
      (match readWords (streamed.x 1).toNat (recordReadFrame (streamed.x 1)) 0 8 streamed with
       | .ok ((q, _), _) => recordValid (fun i => q.getD i 0) streamed.core.scratchSize streamed.rb
       | .error _ => false) = true) ∧
    ((boundTo (slotted [])).stream 3 = some (slotted []) ∧ (slotted []).reg = 9 ∧ (slotted []).buffer = [] ∧
      (slotted []).consumed < (slotted []).length ∧
      0 < (slotted []).depth * (boundTo (slotted [])).range (slotted []).ttag (tagWidth (slotted []).ttag)) ∧
    (let b := slotted [0, 1]
     let s := boundTo b
     s.pause = none ∧ (s.v 8).bound = none ∧ (s.v 9).bound = some 3 ∧ s.stream 3 = some b ∧ (s.v 9).tag = b.ttag ∧ b.ttag ≠ .none ∧
     fits s b.ttag = true ∧ b.spoiled = false ∧ b.consumed + s.range b.ttag (tagWidth b.ttag) ≤ b.length ∧
     b.buffer = (List.range (s.range b.ttag (tagWidth b.ttag))).map (fun i =>
       { e := b.consumed + i, raw := i, scale := 0, taint := false, failure := none, onScale := false })) := by
  refine ⟨⟨by decide, by decide, by decide, ?_⟩, by decide, by decide⟩
  decide +kernel


/-- Doublewords at addresses. -/
def filled (l : List (Nat × Nat)) : List Host.Cell := l.foldl (fun m p => Memory.writeN m p.1 (bytesOf 8 p.2)) []

/-- The access lies at its own address and leaves the state as it is. -/
def plainAt (s : State) (va w : Nat) (acc : Acc) : Bool :=
  match s.locate va w acc with
  | .ok (pl, u) => decide (pl = { key := va, cls := .device }) && decide (u = s)
  | .error _ => false

theorem plainAt_spec {s : State} {va w : Nat} {acc : Acc} (h : plainAt s va w acc = true) :
    s.locate va w acc = .ok ({ key := va, cls := .device }, s) := by
  unfold plainAt at h
  split at h
  · rename_i pl u e
    simp only [Bool.and_eq_true, decide_eq_true_eq] at h
    rw [e, h.1, h.2]
  · cases h

/-- The premises of InPlainMemory, at its own address. -/
def plainMem (s : State) (va n w : Nat) : Bool :=
  decide (s.core.wcb = []) && decide (s.dev.combines = []) && decide (s.hart.early = []) && decide (s.hart.late = []) &&
  (List.range n).all fun i =>
    plainAt s (va + w * i) w .load && decide (s.dev.poisoned (va + w * i) w = none) && !s.dev.rangeTainted (va + w * i) w &&
      !s.held (s.pageBytes (va + w * i)).1 (s.pageBytes (va + w * i)).2 && decide (s.watchHit (va + w * i) w .load = none)

theorem plainMem_spec {s : State} {va n w : Nat} (h : plainMem s va n w = true) :
    InPlainMemory s va n w (fun i => va + w * i) := by
  simp only [plainMem, Bool.and_eq_true, decide_eq_true_eq, Bool.not_eq_true', List.all_eq_true, List.mem_range] at h
  exact ⟨h.1.1.1.1, h.1.1.1.2, h.1.1.2, h.1.2, fun i hi => ⟨plainAt_spec (h.2 i hi).1.1.1.1, (h.2 i hi).1.1.1.2, (h.2 i hi).1.1.2,
    (h.2 i hi).1.2, (h.2 i hi).2⟩⟩

/-- Matrix mode with tiles of two by two, their tags and the tags of two sources. -/
def tiles (n : Nat) (acc ta : Tag) : State :=
  let s := withV 4 {} [(1, ta, [1, 2, 3, 4]), (2, ta, [5, 6, 7, 8]), (56, .f32, [])]
  { s with hart := { s.hart with mat := { granted := true, mvl := 64, m := n, n := n, k := 2
                                          tiles := Vector.replicate 4 { tag := acc } } } }
theorem test_witness_MatrixTiles :
    (let s := tiles 2 .f32 .f32
     let m := s.hart.mat
     m.mvl ≠ 0 ∧ m.small = true ∧ m.m ≤ 2 * m.mvl ∧ m.n ≤ 2 * m.mvl ∧ (∀ q ∈ m.blocks 0, (s.v (scaleReg q)).bound = none) ∧
     (s.v 1).tag = .f32 ∧ (s.v 2).tag = .f32 ∧ (s.v 1).readable 0 m.m ∧ (s.v 2).readable 0 m.n ∧
     (∀ q ∈ m.blocks 0, (m.tile q).tag ∈ [Tag.f32, .i32, .rn12, .rn24] ∧ (s.v (scaleReg q)).tag = .f32) ∧ (s.x 0).toNat < m.m ∧
     (m.tile 0).tag ≠ .none ∧ (s.v 3).bound = none ∧ m.n ≤ s.vlmax (tagWidth (m.tile 0).tag) ∧ (s.v 1).tag ∈ [Tag.f32, .i32, .rn12, .rn24] ∧
     (∀ q ∈ m.blocks 0, (m.tile q).tag = .none ∨ (m.tile q).tag = (s.v 1).tag)) ∧
    ((tiles 128 .f32 .f32).hart.mat.small = false ∧ (tiles 128 .f32 .f32).hart.mat.m ≤ 2 * (tiles 128 .f32 .f32).hart.mat.mvl) ∧
    (let s := ((tiles 2 .f32 .f32).setX 1 0x2FFC).setX 2 4
     s.hart.mat.n ≠ 0 ∧ (s.x 2).toNat ≤ s.weightCapacity ∧ (0 % 2 = 1 → s.hart.mat.n % 8 = 0) ∧
     rowsOf 0 (tagWidth (weightTag 0)) s.hart.mat.n (s.x 2).toNat = some 2 ∧ (s.x 1).toNat + (s.x 2).toNat ≤ 2 ^ 64 ∧
     plainMem s (s.x 1).toNat 4 1 = true ∧
     (∀ i, i < 5 → ∀ c, c < 5 → 0x2FFC + i + c ≤ 0x3000 → (0x2FFC + i) / 4096 = (0x2FFC + i + c - 1) / 4096 →
       (match s.locate (0x2FFC + i) c .load with
        | .ok (_, u) => decide (u = s)
        | .error _ => false) = true) ∧
     nibblesOk 0 (tagWidth (weightTag 0)) s.hart.mat.n 2 ((List.range 4).map fun i => s.dev.read (0x2FFC + i) 1) = true) := by
  decide +kernel

theorem test_witness_MatrixAccumulate :
    ∀ p ∈ [(Tag.i8, Tag.i32), (.f16, .f32), (.f8e4, .f32), (.rn12, .rn12)],
      let s := tiles 2 p.2 p.1
      let m := s.hart.mat
      m.mvl ≠ 0 ∧ m.small = true ∧ m.m ≤ 2 * m.mvl ∧ m.n ≤ 2 * m.mvl ∧ s.hart.vec.vstart = 0 ∧ s.pause = none ∧
      accTag (s.v 1).tag = some p.2 ∧ (s.v 1).tag ≠ .hb ∧ (∀ q ∈ m.blocks 0, (m.tile q).tag = p.2) ∧
      operandSize (s.v 1).tag m.m m.k ≤ s.hart.vec.vl ∧ (s.v 1).readable 0 (operandSize (s.v 1).tag m.m m.k) ∧
      (s.v 2).tag = (s.v 1).tag ∧ operandSize (s.v 1).tag m.n m.k ≤ s.hart.vec.vl ∧
      (s.v 2).readable 0 (operandSize (s.v 1).tag m.n m.k) := by decide

theorem test_witness_MatrixAccumulate_buffer :
    let w : WeightBuffer := { n := 2, fmt := .f8e4, enc := 0, rows := [[1, 2], [3, 4]] }
    let s := tiles 2 .f32 .f8e4
    let m := { s.hart.mat with wbuf := some w }
    m.wbuf = some w ∧ w.n = m.n ∧ m.k ≤ w.rows.length ∧ w.fmt = (s.v 1).tag := by decide

/-- A product of hypervector words, into an empty tile. -/
theorem test_witness_MatrixAccumulate_bits :
    let s := { tiles 2 .none .hb with hart := { (tiles 2 .none .hb).hart with mat := { (tiles 2 .none .hb).hart.mat with k := 32 } } }
    let m := s.hart.mat
    accTag .hb = some .i32 ∧ m.k % 32 = 0 ∧ (∀ q ∈ m.blocks 0, (m.tile q).tag = .none) ∧ operandSize .hb m.m m.k ≤ s.hart.vec.vl ∧
    (s.v 1).readable 0 (operandSize .hb m.m m.k) ∧ (s.v 2).tag = .hb ∧ operandSize .hb m.n m.k ≤ s.hart.vec.vl := by decide

theorem test_witness_Hypervectors :
    let s := withV 1 {} [(1, .hb, [5]), (2, .hb, [6]), (3, .hc, [1]), (4, .hc, [])]
    s.pause = none ∧ (s.v 4).bound = none ∧ fits s .hb = true ∧ fits s .hc = true ∧ (s.v 1).tag = .hb ∧ (s.v 2).tag = .hb ∧
    (s.v 3).tag = .hc ∧ (s.v 4).tag = .hc ∧ (s.v 1).readable 0 (s.range .hb 4) ∧ (s.v 3).readable 0 (s.range .hc 1) ∧
    (s.v 1).readable (s.hart.vec.vstart / 32) (s.range .hc 1 / 32) ∧
    (s.v 3).readable (32 * s.hart.vec.vstart) (32 * s.range .hb 4) ∧ (s.v 2).readable s.hart.vec.vstart (s.range .hb 4) := by decide

/-- A clean-up descriptor at 0x2000 with some items at 0x2100, the query in v1, and matrix mode. -/
def cleaned (count : Nat) : State :=
  let s := (withV 1 {} [(1, .hb, [0xF0F0F0F0, 0])]).setX 5 0x2000
  { s with
    hart := { s.hart with mat := { granted := true, mvl := 64 } }
    dev := { mem := filled [(0x2000, 0x2100), (0x2008, count), (0x2010, 3), (0x2100, 0xF0F0F0F0), (0x2108, 0xF0F0F0F1)] } }
theorem test_witness_CleanUp : ∀ count ∈ [0, 1, 2],
    let s := cleaned count
    (s.v 1).tag = .hb ∧ fits s .hb = true ∧ s.hart.vec.hdim ≤ 65536 ∧ (s.v 1).readable 0 (s.hart.vec.hdim / 32) ∧
    s.hart.vec.vstart = 0 ∧ s.pause = none ∧ s.hart.kept = none ∧ 3 < 2 ^ 24 ∧ (s.x 5).toNat % 32 = 0 ∧ plainMem s (s.x 5).toNat 4 8 = true ∧ 0x2100 % 8 = 0 ∧
    count ≤ 4096 ∧ 0 < s.hart.vec.hdim ∧ s.dev.read 0x2000 8 = 0x2100 ∧ s.dev.read 0x2008 8 = count + 0 * 2 ^ 16 ∧
    s.dev.read 0x2010 8 = 3 ∧ s.dev.read 0x2018 8 = 0 ∧
    (∀ c, c < count → plainMem s (0x2100 + c * (s.hart.vec.hdim / 8)) (s.hart.vec.hdim / 64) 8 = true) ∧
    s.hart.mat.mvl ≠ 0 ∧ (s.v 2).bound = none ∧ count ≤ s.rb / 4 := by decide +kernel

/-- A factorise descriptor at 0x2000 with two codebooks of one item, and an iteration that has or has not taken place. -/
def factored (iter : Nat) : State :=
  let s := (withV 1 {} [(1, .hb, [0xF0F0F0F0, 0]), (8, .hb, []), (9, .hb, [])]).setX 5 0x2000
  { s with
    hart := { s.hart with engine := { hfstat := word iter } }
    dev := { mem := filled [(0x2000, 2 + 1023 * 2 ^ 16), (0x2010, 0x2100), (0x2018, 1), (0x2020, 0x2108), (0x2028, 1 + 63 * 2 ^ 16),
      (0x2100, 0xF0F0F0F0), (0x2108, 0xF0F0F0F1)] } }
theorem test_witness_Factorisation : ∀ iter ∈ [0, 1],
    let s := factored iter
    let dim := s.hart.vec.hdim
    let base (j : Nat) : Nat := 0x2100 + 8 * j
    (s.v 1).tag = .hb ∧ fits s .hb = true ∧ (s.v 1).readable 0 (dim / 32) ∧ s.hart.vec.vstart = 0 ∧ s.pause = none ∧
    s.hart.kept = none ∧ (s.x 5).toNat % 16 = 0 ∧ (s.x 5).toNat + 80 ≤ 2 ^ 64 ∧ plainMem s (s.x 5).toNat 6 8 = true ∧
    s.dev.read 0x2000 8 = 2 + 1023 * 2 ^ 16 ∧ s.dev.read 0x2008 8 = 0 ∧
    (∀ j, j < 2 → base j % 8 = 0 ∧ 63 * j < dim ∧ s.dev.read (0x2000 + 8 * (2 + 2 * j)) 8 = base j ∧
      s.dev.read (0x2000 + 8 * (3 + 2 * j)) 8 = 1 + 63 * j * 2 ^ 16 ∧
      plainMem s (base j + 0 * (dim / 8)) (dim / 64) 8 = true ∧ (s.v (estReg 8 j)).bound = none ∧ (s.v (estReg 8 j)).absent = 0 ∧
      (s.v (estReg 8 j)).tag = .hb) ∧ s.hart.engine.hfstat.toNat % 2 ^ 16 = iter := by decide +kernel

/-- Positions to sample, none of them, one of them. -/
theorem test_witness_Sampling :
    let s := (withV 3 {} [(1, .f32, [1, 2, 3]), (2, .i32, [1, 2, 3])]).setP 2 4
    let n := s.range .f32 4
    (s.v 1).tag = .f32 ∧ (s.v 1).readable 0 n ∧ s.hart.engine.vsstat.getLsbD 1 = false ∧ (List.range n).filter (s.pbit 0) ≠ [] ∧
    (List.range n).filter (s.pbit 1) = [] ∧ (List.range n).filter (s.pbit 2) = [2] ∧ (s.v 2).tag = .i32 ∧ tagClass .i32 = .i ∧
    (s.v 2).readable 0 (s.range .i32 (max 4 (tagWidth .i32))) ∧ (s.v 3).bound = none ∧ (s.v 4).bound = none ∧
    (let t := { s with hart := { s.hart with engine := { s.hart.engine with vsstat := 2 } } }
     t.hart.engine.vsstat.getLsbD 1 = true ∧ (List.range n).filter (t.pbit 1) = [] ∧ t.hart.trap.status.eip = false) := by decide

/-- Two sparse vectors; at 0x2FE0, two pairs whose coordinates ascend, or do not. -/
def sparse (c : Nat) : State :=
  let s := ((withV 1 { etag := .i64 } []).setX 1 0x2FE0).setX 2 2
  { s with
    hart := { s.hart with y := (s.hart.y.set 1 { tag := .i64, pairs := [(0, 5), (3, 7)] }).set 2 { tag := .i64, pairs := [(3, 9)] } }
    dev := { mem := filled [(0x2FE0, 4), (0x2FE8, 1), (0x2FF0, c), (0x2FF8, 2)] } }
theorem test_witness_SparseVectors :
    (let s := sparse 5
     (s.y 1).tag = .i64 ∧ (s.y 2).tag = .i64 ∧ Tag.i64 ≠ .none ∧ (s.y 1).pairs.Pairwise (fun p q => p.1 < q.1) ∧
     (s.y 2).pairs.Pairwise (fun p q => p.1 < q.1) ∧ s.hart.vec.vtype.sat = false ∧ (s.v 3).bound = none) ∧
    (∀ m ∈ [(1, 4), (2, 5)],
      let s := sparse m.2
      (s.x 1).toNat % 16 = 0 ∧ s.hart.vec.vstart = 0 ∧ s.core.wcb = [] ∧ s.dev.combines = [] ∧ s.hart.early = [] ∧ s.hart.prov = none ∧ s.inOrder ∧
      s.hart.vec.vtype.etag = .i64 ∧ tagClass .i64 ∈ [TagClass.i, .w, .f, .rn] ∧ 2 = min (s.x 2).toNat 4096 ∧
      (s.x 1).toNat + 16 * 2 ≤ 2 ^ 64 ∧ plainMem s (s.x 1).toNat 4 8 = true ∧
      (∀ p, p < 2 → s.watchHit ((s.x 1).toNat + 16 * p) 16 .load = none ∧ s.watchHit ((s.x 1).toNat + 16 * p) 16 .store = none) ∧
      (∀ p, p < m.1 → ∀ q, q < p → s.dev.read (0x2FE0 + 16 * q) 8 < s.dev.read (0x2FE0 + 16 * p) 8) ∧
      (m.1 = 2 ∨ s.dev.read (0x2FE0 + 16 * m.1) 8 ≤ s.dev.read (0x2FE0 + 16 * (m.1 - 1)) 8)) ∧
    (let s := sparse 5
     s.memoryWf ∧ (s.y 1).tag ≠ .none ∧ ∀ i, i < 2 * (s.y 1).pairs.length → plainAt s (0x2FE0 + 8 * i) 8 .store = true ∧
       s.held (s.pageBytes (0x2FE0 + 8 * i)).1 (s.pageBytes (0x2FE0 + 8 * i)).2 = false ∧ s.watchHit (0x2FE0 + 16 * (i / 2)) 16 .store = none) := by
  decide +kernel


/-- A gang of one hart with one tree of one member, and its first round where given. -/
def reducing (start : Option Nat) (st : RoundStatus) (fresh : Bool) : State :=
  let r : Round := { tree := 0, num := 0, start := start, tag := some .i32
                     packets := [{ lhart := 0, lcore := 0, data := List.replicate 32 7, tainted := false }], nodes := [], status := st }
  { withV 32 { etag := .i32 } [(1, .i32, [1])] with
    dev := { nextId := 1
             gangs := [{ id := 0, shape := [{ lhart := 0, lcore := 0, long := false, pav := 0, mmode := false }]
                         trees := [{ tout := 1, root := 0, children := [(none, none)] }], rounds := if fresh then [] else [r] }] } }
theorem test_witness_ReductionTrees :
    let t : Tree := { tout := 1, root := 0, children := [(none, none)] }
    let g (s : State) : Gang := s.gang.closeOverdue s.dev.now
    (let s := reducing none .running true
     s.gang.trees[(0 : Nat)]? = some t ∧ s.gang.rounds = [] ∧ (s.v 1).tag = .i32 ∧ (s.v 1).readable 0 32 ∧ s.core.wcb = [] ∧ s.hart.late = []) ∧
    (∀ st ∈ [RoundStatus.closed, .result (List.replicate 32 7) false],
      let s := reducing none st false
      (g s).trees[(0 : Nat)]? = some t ∧ (s.v 2).bound = none ∧
      ((g s).round 0 (sparseGet 0 (g s).rwaits 0)).any (fun r => r.status == st) = true ∧ 0 < t.children.length) ∧
    (let s := reducing none .running false
     (s.dev.treeOf 0 0).any (fun (g, t') => t' == t && g.rounds.length == 1 && g.hartsOf 0 != [] && t.children[(0 : Nat)]? == some (none, none) &&
       g.rounds.all fun r => r.tree == 0 && r.status == .running && !r.overdue t s.dev.now && (r.nodeOf 0).isNone &&
         (g.hartsOf 0).all fun h => (r.packetOf h).isSome) = true) ∧
    (let s := reducing (some 0) .running false
     let s := { s with dev := { s.dev with now := t.timeout } }
     (s.dev.treeOf 0 0).any (fun (g, t') => t' == t && g.rounds.any fun r => r.tree == 0 && r.status == .running &&
       r.start.any fun c => decide (c + t.timeout ≤ s.dev.now)) = true) := by decide +kernel

/-- A core with one copy inside its scratchpad. -/
def copying : State :=
  let wb := word Config.windowBase
  let c : Copy := { id := 4, owner := 0, gang := 0, ctx := 0, root := 0, priv := .u, dst := wb + 0x100, src := wb, slack := 3
                    shape := .whole 0x100, target := .scalar 5 }
  { base with core := { base.core with copies := [c] } }
theorem test_witness_Copies :
    ((withX []).pending 5 = false ∧ (withX []).core.copies.length < Config.copyQueueSize ∧ (withX []).hart.late = [] ∧ (((windowed.x 2).toNat < 16384 ∧ windowed.gang.srfBase ≤ (windowed.x 2).toNat ∧
        (windowed.x 2).toNat < windowed.gang.srfBase + windowed.gang.srfLen)) ∧
      (let s := (withV 2 {} [(7, .i64, [1, 0])]).setX 2 2
       tagClass (s.v 7).tag = .i ∧ (s.v 7).bound.isNone = true ∧ (s.v 7).present 0 (min (s.x 2).toNat (s.vlmax 8)) = true ∧
       min (s.x 2).toNat (s.vlmax 8) = 2)) ∧
    (let s := copying
     let wb := Config.windowBase
     (served s.core.copies).any (fun c => c.shape == .whole 0x100 && c.target == .scalar 5 && c.owner == s.hart.ident.uid &&
       decide (wb ≤ c.src.toNat) && decide (wb ≤ c.dst.toNat) && decide (c.src.toNat - wb + 0x100 ≤ s.core.scratchSize) &&
       decide (c.dst.toNat - wb + 0x100 ≤ s.core.scratchSize) && decide (c.src.toNat + 0x100 ≤ c.dst.toNat) &&
       decide (s.dev.poisoned (scratchKey s.core.id (c.src.toNat - wb)) 0x100 = none)) = true ∧
     s.memoryWf ∧ s.core.wcb = [] ∧ s.tracing 2 = false ∧ s.ready = served s.core.copies ∧
     (s.ready.any fun c => decide (c.moved = [])) = true ∧ s.core.scratchSize ≤ 2 ^ 32) := by decide +kernel

/-- A region of three nodes, on the page at 0x4000, whose tree holds one key, 3. -/
def declared : Region :=
  { addr := 0x2000, gang := 0, ctx := 0, home := 0, rank := 1, vtag := .i64, lims := [7], pool := 0x4000, size := 768, pages := [4]
    sound := true }
/-- The state with the region, some vector registers, and a box at 0x2040. -/
def regional : State :=
  let h : Header := { root := 1, height := 1, freeHead := 2, freeCnt := 1, keys := 1, gen := 5 }
  let n : Node := { version := 1, level := 0, kind := 1, link := 0, keys := [3], vals := [9] }
  let m := Memory.writeN (Memory.writeN (Memory.writeN [] 0x2060 (bytesOf 8 7)) (declared.nodeKey 0) h.bytes) (declared.nodeKey 1) n.bytes
  let s := (((withV 3 {} [(2, .w64, [3, 4, 8]), (3, .i64, [5])]).setX 1 0x2000).setX 2 0x2040).setX 5 7
  { s with dev := { mem := m, regions := [declared] } }
theorem test_witness_Regions :
    (let s := regional
     let r := declared
     let key (i : Nat) : Nat := (s.v 2).elem .w64 i
     s.dev.region (s.x 1) = some r ∧ r.sound = true ∧ s.pause = none ∧ s.densePending (s.x 1) = false ∧ s.dev.poisoned (r.nodeKey 0) 256 = none ∧ (s.v 2).tag = .w64 ∧
     (s.v 2).readable s.hart.vec.vstart (s.range .w64 8) ∧ (s.v 4).bound = none ∧ (s.v 5).bound = none ∧
     r.inRange (key 0) = true ∧ r.inRange (key 1) = true ∧ r.inRange (key 2) = false ∧
     (match s.dev.askHome r (homeLookup s.dev r (key 0)) with | .ok p => p == (some 9, false) | .error _ => false) = true ∧
     (match s.dev.askHome r (homeLookup s.dev r (key 1)) with | .ok p => p == (none, false) | .error _ => false) = true) ∧
    (let s := regional.setVec { regional.hart.vec with vl := 1 }
     let r := declared
     s.memoryWf ∧ s.range .w64 8 = 1 ∧ s.hart.vec.vstart = 0 ∧ (s.v 3).tag = r.vtag ∧ (s.v 3).readable 0 1 ∧
     zeroValue r.vtag (canonElem r.vtag ((s.v 3).elem r.vtag 0)).1 = false ∧
     (match s.dev.askHome r (homeFind s.dev r 3) with | .ok p => p.head?.map (·.1) == some 1 | .error _ => false) = true ∧
     s.dev.poisoned (r.nodeKey 1) 256 = none ∧ 3 ∈ (Node.ofNat (s.dev.read (r.nodeKey 1) 256)).keys ∧
     r.nodeKey 0 + 256 ≤ r.nodeKey 1) ∧
    (let s := regional
     let r := declared
     min s.hart.vec.vl s.rb ≠ 0 ∧ r.inRange 0 = true ∧ (s.x 0).toNat / 2 ^ coordWidth r.rank * 2 ^ coordWidth r.rank = 0 ∧
     (match s.dev.askHome r (homeScan s.dev r (0 + min 2 7) (r.nodes + 1) (min 2 7 + 1) 0) with
      | .ok l => l.all fun q => !q.2.2
      | .error _ => false) = true ∧
     (match s.dev.askHome r (homeScan s.dev r (s.x 5).toNat (r.nodes + 1) (min s.hart.vec.vl (s.vlmax 8)) (s.x 4).toNat) with
      | .ok l => l == [(3, 9, false)]
      | .error _ => false) = true) ∧
    (let s := regional
     s.core.wcb = [] ∧ s.dev.combines = [] ∧ s.dev.region (s.x 1) = some declared ∧ s.densePending (s.x 1) = false ∧ (s.x 2).toNat % 64 = 0 ∧
     plainMem s (s.x 2).toNat 8 8 = true ∧ boxValid declared (fun i => s.dev.read (0x2040 + 8 * i) 8) (s.x 6).toNat = true ∧
     s.hart.vec.vl ≠ 0 ∧ s.pending 7 = false ∧ s.hart.late = [] ∧ s.core.copies.length < Config.copyQueueSize) := by decide +kernel

/-- A descriptor at 0x2000 for a pool of two nodes on the page at 0x4000. -/
def declaring : State :=
  let s := withX [(1, 0x2000)]
  { s with
    hart := { s.hart with tlb := [page 2 0x2000, page 4 0x4000] }
    dev := { mem := filled [(0x2000, 1 + tagCode .i64 * 2 ^ 8), (0x2008, 7), (0x2028, 0x4000), (0x2030, 512)] } }
theorem test_witness_Regions_declaration :
    let s := declaring
    let q (i : Nat) : Nat := s.dev.read (0x2000 + 8 * i) 8
    s.core.wcb = [] ∧ s.dev.combines = [] ∧ s.hart.late = [] ∧ s.memoryWf ∧ (s.x 1).toNat % 64 = 0 ∧ plainMem s (s.x 1).toNat 8 8 = true ∧
    descriptorValid q = true ∧ q 0 / 2 ^ 24 % 2 = 0 ∧ s.dev.region (s.x 1) = none ∧
    (s.dev.regions.filter fun e => e.home = q 0 / 2 ^ 16 % 4).length < 256 ∧
    (match poolPages (s.x 1) (q 5) ((q 6 + 4095) / 4096) 0 [] s with
     | .ok (pages, _) => pages == [4] && pages.all fun p => decide (p < 2 ^ 44)
     | .error _ => false) = true := by decide +kernel

/-- A graph of eight vertices and one edge, its arrays in the page at 0x2000 and its body, EEND, at 0x2800. -/
def graph : State :=
  let s := (withX [(1, 0x2000), (2, 0x0000000800000000)])
  { s with dev := { mem := filled [(0x2000, 8 + 2 ^ 32), (0x2008, 0x2100), (0x2010, 0x2130), (0x2018, 0x2140), (0x2020, 0x2170),
      (0x2038, 0x2180), (0x2040, 0x21C0), (0x2048, 0x2200), (0x2050, 0x2240), (0x2058, 0x2280), (0x2060, tagCode .i64 * 2 ^ 8),
      (0x2068, 2 + 2 ^ 16), (0x2800, 0x04000075)] } }
/-- Its binding: the fields of the descriptor, and page 2 pinned. -/
def graphBinding : EdgeBinding :=
  { desc := 0x2000, lo := 0, hi := 8, nv := 8, ne := 1, outptr := 0x2100, outidx := 0x2130, inptr := 0x2140, inidx := 0x2170, outw := 0
    inw := 0, val0 := 0x2180, val1 := 0x21C0, fr0 := 0x2200, fr1 := 0x2240, fin := 0x2280, wtag := .none, vtag := .i64, op := .min
    beta := 1, alpha := 2, shareWord := 0x0000000800000000, bodyAt := 0x2800, body := []
    pages := [{ vpn := 2, span := 1, frame := 0x2000 }] }
theorem test_witness_EdgePrograms :
    (let s := graph
     (s.x 1).toNat % 128 = 0 ∧ plainMem s (s.x 1).toNat 16 8 = true ∧
     (match edgeBinding (s.x 1) (fun i => if i < 16 then s.dev.read (0x2000 + 8 * i) 8 else 0) (s.x 2).toNat with
      | none => false
      | some e => match pinArrays (s.x 1) e.arrays [] s with
        | .error _ => false
        | .ok (pages, u) => decide (pages.length ≤ 2048) && match readBody 63 (wordTarget s.hart.pc (0x600 : BitVec 32)) u with
          | .error _ => false
          | .ok (body, w) => match bodyChecks { e with bodyAt := wordTarget s.hart.pc (0x600 : BitVec 32), body := body, pages := pages } w with
            | .ok ((), v) => decide (v = w)
            | .error _ => false) = true) ∧
    (let e := graphBinding
     let s := graph.setEdge (some e)
     let fine (va n : Nat) : Prop := s.dev.poisoned (deviceKey (e.phys va)) n = none
     s.hart.edge = some e ∧ s.core.wcb = [] ∧ s.hart.late = [] ∧ s.hart.edgeRun = none ∧ s.pause = none ∧ e.lo % 8 = 0 ∧ (∀ v, v < e.hi → fine (e.fr0 + v / 8) 1) ∧ e.frOf false = e.fr0 ∧
     (∀ v, v < e.hi → (s.dev.read (deviceKey (e.phys (e.fr0 + v / 8))) 1).testBit (v % 8) = false) ∧ s.parked = [] ∧
     s.hart.detm.pull = false ∧ e.op ≠ .first ∧ (s.x 0).toNat * 2 ^ 16 < e.beta * e.ne ∧ e.beta < e.alpha ∧
     (∀ v, v < e.hi → fine (e.outptr + 4 * v) 4 ∧ fine (e.outptr + 4 * v + 4) 4 ∧ fine (e.valOf false + 8 * v) 8 ∧
       fine (e.frOf true + v / 8) 1) ∧ e.w = 8 ∧ bit 1 s.hart.engine.estat.toNat = false ∧
     s.memoryWf ∧ ∀ v, v < e.hi → (∀ j, j < 8 → 0 ≠ deviceKey (e.phys (e.val1 + 8 * v)) + j) ∧ 0 ≠ deviceKey (e.phys (e.fr1 + v / 8))) := by
  decide +kernel

/-- The empty body yields the candidate 0 for every edge. -/
theorem empty_body_computes (b : EdgeBinding) (x : Vector Word 32) (vt : VType) (h : b.body = []) : b.Computes x vt fun _ _ _ => some 0 := by
  intro s src wt dst t hr ht
  have key : edgeCandidate b x (src, false) (wt, false) (dst, false) t s =
      (let u := (bodyState b x (src, false) (wt, false) (dst, false) s).setVType t.marks
       .ok ((if (u.p 15 1).testBit 0 then some (item (8 * b.w) (u.v 63).data 0, (u.v 63).taint.testBit 0) else none,
         u.hart.taint.escape, { t with edges := t.edges + 1, marks := u.hart.vec.vtype, escape := t.escape || u.hart.taint.escape }), s)) := by
    unfold edgeCandidate
    rw [h]
    rfl
  have hv : ((bodyState b x (src, false) (wt, false) (dst, false) s).setVType t.marks).v 63 = { data := 0, tag := b.vtag, taint := 0 } := by
    simp [bodyState, State.setVType, State.setTaint, State.setTrap, State.setVec, State.setP, State.setV, State.v, List.range,
      List.range.loop]
  have hp : (((bodyState b x (src, false) (wt, false) (dst, false) s).setVType t.marks).p 15 1).testBit 0 = true := by
    simp [bodyState, State.setVType, State.setTaint, State.setTrap, State.setVec, State.setP, State.setV, State.p, State.rb, List.range,
      List.range.loop, ones]
    unfold State.rb at hr
    split at hr <;> simp_all <;> omega
  have he : ((bodyState b x (src, false) (wt, false) (dst, false) s).setVType t.marks).hart.taint.escape = false := rfl
  have hm : ((bodyState b x (src, false) (wt, false) (dst, false) s).setVType t.marks).hart.vec.vtype = t.marks := rfl
  rw [key]
  simp only [hp, hv, he, hm]
  simp [item]

/-- The graph with vertex 0 in the frontier and its one edge, from 0 to 1. -/
def frontier : State :=
  graph.setEdge (some graphBinding) |> fun s => { s with dev := { s.dev with
    mem := [(0x2100, 0), (0x2104, 1), (0x2108, 1), (0x2130, 1), (0x2148, 1), (0x2200, 1)].foldl (fun m p => Memory.writeN m p.1 (bytesOf 1 p.2))
      s.dev.mem } }
theorem test_witness_EdgePrograms_superstep :
    (let s := frontier
     let e := graphBinding
     s.hart.edge = some e ∧ e.op ≠ .first ∧ tagClass e.vtag = .i ∧ e.hi ≤ e.nv ∧ s.memoryWf ∧ s.core.wcb = [] ∧
     s.hart.late = [] ∧ s.hart.edgeRun = none ∧ s.hart.ahead = none ∧ s.pause = none ∧ s.parked = [] ∧
     s.plainGraph e ∧ 8 ≤ s.rb ∧ (s.dev.read (deviceKey (e.phys e.fr0)) 1).testBit 0 = true ∧
     s.dev.read (deviceKey (e.phys (e.outptr + 4))) 4 = 1 ∧ s.dev.read (deviceKey (e.phys e.outidx)) 4 = 1 ∧
     e.direction s.hart.detm.pull ((s.x 0).toNat * 2 ^ 16) 0 = 0 ∧ e.direction s.hart.detm.pull ((s.x 1).toNat * 2 ^ 16) 0 = 1) ∧
    graphBinding.Computes frontier.hart.x frontier.hart.vec.vtype fun _ _ _ => some 0 :=
  ⟨by unfold State.plainGraph; decide +kernel, empty_body_computes _ _ _ rfl⟩

/-- The pending bits of TSTATUS. -/
def asking (p h t : Bool) : State :=
  let s := base.setTrap { base.hart.trap with status := { ppend := p, hpend := h, tpend := t } }
  { s with hart := { s.hart with preempt := if p then some 0x10000 else none } }
theorem test_witness_Interrupts :
    let ready (s : State) : Prop := s.hart.status = .running ∧ s.hart.inWfi = false ∧ s.hart.load = none ∧ s.posting = false ∧
      s.core.trace = none ∧ s.hart.priv = .u
    let e (s : State) : TStatus := s.hart.trap.status
    (let s := asking false true true
     ready s ∧ (e s).ppend = false ∧ (e s).hpend = true) ∧
    (let s := asking false false true
     ready s ∧ (e s).ppend = false ∧ (e s).hpend = false ∧ (e s).tpend = true) ∧
    (let s := asking true true true
     ready s ∧ (e s).ppend = true ∧ s.hart.preempt = some ((0x10000 : BitVec 56).setWidth 64) ∧ s.core.wcb = [] ∧ s.core.copies = [] ∧
     s.dev.combines = [] ∧ s.hart.late = [] ∧ s.memoryWf ∧ 0x10000 + contextSize s.rb s.hart.mat.mvl ≤ 2 ^ 56) := by decide

theorem test_witness_Requests :
    base.hart.ident.uid = (0 : BitVec 8).toNat ∧ base.core.id = (0 : BitVec 8).toNat / 8 ∧ base.hart.status = .running ∧
    base.hart.preempt = none ∧ (0x10000 : BitVec 56).toNat % 4096 = 0 ∧ super.hart.priv = .s ∧ super.hart.trap.status.ie = false ∧
    super.hart.status = .running ∧ super.hart.preempt = none ∧
    base.hart.inWfi = false ∧ base.hart.load = none ∧ base.posting = false ∧ base.dev.combines = [] ∧ base.hart.priv = .u ∧ base.hart.status ≠ .idle ∧
    ({ base with dev := { boot := { stage := 4 } } } : State).dev.running = true ∧ base.dev.running = false ∧
    (base.setTrap { base.hart.trap with status := { tcount := 1 } }).hart.trap.status.tcount = 1 ∧
    base.hart.held = none ∧ base.hart.passed = false ∧
    (let s := { base with dev := { debug := [(0, { breaks := [0x1000] })] } }
     s.hart.pc ∈ (s.dev.debugOf (0 : BitVec 8).toNat).breaks) ∧
    ({ base with hart := { base.hart with status := .halted } } : State).hart.status = .halted := by decide

/-- An entry of the write-combining buffer, a combine, a broadcast and a post on their way. -/
def moving : State :=
  { base with
    core := { base.core with wcb := [{ key := 0x2000, bytes := [1, 2], hart := 0, kind := .scalar, release := none, closed := false
                                       seenS := true }] }
    dev := { broadcasts := [(mirrorKey 1 0, { value := 1, set := 0, version := 1 })], gangs := [{ id := 0, posts := [(15, 1)] }] } }
theorem test_witness_Deliveries :
    (moving.memoryWf ∧ (moving.core.wcb[(0 : Nat)]?).any (fun e => e.window == none && e.prov == none && !moving.arb e.hart) = true ∧
      moving.core.wcb.take 0 = [] ∧
      let s := { moving with hart := { moving.hart with detm := { arb := true } } }
      s.arb 0 = true ∧ nextLogical s.logical s.core.wcb = some 0) ∧
    (let s := run (.vcadd 3 10 7 0 0) { ends2 with core := { ends2.core with eager := false } }
     s.memoryWf ∧ (s.dev.combines[(0 : Nat)]?).any (fun c => c.window == none && c.core == s.core.id &&
       s.dev.combines.all fun d => !s.outranks d c) = true ∧ s.core.wcb = []) ∧
    (moving.dev.broadcasts = (mirrorKey (1 : BitVec 2).toNat 0, { value := 1, set := 0, version := 1 }) :: [] ∧ 0 < 16384) ∧
    ((moving.dev.gang 0).any (fun g => g.posts == [(15, 1)]) = true ∧ 15 < 16) := by decide +kernel


/-- A window with one posted byte for a peer's space, sent again `tries` times, cut off or not. -/
def linked (st : LinkState) (tries : Nat) (cut : Option Nat) : State :=
  { base with dev := { now := 1000000, windows := [{ ctx := 0, num := 3, peer := 7, peerCtx := 0, base := 0, length := 4096, status := 0x3000
                                                     state := st, failed := 0, lost := false, tries := tries, cut := cut
                                                     posted := [{ key := 2 ^ 64, bytes := [5], tainted := false }] }] } }
theorem test_witness_Transport :
    (∀ s ∈ [linked .up 7 none, linked .retrying 8 none], s.memoryWf ∧
      (s.dev.window (0 : BitVec 16).toNat (3 : BitVec 8).toNat).any (fun w => (w.state == .up || w.state == .retrying) &&
        w.posted.length == 1 && w.cut.isNone && w.posted.all fun p => decide (2 ^ 64 ≤ p.key) && decide (p.bytes.length ≤ 4096)) = true) ∧
    (let s := linked .retrying 8 (some 0)
     (s.dev.window 0 3).any (fun w => w.cut.any fun t => decide (t + 1000000 ≤ s.dev.now)) = true ∧ s.dev.combines = [] ∧
     s.hart.load = none) ∧
    (let s := linked .down 0 none
     (s.dev.window 0 3).any (fun w => w.state == .down) = true) ∧
    ((linked .retrying 0 none).dev.window 0 3).any (fun w => w.state == .retrying && w.posted != []) = true ∧
    (let s := { walked with dev := { walked.dev with
       received := [(256 * (7 : BitVec 64).toNat + (3 : BitVec 8).toNat, 4)]
       contexts := [{ num := 0, root := 0x10000, tvec := 0x8000, srfBase := 0, srfLen := 0, boost := false, pmax := 0, fmin := 0
                      tcount := 0, save := 0, saveSize := 0 }] } }
     let want := sparseGet 0 s.dev.received (256 * (7 : BitVec 64).toNat + (3 : BitVec 8).toNat)
     s.memoryWf ∧ (3 : BitVec 32).toNat < want ∧ (4 : BitVec 32).toNat = want ∧ (64 : BitVec 7) ≠ 0 ∧
     (0x2000 : BitVec 64).toNat % 64 + (64 : BitVec 7).toNat ≤ 64 ∧ s.dev.gangs = [] ∧
     (s.dev.locate 0 (s.dev.rootOf 0) 0x2000 64 .store).any (fun p => p.1 == { key := 0x2000, cls := .device } && Memory.wf p.2.mem) = true) ∧
    (let s := { base with dev := { tokens := [{ origin := 1, queue := 2, unit := 1, hops := 3 }, { origin := 1, queue := 2, unit := 4, hops := 63 }] } }
     (∀ a ∈ s.dev.attic, a.2 ≠ (1 : BitVec 16).toNat) ∧ (s.dev.tokens[(0 : Nat)]?).any (fun t => t.unit == t.origin) = true ∧
     (∀ a ∈ s.dev.attic, a.1 ≠ 2) ∧ (s.dev.tokens[(1 : Nat)]?).any (fun t => t.unit != t.origin) = true) := by decide +kernel

/-- A die at its limit or 3 °C below it, with the throttle and what else is due. -/
theorem test_witness_PowerAndTime :
    (let x : Die := base.dev.dieOf 2
     x.thot ≤ (95 : BitVec 8).toNat ∧ x.throttling = none ∧
     (x.changes.filter fun t => decide (base.dev.now < t + 1000000000)).length < 60 ∧ (1 : BitVec 5) ≠ 0) ∧
    (let s := { base with dev := { now := 10000000, dies := Vector.replicate 4 { throttling := some 2000000 }
                                   lease := { ends := some 10000000 }, boost := some 0 } }
     let x := s.dev.dieOf 2
     (92 : BitVec 8).toNat + 3 ≤ x.thot ∧ x.throttling = some 2000000 ∧ 2000000 + 8000000 ≤ s.dev.now ∧
     (x.changes.filter fun t => decide (s.dev.now < t + 1000000000)).length < 60 ∧
     s.dev.lease.ends = some 10000000 ∧ 10000000 ≤ s.dev.now ∧ s.dev.boost = some 0 ∧ 0 + 10000000 ≤ s.dev.now) ∧
    ((1535 : BitVec 11).toNat < 1536 ∧ (1 : BitVec 32).toNat ≤ (101 : BitVec 32).toNat ∧ base.dev.slices = [] ∧
     (1 : BitVec 32).toNat * 100 < (101 : BitVec 32).toNat) ∧
    (let s := { base with dev := { slices := [(1535, { gated := [(1, 101)] })] } }
     s.dev.slices = [((1535 : BitVec 11).toNat, { gated := [(1, 101)] })] ∧ 2 * 1 * (100 : BitVec 32).toNat < (2 : BitVec 32).toNat * 101 ∧
     (100 : BitVec 32).toNat ≤ (2 : BitVec 32).toNat * 100) ∧
    (let s := { base with dev := { slices := [(1535, { gated := [(1, 1010)] })] } }
     s.dev.slices = [((1535 : BitVec 11).toNat, { gated := [(1, 1010)] })] ∧ 2 * 1 * (250 : BitVec 32).toNat < (2 : BitVec 32).toNat * 1010 ∧
     (2 : BitVec 32).toNat * 100 < (250 : BitVec 32).toNat) ∧
    (let s := { base with core := { base.core with counters := some { period := 1, sets := [1, 2] } } }
     (s.coreOf (0 : BitVec 5).toNat).counters.isSome = true) := by decide

/-- A root port of context 0, whose tables are those of `walked`; a replaying gang whose record, at 0x2000, rings queue 5. -/
def ported : State :=
  { walked with dev := { walked.dev with
    mem := [(0x2000, 2), (0x2010, 40)] ++ walked.dev.mem
    rootPorts := Vector.replicate 4 (some 0)
    contexts := [{ num := 0, root := 0x10000, tvec := 0x8000, srfBase := 0, srfLen := 0, boost := false, pmax := 0, fmin := 0
                   tcount := 0, save := 0, saveSize := 0 }] } }
theorem test_witness_HostAccesses :
    (let s := { base with dev := { boot := { stage := 4 }, aperture := some 0 } }
     s.memoryWf ∧ s.dev.gangs = [] ∧ s.dev.running = true ∧ s.dev.aperture = some 0 ∧ (64 : BitVec 7).toNat ≤ 64 ∧
     0 * 2 ^ 36 + (0x2000 : BitVec 36).toNat + 64 ≤ 2 ^ 56 ∧ s.dev.mapped (0 * 2 ^ 36 + (0x2000 : BitVec 36).toNat) 64 = true) ∧ base.dev.running = false ∧
    (let s := ported
     s.memoryWf ∧ s.dev.gangs = [] ∧ s.dev.rootPorts[(3 : BitVec 2).toNat]? = some (some 0) ∧ (s.dev.contextOf 0).isSome = true ∧
     (64 : BitVec 7) ≠ 0 ∧ (0x2000 : BitVec 64).toNat % 64 + (64 : BitVec 7).toNat ≤ 64 ∧
     (s.dev.locate 0 0x10000 0x2000 64 .store).any (fun p => p.1 == { key := 0x2000, cls := .device } && Memory.wf p.2.mem) = true ∧
     (s.dev.locate 0 0x10000 0x2000 64 .load).any (fun p => p.1 == { key := 0x2000, cls := .device } && Memory.wf p.2.mem &&
       decide (p.2.poisoned 0x2000 64 = none)) = true) ∧
    (let s := { ported with dev := { ported.dev with gangs := [{ id := 0, replay := 2, log := 0x2000 }] } }
     (s.dev.gang 0).any (fun g => (s.replayDue g).any fun p => p.2.kind == 2 && p.2.len == 0 && p.2.addr / 8 % 64 == 5 &&
       (s.dev.readVirtual g.ctx (s.dev.rootOf g.ctx) (g.log.toNat + Config.logDataBase g.log.toNat + p.2.doff) 0).isSome) = true) := by
  decide +kernel

theorem test_witness_ResetAndBoot :
    ({ base with dev := { boot := { stage := 2 } } } : State).dev.boot.stage = 2 ∧ State.reset.dev.boot.stage = 1 ∧
    ({ base with dev := { boot := { stage := 3 } } } : State).dev.boot.stage = 3 := by decide

/-- Queue 0 with one packet at 0x2000: one short hart, or two harts to a core, a number the layout does not allow. -/
def launching (ctx fields : Nat) : State :=
  { State.reset with dev := {
    mem := filled [(0x2000, 0x1000), (0x2008, fields), (0x2018, 40 + 72 * 2 ^ 8 + 112 * 2 ^ 16), (0x2020, ctx)]
    queues := (Vector.replicate 64 {}).set 0 { base := 0x2000, k := 4, tail := 1 }
    contexts := [{ num := 0, root := 0x10000, tvec := 0x8000, srfBase := 0, srfLen := 0, boost := false, pmax := 0, fmin := 0
                   tcount := 0, save := 0x100000, saveSize := 0x1000000 }] } }
/-- The fields of a packet of one short hart of class 0. -/
def oneShort : Nat := 1 + 1 * 2 ^ 9 + 1 * 2 ^ 13
theorem test_witness_GangStart :
    (let s := launching 0 oneShort
     let p := s.dev.headPacket (s.dev.queue 0)
     (match s.headState 0 with
      | .ready _ l _ _ => s.goesFirst 0 p.prio && s.placingValid { pb0 := p.pb0, pb1 := p.pb1, pb2 := p.pb2, lcpd := p.lcpd, shape := l }
          (Placing.of 31 7) && decide ((l.map fun h => h.lhart).Nodup) && l.length == 1
      | _ => false) = true ∧ ∀ g ∈ s.dev.gangs, g.id ≠ s.dev.nextId) ∧
    (launching 1 oneShort).headState 0 = .fails 0x01 none false := by decide +kernel

/-- The gang started, its hart and core at the front. -/
noncomputable def started : State := run (.gangStart 0 0 0) (launching 0 (oneShort + 3 * 2 ^ 32))
theorem test_witness_GangEnd :
    (let s := started
     s.memoryWf ∧ (s.dev.gang 0).any (fun g => g.status == .running) = true ∧ s.dev.combines = [] ∧ s.dev.windows = [] ∧
     (∀ c ∈ s.core :: s.cores, c.wcb = [] ∧ c.copies = [])) ∧
    (let s := { started with hart := { started.hart with status := .ended } }
     s.dev.failing = [] ∧ ∀ h ∈ s.hartsOf 0, h.status = .ended) ∧
    (let s := { started with dev := { started.dev with failing := [(0, 4, 0, 0x0E)] } }
     4 ≠ 0 ∧ s.dev.failing = [((0 : BitVec 32).toNat, 4, 0, 0x0E)]) := by decide +kernel

/-- A class-0 packet of a hart with four pavilions, behind the gang on the only core that is not retired. -/
noncomputable def starving : State :=
  let q := launching 0 (oneShort + 2 ^ 17 + 2 * 2 ^ 18)
  { started with dev := { started.dev with mem := q.dev.mem, queues := q.dev.queues
                                           retired := (List.range 31).map fun i => (3, i + 1) } }
theorem test_witness_GangPreemption :
    (let s := starving
     s.starved = true ∧ s.windowCopiesReady 0 = true ∧ s.victim.any (fun v => v.id == 0) = true ∧ (s.hartsOf 0).all s.preemptible = true ∧
     (s.dev.gang 0).any (fun g => (s.dev.contextOf g.ctx).any fun c =>
       areasValid c ((0x100000, g.recordParts.2.2.2) ::
         ((s.hartsOf 0).filter fun h => h.status == .running).map fun h => (0x800000, h.areaSize))) = true) ∧
    (let s := run (.gangPreempt 0 0x100000 0x800000) starving
     (s.dev.gang 0).any (fun g => (s.dev.contextOf g.ctx).isSome && g.status == .preempted && s.tasksFit g (Placing.of 0 7) &&
       s.placingValid { pb0 := g.pb0, pb1 := g.pb1, pb2 := g.pb2, lcpd := g.lcpd, shape := g.shape } (Placing.of 0 7) &&
       decide (g.saved.map (fun x => (x.ident.lhart, x.ident.lcore)) = g.shape.map (fun h => (h.lhart, h.lcore))) &&
       decide ((g.shape.map fun h => h.lhart).Nodup) && g.saved.all fun x => x.status != .idle) = true) := by decide +kernel

/-- A device that runs, with a mailbox command and doublewords of its buffer, at host address 0x1000. -/
def commanded (cmd : Nat) (l : List (Nat × Nat)) : State :=
  { base with dev := { boot := { stage := 4 }, mailbox := { command := word cmd }
                       mem := l.foldl (fun m p => Memory.writeN m (hostKey (0x1000 + p.1)) (bytesOf 8 p.2)) [] } }
theorem test_witness_MailboxSettings :
    let c (s : State) : Nat := s.dev.mailbox.command.toNat
    let d := base.dev
    (commanded 2 []).dev.running = true ∧ (commanded 2 []).dev.mailbox.busy = none ∧ (0x1000 : BitVec 64).toNat % 8 = 0 ∧ (0x1004 : BitVec 64).toNat % 8 ≠ 0 ∧
    (c (commanded 2 []) % 256 = 2 ∧ 4 ≤ (16 : BitVec 8).toNat ∧ (16 : BitVec 8).toNat ≤ 16 ∧ (0x3000 : BitVec 56).toNat % 4096 = 0 ∧
      d.mapped (0x3000 : BitVec 56).toNat (128 * 2 ^ (16 : BitVec 8).toNat) = true ∧ (d.queue 63).waiting = 0) ∧
    (c (commanded 3 []) % 256 = 3 ∧ 600 ≤ (2400 : BitVec 16).toNat ∧ (2400 : BitVec 16).toNat ≤ 2400 ∧ 1 ≤ (60000 : BitVec 32).toNat ∧
      (60000 : BitVec 32).toNat ≤ 60000 ∧ d.lease.seq = none) ∧
    (c (commanded 4 []) % 256 = 4 ∧ (0x3008 : BitVec 56).toNat % 8 = 0 ∧ d.mapped (0x3008 : BitVec 56).toNat 8 = true ∧ d.window 0 3 = none) ∧
    (c (commanded 7 []) % 256 = 7 ∧ (2 : BitVec 8) = 2 ∧ (127 : BitVec 16).toNat < 128) ∧
    (let s := commanded (9 + 5 * 2 ^ 8) [(0, 0x10000), (8, 0x8000)]
     c s % 256 = 9 ∧ (contextOfRecord (c s / 2 ^ 8 % 2 ^ 16) (fun i => s.dev.read (hostKey (0x1000 + 8 * i)) 8)).any (fun c => s.dev.mapped c.save c.saveSize) = true ∧
     s.dev.gangs = []) ∧
    (c (commanded (10 + 5 * 2 ^ 8) []) % 256 = 10 ∧ c (commanded (10 + 5 * 2 ^ 8) []) / 2 ^ 8 % 2 ^ 8 ≤ 5) ∧
    (let s := commanded (11 + 3 * 2 ^ 8 + 105 * 2 ^ 16) []
     c s % 256 = 11 ∧ 85 ≤ c s / 2 ^ 16 % 2 ^ 8 ∧ c s / 2 ^ 16 % 2 ^ 8 ≤ 105) ∧
    c (commanded 12 []) % 256 = 12 ∧ c (commanded 13 []) % 256 = 13 := by decide +kernel

theorem test_witness_MailboxReports :
    let c (s : State) : Nat := s.dev.mailbox.command.toNat
    let q (s : State) (o : Nat) : Nat := s.dev.read (hostKey (0x1000 + o)) 8
    let core (s : State) : Nat := q s 0 / 2 ^ 8 % 32
    let fine (s : State) : Prop := s.dev.running = true ∧ s.dev.mailbox.busy = none ∧ s.memoryWf ∧ q s 0 / 2 ^ 13 % 8 = 0 ∧ q s 0 / 2 ^ 19 = 0 ∧ c s % 256 = 8
    (0x1000 : BitVec 64).toNat % 8 = 0 ∧ (0x1000 : BitVec 64).toNat + 0x200 ≤ 2 ^ 56 ∧ c (commanded 1 []) % 256 = 1 ∧ c (commanded 6 []) % 256 = 6 ∧
    (let s := commanded 8 [(8, 0x1000)]
     fine s ∧ q s 0 % 256 = 0 ∧ (∀ o ∈ [0x08, 0x10, 0x18, 0x20], q s o % 4 = 0) ∧ s.dev.debug = []) ∧
    (let s := commanded 8 [(0, 1), (8, 0xFFFF + 4 * 2 ^ 16)]
     fine s ∧ q s 0 % 256 = 1 ∧ q s 8 % 2 ^ 16 ≠ 0 ∧ 1 ≤ q s 8 / 2 ^ 16 % 16 ∧ q s 8 / 2 ^ 16 % 16 ≤ 4) ∧
    (let s := commanded 8 [(0, 2)]
     let s := { s with core := { s.core with counters := some { period := 1, sets := [0x0D0201] } } }
     fine s ∧ q s 0 % 256 = 2 ∧ (s.coreOf (core s)).counters.isSome = true ∧
     ∀ c, c < 3 → 0x0D0201 / 2 ^ (8 * c) % 256 ∈ [1, 2, 8, 9, 12, 13]) ∧
    (let s := commanded 8 [(0, 3), (8, 0x10000), (0x10, 30)]
     fine s ∧ q s 0 % 256 = 3 ∧ q s 8 % 4096 = 0 ∧ 12 ≤ q s 0x10 % 32 ∧ q s 0x10 % 32 ≤ 30 ∧
     s.dev.mapped (q s 8) (2 ^ (q s 0x10 % 32)) = true) ∧
    (let s := commanded 8 [(0, 4)]
     let s := { s with core := { s.core with trace := some { base := 0x10000, size := 4096, wrap := false, mask := 1 } } }
     fine s ∧ q s 0 % 256 = 4 ∧ (s.coreOf (core s)).trace.isSome = true) := by decide +kernel

theorem test_witness_MailboxReports_reset :
    let c (s : State) : Nat := s.dev.mailbox.command.toNat
    (let s := { started with dev := { started.dev with boot := { stage := 4 }, mailbox := { command := 5 } } }
     s.dev.running = true ∧ s.dev.mailbox.busy = none ∧ s.memoryWf ∧ c s % 256 = 5 ∧ s.hart.ident.uid = (0 : BitVec 8).toNat ∧ s.core.id = (0 : BitVec 8).toNat / 8 ∧
     s.hart.status ≠ .idle ∧ (s.dev.gang s.hart.ident.gang).isSome = true ∧ (s.dev.contextOf s.hart.ctx).isSome = true ∧
     s.core.copies = [] ∧ s.hart.late = []) := by decide +kernel

/-- The hart at 0x2000, where `addi x3, x1, -1` stands. -/
def fetching : State :=
  { base with hart := { base.hart with pc := 0x2000 }, dev := { mem := Memory.writeN [] 0x2000 (bytesOf 4 0xFFFE1182) } }
theorem test_witness_StepRunsDecoded :
    (let s := fetching
     s.agenda = [] ∧ s.hart.status = .running ∧ s.inputDue = none ∧ s.interruptDue = none ∧ s.atBreak = false ∧ s.hart.held = none ∧
     (match s.fetchInstr with
      | .ok (w, v) => decodeWords w == some (.addi 3 1 0x7FFF) && decide (v.core.copies = []) && decide (v.hart.prov = none) &&
        decide (v.core.trace = none) && decide v.inOrder
      | .error _ => false) = true ∧
     s.hart.fetchPin = none ∧ inWindow s.hart.pc.toNat = false ∧
     (cached s.hart.tlb s.hart.pc.toNat .fetch).any (fun e => permits e s.hart.priv .fetch &&
       match classify s.dev s.hart.ctx e s.hart.pc.toNat 4 with
       | .ok pl => pl == { key := 0x2000, cls := .device }
       | .error _ => false) = true ∧
     s.dev.poisoned 0x2000 4 = none ∧ s.watchHit s.hart.pc.toNat 4 .fetch = none ∧ isLong (BitVec.ofNat 32 (s.dev.read 0x2000 4)) = false) ∧
    (let s := { fetching with hart := { fetching.hart with held := some (.addi 3 1 0x7FFF) } }
     s.hart.held = some (.addi 3 1 0x7FFF) ∧ s.core.copies = [] ∧ s.hart.prov = none ∧ s.inOrder ∧ s.agenda = [] ∧ s.hart.ahead = none) ∧
    (let s := { fetching with dev := {} }
     s.agenda = [] ∧ s.inputDue = none ∧ s.interruptDue = none ∧
     (match s.fetchInstr with
      | .ok (w, _) => decodeWords w == none
      | .error _ => false) = true) := by decide +kernel

theorem test_witness_EncodeDecode :
    (Instr.bge 5 6 0xFFE).wellFormed = true ∧ encode (.bge 5 6 0xFFE) ≠ [] ∧
    decode (encodeBytes (.bge 5 6 0xFFE) ++ [7]) = .ok (.bge 5 6 0xFFE, [7]) := ⟨rfl, by decide, rfl⟩

theorem test_witness_MemoryInvariant : fetching.memoryWf ∧ State.reset.memoryWf ∧ ∃ t, step fetching = .next t :=
  ⟨by decide, by decide, _, rfl⟩

end Sys2Proof.Tests
end

/-! # CSR instructions (R41, R42): the access table, the two outcomes of the operation that all six share, and its trap -/

namespace Sys2Proof.Machine

/-! ### The access table of R41 -/

/-- The numbers that the table makes read-only at a level: PB0 to PB2 (R358) at S alone. -/
theorem csrAccess_eq_ro_iff (p : Priv) (c : Nat) :
    csrAccess p c = .ro ↔
      c ∈ [0x010, 0x015, 0x016, 0x018, 0xC00, 0xC01, 0xF10, 0xF11, 0xF12] ∨ p = .s ∧ c ∈ [0x100, 0x101, 0x102] := by
  simp only [csrAccess, List.mem_cons, List.not_mem_nil, or_false, Bool.or_eq_true, Bool.and_eq_true, decide_eq_true_eq]
  cases p with
  | u =>
    simp only [reduceCtorEq, if_false, ite_self, false_and, or_false]
    repeat' split
    all_goals simp only [reduceCtorEq, true_iff, false_iff]
    all_goals omega
  | s =>
    simp only [if_true, true_and]
    repeat' split
    all_goals simp only [reduceCtorEq, true_iff, false_iff]
    all_goals omega

/-- The numbers that the table makes writable at a level: the trap registers (R78) at S alone. -/
theorem csrAccess_eq_rw_iff (p : Priv) (c : Nat) :
    csrAccess p c = .rw ↔
      c ∈ [0x001, 0x011, 0x012, 0x013, 0x014, 0x017, 0x019, 0x020, 0x021, 0x022, 0x023, 0x024, 0x025, 0x026, 0x030, 0x031,
        0x032, 0x033, 0x034, 0x035, 0x036, 0x037] ∨
      p = .s ∧ c ∈ [0x140, 0x141, 0x142, 0x143, 0x144, 0x145, 0x146, 0x147, 0x148, 0x149, 0x14A] := by
  simp only [csrAccess, List.mem_cons, List.not_mem_nil, or_false, Bool.or_eq_true, Bool.and_eq_true, decide_eq_true_eq]
  cases p with
  | u =>
    simp only [reduceCtorEq, if_false, ite_self, false_and, or_false]
    repeat' split
    all_goals simp only [reduceCtorEq, true_iff, false_iff]
    all_goals omega
  | s =>
    simp only [if_true, true_and]
    repeat' split
    all_goals simp only [reduceCtorEq, true_iff, false_iff]
    all_goals omega

/-! ### Synchronous traps -/

section
variable {s : State} {tr : Trap}

/-- Outside a handler, a trap that reports no memory error is trap entry on what is left when the hart's later instructions are
discarded (R81, R85). -/
theorem takeTrap_eq_trapEntry (he : s.hart.trap.status.eip = false) (hc : tr.cause ≠ .poison) :
    s.takeTrap tr = { s.discard with hart := { s.hart with ahead := none }.trapEntry tr s.hart.pc } := by
  simp [State.takeTrap, State.noteError, hc, State.discard_hart, he]

/-- What trap entry leaves as it was (R81, R85). -/
theorem takeTrap_keeps (he : s.hart.trap.status.eip = false) (hc : tr.cause ≠ .poison) : TrapKeeps s (s.takeTrap tr) := by
  rw [takeTrap_eq_trapEntry he hc]
  have hprov : s.hart.prov = s.discard.hart.prov := by rw [State.discard_hart]
  exact ⟨fun _ => rfl, fun _ => rfl, fun _ _ => rfl, rfl, rfl, keepsMemory_of_eq rfl rfl hprov,
    rfl, rfl, rfl, rfl, rfl, rfl, rfl, rfl⟩

/-- Outside the hart, a trap changes what it discards and nothing else. -/
theorem takeTrap_keepsOutside (he : s.hart.trap.status.eip = false) (hc : tr.cause ≠ .poison) :
    KeepsOutside s.discard (s.takeTrap tr) := by
  rw [takeTrap_eq_trapEntry he hc]
  exact ⟨rfl, rfl, rfl, rfl⟩

/-- A trap without a frame leaves TINFO0 to TINFO3 zero (R80). -/
theorem takeTrap_info_zero (he : s.hart.trap.status.eip = false) (hi : tr.info = .zero) :
    TrapInfoIs 0 0 0 0 (s.takeTrap tr) := by
  simp [TrapInfoIs, State.takeTrap_hart s tr he, Hart.trapEntry, TrapRegs.setInfo, hi]

/-- An ILLEGAL trap outside a handler, whole (R38, R80, R81). -/
theorem takeTrap_illegal (he : s.hart.trap.status.eip = false) (val : Word) :
    let t := s.takeTrap { cause := .illegal, val := val }
    TrapKeeps s t ∧ TrapInfoIs 0 0 0 0 t ∧ KeepsOutside s.discard t ∧ Entered { cause := .illegal, val := val } s t :=
  ⟨takeTrap_keeps he nofun, takeTrap_info_zero he rfl, takeTrap_keepsOutside he nofun, takeTrap_entered s _ he⟩
end

/-! ### What a CSR instruction does -/

/-- The fields of an I-format word with function value `f` and major 0x1F (R32) do not overlap: its number is their sum. -/
theorem word_pack_csr (f : Nat) (hf : f < 8) (d a : BitVec 5) (c : BitVec 12) :
    word (pack (0x1F + f * 2 ^ 29 + slot 7 d + slot 12 a + slot 17 c)).toNat =
      word (0x1F + d.toNat * 2 ^ 7 + a.toNat * 2 ^ 12 + c.toNat * 2 ^ 17 + f * 2 ^ 29) := by
  have hd := d.isLt
  have ha := a.isLt
  have hc := c.isLt
  simp only [word, pack, slot, BitVec.toNat_ofNat]
  congr 1
  omega

section
variable {op : CsrOp} {d a : BitVec 5} {c : BitVec 12} {src : Word} {writes : Bool} {i : Instr} {s u : State}

section Allowed
variable (hacc : csrAccess s.hart.priv c.toNat = .rw ∨ csrAccess s.hart.priv c.toNat = .ro ∧ writes = false)
  (hu : if writes then csrWrite s c.toNat (op.apply (csrRead s c.toNat) src) = some u else u = s)
include hacc hu

/-- A CSR instruction that the table allows, and whose new value the register takes where it writes, retires from the state
with that value, the old one in X[D]. -/
theorem csr_of_allowed : csr op d c src writes i s = .next ((u.setX d (csrRead s c.toNat)).advance 4) := by
  cases writes with
  | false =>
    obtain rfl : u = s := by simpa using hu
    obtain h | ⟨h, -⟩ := hacc <;> simp [csr, h]
  | true =>
    have hw : csrWrite s c.toNat (op.apply (csrRead s c.toNat) src) = some u := by simpa using hu
    obtain h | ⟨-, h⟩ := hacc
    · simp [csr, h, hw]
    · cases h

/-- The effect and the frame of a CSR instruction that the table allows (R42). -/
theorem csr_completes :
    ∃ t, csr op d c src writes i s = .next t ∧ t.x d = (if d = 0 then 0 else csrRead s c.toNat) ∧ KeepsXBut d u t ∧ KeepsV u t ∧
      KeepsP u t ∧ KeepsFcsr u t ∧ KeepsVec u t ∧ KeepsTaint u t ∧ KeepsUnits u t ∧ KeepsMemory u t ∧ KeepsOutside u t ∧
      Sequential 4 u t ∧ KeepsTrap u t := by
  obtain ⟨⟨hd, hx, hv, hp, hfcsr, hvec, ⟨htrap, hunits, htaint⟩, hmem, hout⟩, hseq⟩ := writesX_advance u d (csrRead s c.toNat) 4
  exact ⟨_, csr_of_allowed hacc hu, hd, hx, hv, hp, hfcsr, hvec, htaint, hunits, hmem, hout, hseq, htrap⟩

end Allowed

section Refused
variable (h : csrAccess s.hart.priv c.toNat = .none ∨ (writes = true ∧ csrAccess s.hart.priv c.toNat = .ro) ∨
  (writes = true ∧ csrAccess s.hart.priv c.toNat = .rw ∧ csrWrite s c.toNat (op.apply (csrRead s c.toNat) src) = none))
include h

/-- A CSR instruction that names a register with no access, writes a read-only one, or writes a value that the register
refuses, traps from the state it found. -/
theorem csr_of_refused : csr op d c src writes i s = .next (s.takeTrap (illegal i)) := by
  obtain h | ⟨rfl, h⟩ | ⟨rfl, h, hw⟩ := h
  · simp [csr, h]
  · simp [csr, h]
  · simp [csr, h, hw]

/-- The trap of a CSR instruction that is refused, with the instruction's word in TVAL (R38, R42, R80). -/
theorem csr_traps (f : Nat) (hf : f < 8) (hi : encode i = [pack (0x1F + f * 2 ^ 29 + slot 7 d + slot 12 a + slot 17 c)])
    (he : s.hart.trap.status.eip = false) :
    ∃ t, csr op d c src writes i s = .next t ∧ TrapKeeps s t ∧ TrapInfoIs 0 0 0 0 t ∧ KeepsOutside s.discard t ∧
      Entered { cause := .illegal
                val := word (0x1F + d.toNat * 2 ^ 7 + a.toNat * 2 ^ 12 + c.toNat * 2 ^ 17 + f * 2 ^ 29) } s t := by
  have hval : word i.wordValue = word (0x1F + d.toNat * 2 ^ 7 + a.toNat * 2 ^ 12 + c.toNat * 2 ^ 17 + f * 2 ^ 29) := by
    rw [Instr.wordValue, hi]
    exact word_pack_csr f hf d a c
  refine ⟨_, csr_of_refused h, ?_⟩
  rw [illegal, hval]
  exact takeTrap_illegal he _

end Refused
end

end Sys2Proof.Machine

namespace Sys2Proof.Proofs
open Sys2Proof.Machine

/-- Settles O11: the access table from its two rows of numbers, and the six CSR instructions as uses of the one operation
that they share. -/
theorem csrAccess : Obligations.CsrAccess := by
  unfold Obligations.CsrAccess
  refine ⟨fun c _ => ?table, fun s u d a c => ?allowed, fun s d a c he => ?refused⟩
  case table =>
    simp only [csrAccess_eq_rw_iff, csrAccess_eq_ro_iff, reduceCtorEq, false_and, or_false, true_and, and_self]
  case allowed =>
    intro old p hp hacc hu
    simp only [List.mem_cons, List.not_mem_nil, or_false] at hp
    obtain rfl | rfl | rfl | rfl | rfl | rfl := hp
    · exact csr_completes (op := .write) hacc hu
    · exact csr_completes (op := .set) hacc hu
    · exact csr_completes (op := .clear) hacc hu
    · exact csr_completes (op := .write) hacc hu
    · exact csr_completes (op := .set) hacc hu
    · exact csr_completes (op := .clear) hacc hu
  case refused =>
    intro old p hp h
    simp only [List.mem_cons, List.not_mem_nil, or_false] at hp
    obtain rfl | rfl | rfl | rfl | rfl | rfl := hp
    · exact csr_traps (op := .write) h 0 (by decide) rfl he
    · exact csr_traps (op := .set) h 1 (by decide) rfl he
    · exact csr_traps (op := .clear) h 2 (by decide) rfl he
    · exact csr_traps (op := .write) h 4 (by decide) rfl he
    · exact csr_traps (op := .set) h 5 (by decide) rfl he
    · exact csr_traps (op := .clear) h 6 (by decide) rfl he

end Sys2Proof.Proofs

/-! # Scalar instructions: integers (R45 to R50), control (R51 to R53, R57) and the hardware loops (R54 to R56) -/

namespace Sys2Proof.Machine

/-! ### Comparisons, minima and 32-bit forms as the tables of R45 state them -/

theorem wordB_slt (x y : Word) : wordB (x.slt y) = if x.toInt < y.toInt then 1 else 0 := by
  simp [wordB, BitVec.slt]

theorem wordB_ult (x y : Word) : wordB (x.ult y) = if x.toNat < y.toNat then 1 else 0 := by
  simp [wordB, BitVec.ult]

/-- Two conditions choose alike where the weaker one adds only cases in which the choices are the same. -/
theorem ite_eq_ite_of_imp {α : Type} {p q : Prop} [Decidable p] [Decidable q] {x y : α} (hpq : p → q)
    (h : q → ¬p → x = y) : (if p then x else y) = if q then x else y := by
  by_cases hp : p
  · rw [if_pos hp, if_pos (hpq hp)]
  · by_cases hq : q
    · rw [if_neg hp, if_pos hq, h hq hp]
    · rw [if_neg hp, if_neg hq]

theorem eq_of_toInt_le_of_not_lt {x y : Word} (hle : x.toInt ≤ y.toInt) (hlt : ¬x.toInt < y.toInt) : x = y :=
  BitVec.eq_of_toInt_eq (Int.le_antisymm hle (Int.not_lt.1 hlt))

theorem eq_of_toNat_le_of_not_lt {x y : Word} (hle : x.toNat ≤ y.toNat) (hlt : ¬x.toNat < y.toNat) : x = y :=
  BitVec.eq_of_toNat_eq (Nat.le_antisymm hle (Nat.not_lt.1 hlt))

theorem minS_eq (x y : Word) : minS x y = if x.toInt ≤ y.toInt then x else y := by
  simp only [minS, BitVec.slt, decide_eq_true_eq]
  exact ite_eq_ite_of_imp Int.le_of_lt eq_of_toInt_le_of_not_lt

theorem maxS_eq (x y : Word) : maxS x y = if x.toInt ≤ y.toInt then y else x := by
  simp only [maxS, BitVec.slt, decide_eq_true_eq]
  exact ite_eq_ite_of_imp Int.le_of_lt fun hle hlt => (eq_of_toInt_le_of_not_lt hle hlt).symm

theorem minU_eq (x y : Word) : minU x y = if x.toNat ≤ y.toNat then x else y := by
  simp only [minU, BitVec.ult, decide_eq_true_eq]
  exact ite_eq_ite_of_imp Nat.le_of_lt eq_of_toNat_le_of_not_lt

theorem maxU_eq (x y : Word) : maxU x y = if x.toNat ≤ y.toNat then y else x := by
  simp only [maxU, BitVec.ult, decide_eq_true_eq]
  exact ite_eq_ite_of_imp Nat.le_of_lt fun hle hlt => (eq_of_toNat_le_of_not_lt hle hlt).symm

theorem sext32_add (x y : Word) : sext32 (x + y) = (x.setWidth 32 + y.setWidth 32).signExtend 64 := by
  rw [sext32, BitVec.setWidth_add _ _ (by decide)]

theorem sext32_sub (x y : Word) : sext32 (x - y) = (x.setWidth 32 - y.setWidth 32).signExtend 64 := by
  rw [sext32, BitVec.sub_eq_add_neg, BitVec.setWidth_add _ _ (by decide), BitVec.setWidth_neg_of_le (by decide),
    ← BitVec.sub_eq_add_neg]

theorem sext32_mul (x y : Word) : sext32 (x * y) = (x.setWidth 32 * y.setWidth 32).signExtend 64 := by
  rw [sext32, BitVec.setWidth_mul _ _ (by decide)]

theorem wordB_slt_immI (x : Word) (i : BitVec 15) : wordB (x.slt (immI i)) = if x.toInt < i.toInt then 1 else 0 := by
  rw [wordB_slt, immI, BitVec.toInt_signExtend_of_le (by decide)]

/-! ### Products and quotients (R49, R50) -/

/-- The high half of a product, taken from its 128-bit representation. -/
theorem highHalf_eq (z : Int) : highHalf z = ((BitVec.ofInt 128 z) >>> 64).setWidth 64 := by
  apply BitVec.eq_of_toNat_eq
  simp [highHalf, wrap, Nat.shiftRight_eq_div_pow]

theorem highHalf_signed (x y : Word) :
    highHalf (x.toInt * y.toInt) = ((x.signExtend 128 * y.signExtend 128) >>> 64).setWidth 64 := by
  rw [highHalf_eq, BitVec.ofInt_mul]
  rfl

theorem highHalf_unsigned (x y : Word) :
    highHalf ((x.toNat * y.toNat : Nat) : Int) = ((x.setWidth 128 * y.setWidth 128) >>> 64).setWidth 64 := by
  rw [highHalf_eq, Int.natCast_mul, BitVec.ofInt_mul, BitVec.ofInt_natCast, BitVec.ofInt_natCast, BitVec.ofNat_toNat,
    BitVec.ofNat_toNat]

theorem highHalf_mixed (x y : Word) :
    highHalf (x.toInt * (y.toNat : Int)) = ((x.signExtend 128 * y.setWidth 128) >>> 64).setWidth 64 := by
  rw [highHalf_eq, BitVec.ofInt_mul, BitVec.ofInt_natCast, BitVec.ofNat_toNat]
  rfl

/-- The overflow case −2^63 / −1 is in the wrap of both sides (R50). -/
theorem divS_eq (x y : Word) : divS x y = if y = 0 then BitVec.allOnes 64 else x.sdiv y := by
  have h : wordI (x.toInt.tdiv y.toInt) = x.sdiv y := BitVec.eq_of_toInt_eq (by rw [BitVec.toInt_ofInt, BitVec.toInt_sdiv])
  rw [divS, h]

theorem divU_eq (x y : Word) : divU x y = if y = 0 then BitVec.allOnes 64 else x.udiv y := by
  rw [divU, word, ← BitVec.udiv_def]
  rfl

theorem remS_eq (x y : Word) : remS x y = if y = 0 then x else x.srem y := by
  have h : wordI (x.toInt.tmod y.toInt) = x.srem y := by rw [← BitVec.toInt_srem, wordI, BitVec.ofInt_toInt]
  rw [remS, h]

theorem remU_eq (x y : Word) : remU x y = if y = 0 then x else x.umod y := by
  rw [remU, word, ← BitVec.umod_def]
  rfl

/-! ### Bits of shifted words (R45, R47) -/

theorem getLsbD_shiftLeft_of_lt (x : Word) (n : Nat) {j : Nat} (hj : j < 64) :
    (x <<< n).getLsbD j = if n ≤ j then x.getLsbD (j - n) else false := by
  rw [BitVec.getLsbD_shiftLeft]
  by_cases h : n ≤ j <;> simp [hj, h]

theorem getLsbD_ushiftRight_eq (x : Word) (n j : Nat) :
    (x >>> n).getLsbD j = if j + n < 64 then x.getLsbD (j + n) else false := by
  rw [BitVec.getLsbD_ushiftRight, Nat.add_comm]
  split
  · rfl
  · exact BitVec.getLsbD_of_ge _ _ (by omega)

theorem getLsbD_sshiftRight_of_lt (x : Word) (n : Nat) {j : Nat} (hj : j < 64) :
    (x.sshiftRight n).getLsbD j = if j + n < 64 then x.getLsbD (j + n) else x.getLsbD 63 := by
  rw [BitVec.getLsbD_sshiftRight, Nat.add_comm n j, BitVec.msb_eq_getLsbD_last]
  simp [hj]

/-! ### Counts of bits (R45) -/

theorem clzN_le (v : Word) : ∀ m, clzN v m ≤ m
  | 0 => Nat.le_refl _
  | m + 1 => by
    rw [clzN]
    have := clzN_le v m
    split <;> omega

/-- The bits that `clzN` counts are zero. -/
theorem getLsbD_above_clzN (v : Word) : ∀ {m j}, m - clzN v m ≤ j → j < m → v.getLsbD j = false
  | 0, _, _, hj => by omega
  | m + 1, j, hn, hj => by
    rw [clzN] at hn
    split at hn
    · omega
    · have hle := clzN_le v m
      by_cases h : j = m
      · simp_all
      · exact getLsbD_above_clzN v (m := m) (by omega) (by omega)

/-- It stops at a one bit. -/
theorem getLsbD_at_clzN (v : Word) : ∀ {m}, clzN v m < m → v.getLsbD (m - 1 - clzN v m) = true
  | 0, h => by omega
  | m + 1, h => by
    rw [clzN] at h ⊢
    split at h
    · simp [*]
    · have hb := getLsbD_at_clzN v (m := m) (by omega)
      rw [if_neg ‹_›, show m + 1 - 1 - (clzN v m + 1) = m - 1 - clzN v m by omega]
      exact hb

theorem ctzN_le (v : Word) : ∀ m, ctzN v m ≤ m
  | 0 => Nat.le_refl _
  | m + 1 => by
    rw [ctzN]
    have := ctzN_le v m
    split <;> omega

/-- The bits that `ctzN` counts, from bit 64 − m on, are zero. -/
theorem getLsbD_below_ctzN (v : Word) : ∀ {m j}, 64 - m ≤ j → j < 64 - m + ctzN v m → m ≤ 64 → v.getLsbD j = false
  | 0, j, _, hn, _ => by simp only [ctzN] at hn; omega
  | m + 1, j, hj, hn, hm => by
    rw [ctzN] at hn
    split at hn
    · omega
    · by_cases h : j = 63 - m
      · simp_all
      · exact getLsbD_below_ctzN v (m := m) (by omega) (by omega) (by omega)

/-- It stops at a one bit. -/
theorem getLsbD_at_ctzN (v : Word) : ∀ {m}, ctzN v m < m → m ≤ 64 → v.getLsbD (64 - m + ctzN v m) = true
  | 0, h, _ => by omega
  | m + 1, h, hm => by
    rw [ctzN] at h ⊢
    split at h
    · rw [if_pos ‹_›, show 64 - (m + 1) + 0 = 63 - m by omega]
      assumption
    · have hb := getLsbD_at_ctzN v (m := m) (by omega) (by omega)
      rw [if_neg ‹_›, show 64 - (m + 1) + (ctzN v m + 1) = 64 - m + ctzN v m by omega]
      exact hb

/-! ### An instruction that is an X[D] result -/

section
variable {i : Instr} {s : State} {d : BitVec 5} {v : Word}

/-- An instruction whose meaning is a result in X[D] writes that value, however a table states it. -/
theorem exec_writesX {w : Word} (hi : exec i s = result4 d v s) (hv : v = w) :
    ∃ t, exec i s = .next t ∧ WritesX d w s t ∧ Sequential 4 s t := by
  rw [hi, ← hv]
  exact result4_spec s d v

/-- An instruction whose meaning is a result in X[D] with a property. -/
theorem exec_writesX_of {P : Word → Prop} (hi : exec i s = result4 d v s) (hv : P v) :
    ∃ t w, exec i s = .next t ∧ WritesX d w s t ∧ Sequential 4 s t ∧ P w := by
  obtain ⟨t, ht, hw, hs⟩ := exec_writesX hi rfl
  exact ⟨t, v, ht, hw, hs, hv⟩
end

end Sys2Proof.Machine

namespace Sys2Proof.Proofs
open Sys2Proof.Machine

/-- Settles O1: each row of a table is a result in X[D], whose value a lemma above brings to the table's form where it is not
the model's own. -/
theorem integerResults : Obligations.IntegerResults := by
  unfold Obligations.IntegerResults
  refine ⟨fun s d a b i u => ?table, fun s d a b n => ?shifts, fun s d a => ⟨?clz, ?ctz, ?popc⟩, fun s d e i => ?li,
    fun s d a b => ?products⟩
  case table =>
    simp only [List.forall_mem_cons]
    exact ⟨exec_writesX rfl rfl, exec_writesX rfl rfl, exec_writesX rfl rfl, exec_writesX rfl rfl, exec_writesX rfl rfl,
      exec_writesX rfl rfl, exec_writesX rfl rfl,
      exec_writesX rfl (wordB_slt _ _), exec_writesX rfl (wordB_ult _ _),
      exec_writesX rfl (minS_eq _ _), exec_writesX rfl (maxS_eq _ _),
      exec_writesX rfl (minU_eq _ _), exec_writesX rfl (maxU_eq _ _),
      exec_writesX rfl (sext32_add _ _), exec_writesX rfl (sext32_sub _ _), exec_writesX rfl rfl,
      exec_writesX rfl rfl, exec_writesX rfl rfl, exec_writesX rfl rfl, exec_writesX rfl rfl,
      exec_writesX rfl (wordB_slt_immI _ _), exec_writesX rfl (wordB_ult _ _),
      exec_writesX rfl rfl, exec_writesX rfl rfl, List.forall_mem_nil _⟩
  case shifts =>
    simp only [List.forall_mem_cons]
    exact ⟨exec_writesX_of rfl fun _ hj => getLsbD_shiftLeft_of_lt _ _ hj,
      exec_writesX_of rfl fun j _ => getLsbD_ushiftRight_eq _ _ j,
      exec_writesX_of rfl fun _ hj => getLsbD_sshiftRight_of_lt _ _ hj,
      exec_writesX_of rfl fun _ hj => getLsbD_shiftLeft_of_lt _ _ hj,
      exec_writesX_of rfl fun j _ => getLsbD_ushiftRight_eq _ _ j,
      exec_writesX_of rfl fun _ hj => getLsbD_sshiftRight_of_lt _ _ hj, List.forall_mem_nil _⟩
  case clz =>
    obtain ⟨t, ht, hw, hs⟩ := exec_writesX (i := .clz d a) (s := s) rfl rfl
    refine ⟨t, clzN (s.x a) 64, ht, hw, hs, clzN_le _ _, fun j hj => ?_, getLsbD_at_clzN _⟩
    by_cases h : j < 64
    · exact getLsbD_above_clzN _ hj h
    · exact BitVec.getLsbD_of_ge _ _ (by omega)
  case ctz =>
    obtain ⟨t, ht, hw, hs⟩ := exec_writesX (i := .ctz d a) (s := s) rfl rfl
    refine ⟨t, ctzN (s.x a) 64, ht, hw, hs, ctzN_le _ _, fun j hj => ?_, fun h => ?_⟩
    · exact getLsbD_below_ctzN _ (m := 64) (by omega) (by omega) (Nat.le_refl _)
    · simpa using getLsbD_at_ctzN _ h (Nat.le_refl _)
  case popc =>
    obtain ⟨t, ht, hw, hs⟩ := exec_writesX (i := .popc d a) (s := s) rfl rfl
    exact ⟨t, ht, hs, hw⟩
  case li => exact ⟨_, rfl, writesX_advance s d _ 8⟩
  case products =>
    simp only [List.forall_mem_cons]
    exact ⟨exec_writesX rfl rfl, exec_writesX rfl (highHalf_signed _ _), exec_writesX rfl (highHalf_unsigned _ _),
      exec_writesX rfl (highHalf_mixed _ _), exec_writesX rfl (sext32_mul _ _),
      exec_writesX rfl (divS_eq _ _), exec_writesX rfl (divU_eq _ _),
      exec_writesX rfl (remS_eq _ _), exec_writesX rfl (remU_eq _ _), List.forall_mem_nil _⟩

end Sys2Proof.Proofs

/-! # Control (R51 to R57): transfers, the loops they leave, the set-up of a loop and the loop step -/

namespace Sys2Proof.Machine

/-! ### Retirement with a transfer of control -/

/-- A transfer is a retirement in sequence with another pc, no loop step and no fetch pin. -/
theorem State.transfer_eq_advance (s : State) (target : Word) : s.transfer target =
    { s.advance 4 with
      hart := { (s.advance 4).hart with pc := target, loops := s.hart.loops, fetchPin := none } } := by
  rw [State.advance_eq]
  simp [State.transfer]

theorem State.setX_setLoops (s : State) (d : BitVec 5) (v : Word) (l : Loops) :
    (s.setX d v).setLoops l = (s.setLoops l).setX d v := by
  unfold State.setX
  split <;> rfl

/-- The loop registers are no part of what `WritesX` compares. -/
theorem writesX_setLoops_iff {d : BitVec 5} {v : Word} {s t : State} (l : Loops) :
    WritesX d v (s.setLoops l) t ↔ WritesX d v s t := Iff.rfl

/-- Nor are pc, the loops and the fetch pin after the instruction. -/
theorem WritesX.redirect {d : BitVec 5} {v : Word} {s t : State} (h : WritesX d v s t) (pc : Word) (l : Loops)
    (pin : Option FetchPin) :
    WritesX d v s { t with hart := { t.hart with pc := pc, loops := l, fetchPin := pin } } := h

/-- A register-only update with the loops replaced, followed by retirement with a transfer. -/
theorem writesX_transfer (s : State) (d : BitVec 5) (v : Word) (l : Loops) (target : Word) :
    let t := ((s.setX d v).setLoops l).transfer target
    WritesX d v s t ∧ Transferred target s t ∧ t.hart.loops = l := by
  refine ⟨?_, ⟨⟨?_, ?_⟩, rfl⟩, ?_⟩
  · have h := (writesX_advance (s.setLoops l) d v 4).1
    rw [State.transfer_eq_advance, State.setX_setLoops]
    exact ((writesX_setLoops_iff l).1 h).redirect _ _ _
  · rw [State.transfer_instret]
    simp
  · rw [State.transfer_status]
    simp
  · simp

/-- An instruction that writes x0 alone changes no register. -/
theorem WritesX.writesNothing {v : Word} {s t : State} (h : WritesX 0 v s t) : WritesNothing s t := by
  obtain ⟨-, hx, hrest⟩ := h
  refine ⟨fun r => ?_, hrest⟩
  by_cases hr : r = 0
  · rw [hr, State.x_zero, State.x_zero]
  · exact hx r hr

/-- The loops replaced and a transfer: no register changes. -/
theorem writesNothing_transfer (s : State) (l : Loops) (target : Word) :
    let t := (s.setLoops l).transfer target
    WritesNothing s t ∧ Transferred target s t ∧ t.hart.loops = l := by
  obtain ⟨hw, ht, hl⟩ := writesX_transfer s 0 0 l target
  rw [State.setX_zero] at hw ht hl
  exact ⟨hw.writesNothing, ht, hl⟩

/-- The loops replaced and retirement in sequence, which steps the new ones: no register changes. -/
theorem writesNothing_advance (s : State) (l : Loops) (size : Nat) :
    WritesNothing s ((s.setLoops l).advance size) ∧ Sequential size (s.setLoops l) ((s.setLoops l).advance size) := by
  obtain ⟨hw, hs⟩ := writesX_advance (s.setLoops l) 0 0 size
  rw [State.setX_zero] at hw hs
  exact ⟨((writesX_setLoops_iff l).1 hw).writesNothing, hs⟩

/-! ### The loops that a transfer leaves (R57) -/

theorem leaves_eq (active : Bool) (b e pc target : Word) :
    leaves active b e pc target = (active && (inBody b e pc && !inBody b e target)) := by
  simp [leaves, inBody, Bool.and_assoc]

theorem getLsbD_and_mask : ∀ (m : BitVec 2) (k0 k1 : Bool),
    let mask : BitVec 2 := (if k1 then 0#1 else 1#1) ++ (if k0 then 0#1 else 1#1)
    (m &&& mask).getLsbD 0 = (m.getLsbD 0 && !k0) ∧ (m &&& mask).getLsbD 1 = (m.getLsbD 1 && !k1) := by decide

/-- The exit of R57 clears the LACT bit of each loop left, and nothing else of the loop registers. -/
theorem loopsLeft_of_exit {s t : State} {target : Word} (h : t.hart.loops = s.hart.loops.exit s.hart.pc target) :
    LoopsLeft target s t := by
  have clear (a x : Bool) : (a && !(a && x)) = (a && !x) := by cases a <;> rfl
  refine ⟨by rw [h]; rfl, ?_, ?_⟩
  · rw [h, ← clear, ← leaves_eq]
    exact (getLsbD_and_mask _ _ _).1
  · rw [h, ← clear, ← leaves_eq]
    exact (getLsbD_and_mask _ _ _).2

/-! ### Branches and jumps (R51, R52) -/

theorem not_slt_eq (x y : Word) : (!x.slt y) = decide (y.toInt ≤ x.toInt) := by
  simp [BitVec.slt, ← decide_not]

theorem not_ult_eq (x y : Word) : (!x.ult y) = decide (y.toNat ≤ x.toNat) := by
  simp [BitVec.ult, ← decide_not]

/-- What a branch does, by whether its condition `c` holds. -/
theorem branch_spec {taken c : Bool} (hc : taken = c) (o : BitVec 12) (s : State) :
    ∃ t, branch taken o s = .next t ∧ WritesNothing s t ∧
      (if c then Transferred (s.hart.pc + o.signExtend 64 * 4) s t ∧ LoopsLeft (s.hart.pc + o.signExtend 64 * 4) s t
       else Sequential 4 s t) := by
  subst hc
  cases taken with
  | true =>
    obtain ⟨hw, ht, hl⟩ := writesNothing_transfer s
      (s.hart.loops.exit s.hart.pc (wordTarget s.hart.pc o)) (wordTarget s.hart.pc o)
    exact ⟨_, rfl, hw, ht, loopsLeft_of_exit hl⟩
  | false => exact ⟨_, rfl, writesNothing_advance s s.hart.loops 4⟩

theorem loopsLeft_or_kept {c : Prop} [Decidable c] {s t : State} {target : Word}
    (h : t.hart.loops = if c then s.hart.loops.exit s.hart.pc target else s.hart.loops) :
    if c then LoopsLeft target s t else KeepsLoops s t := by
  split
  · exact loopsLeft_of_exit (h.trans (if_pos ‹_›))
  · exact h.trans (if_neg ‹_›)

/-- What a jump does: the link, and the loops left where nothing is linked. -/
theorem jump_spec (d : BitVec 5) (target : Word) (s : State) :
    ∃ t, jump d target s = .next t ∧ WritesX d (s.hart.pc + 4) s t ∧ Transferred target s t ∧
      (if d = 0 then LoopsLeft target s t else KeepsLoops s t) := by
  obtain ⟨hw, ht, hl⟩ := writesX_transfer s d (s.hart.pc + 4)
    (if d = 0 then s.hart.loops.exit s.hart.pc target else s.hart.loops) target
  exact ⟨_, rfl, hw, ht, loopsLeft_or_kept hl⟩

/-- TINFO0 to TINFO3 after a trap with a frame (R80, R87). -/
theorem takeTrap_info_frame {s : State} {tr : Trap} {f : Frame} (he : s.hart.trap.status.eip = false)
    (hi : tr.info = .frame f) : TrapInfoIs f.base f.stride f.info2 f.info3 (s.takeTrap tr) := by
  simp [TrapInfoIs, State.takeTrap_hart s tr he, Hart.trapEntry, TrapRegs.setInfo, hi]

/-- The trap of a jalr, with the frame of R386. -/
def jalrTrap (target : Word) : Trap :=
  { cause := .misaligned, val := target, info := .frame { kind := 4, acc := 3, size := 4, base := target } }

section
variable {d a : BitVec 5} {i : BitVec 15} {s : State}

/-- A jalr to a multiple of 4 is a jump. -/
theorem exec_jalr_of_aligned (h : (s.x a + i.signExtend 64).toNat % 4 = 0) :
    exec (.jalr d a i) s = jump d (s.x a + i.signExtend 64) s := if_neg (Decidable.not_not.2 h)

/-- A jalr to no multiple of 4 traps from the state it found (R386). -/
theorem exec_jalr_of_misaligned (h : (s.x a + i.signExtend 64).toNat % 4 ≠ 0) :
    exec (.jalr d a i) s = .next (s.takeTrap (jalrTrap (s.x a + i.signExtend 64))) := if_pos h

theorem takeTrap_jalrTrap_info (target : Word) (he : s.hart.trap.status.eip = false) :
    TrapInfoIs target 0 (word (3 * 2 ^ 16 + 4 * 2 ^ 24 + 4 * 2 ^ 28 + 2 ^ 32)) 0 (s.takeTrap (jalrTrap target)) := by
  have hsum : 3 * 2 ^ 16 + 0 * 2 ^ 18 + 4 * 2 ^ 24 + 4 * 2 ^ 28 + 1 % 2 ^ 32 * 2 ^ 32 =
      3 * 2 ^ 16 + 4 * 2 ^ 24 + 4 * 2 ^ 28 + 2 ^ 32 := by decide
  have hinfo : (Frame.info2 { kind := 4, acc := 3, size := 4, base := target }) =
      word (3 * 2 ^ 16 + 4 * 2 ^ 24 + 4 * 2 ^ 28 + 2 ^ 32) := congrArg word hsum
  have h := takeTrap_info_frame (tr := jalrTrap target) he rfl
  rw [hinfo] at h
  exact h

end

/-! ### The set-up of a loop (R54, R55) -/

/-- A translation changes nothing of the hart but its cached translations (R91, R92). -/
theorem State.page_hart {s u : State} {va : Nat} {acc : Acc} {e : TlbEntry} (h : s.page va acc = .ok (e, u)) :
    u.hart = { s.hart with tlb := u.hart.tlb } := by
  unfold State.page at h
  split at h
  · split at h
    · cases h; rfl
    · cases h
  · split at h
    · cases h
    · cases h; rfl

theorem State.locate_hart {s u : State} {va n : Nat} {acc : Acc} {pl : Place} (h : s.locate va n acc = .ok (pl, u)) :
    u.hart = { s.hart with tlb := u.hart.tlb } := by
  unfold State.locate at h
  split at h
  · split at h
    · cases h; rfl
    · cases h
  · split at h
    · cases h
    · rename_i hp
      split at h
      · cases h; exact State.page_hart hp
      · cases h

theorem fetchWord_hart {s u : State} {va : Nat} {w : Word32} (h : fetchWord s va = .ok (w, u)) :
    u.hart = { s.hart with tlb := u.hart.tlb } := by
  unfold fetchWord at h
  split at h
  · cases h
  · rename_i hl
    split at h
    · cases h
    · cases h; exact State.locate_hart hl

theorem fetchWord_loops {s u : State} {va : Nat} {w : Word32} (h : fetchWord s va = .ok (w, u)) :
    u.hart.loops = s.hart.loops := by rw [fetchWord_hart h]

theorem isLong_iff (w : Word32) : isLong w = true ↔ w.toNat / 16 % 8 = 7 := by
  simp [isLong, fld, ← BitVec.toNat_inj]

/-- The trap of a failed access but a watchpoint reports the failure's cause, at the access's address and element. -/
theorem accessTrap_cause {f : Failure} {val va : Word} {elem : Nat} {acc : Acc} {fr : Frame} (h : f.cause ≠ .watch) :
    (accessTrap f val elem acc va fr).cause = f.cause ∧ (accessTrap f val elem acc va fr).val = val ∧
      (accessTrap f val elem acc va fr).elem = elem := by
  unfold accessTrap
  rw [if_neg h]
  split <;> exact ⟨rfl, rfl, rfl⟩

section
variable {k : BitVec 1} {b e count : Word} {size : Nat} {s u : State}

theorem loopStart_nonzero (h : count ≠ 0) :
    loopStart k b e count size s = .next ((s.setLoops (s.hart.loops.setup k b e count)).advance size) := if_neg h

theorem loopStart_zero {w : Word32} (hf : fetchWord s e.toNat = .ok (w, u)) :
    loopStart k b e 0 size s =
      .next ((u.setLoops (u.hart.loops.setup k b e 0)).transfer (e + (if isLong w then 8 else 4))) := by
  simp [loopStart, hf]

theorem loopStart_zero_fails {f : Failure} (hf : fetchWord s e.toNat = .error (f, u)) :
    loopStart k b e 0 size s =
      .next (u.takeTrap (accessTrap { f with cause := .pageFaultFetch } e 0 .fetch e (fetchFrame e 4))) := by
  simp [loopStart, hf]

/-- LOOP with a zero count is the set-up with that count. -/
theorem exec_loop_of_zero {a : BitVec 5} {i : BitVec 15} (h : s.x a = 0) :
    exec (.loop k a i) s = loopStart k (s.hart.pc + 4) (s.hart.pc + i.setWidth 64 * 4) 0 4 s := by
  rw [← h]
  rfl

/-- A loop with a nonzero count: its registers are set, it is active, and the next instruction follows (R54). -/
theorem loopStart_enters (h : count ≠ 0) :
    let l := s.hart.loops
    ∃ t, loopStart k b e count size s = .next t ∧ WritesNothing s t ∧
      Sequential size (s.setLoops (if k = 0 then { l with lb0 := b, le0 := e, lc0 := count, lact := l.lact ||| 1 }
        else { l with lb1 := b, le1 := e, lc1 := count, lact := l.lact ||| 2 })) t := by
  have hs : s.hart.loops.setup k b e count = if k = 0
      then { s.hart.loops with lb0 := b, le0 := e, lc0 := count, lact := s.hart.loops.lact ||| 1 }
      else { s.hart.loops with lb1 := b, le1 := e, lc1 := count, lact := s.hart.loops.lact ||| 2 } := by
    simp only [Loops.setup, if_neg h] <;> rfl
  rw [loopStart_nonzero h, hs]
  exact ⟨_, rfl, writesNothing_advance s _ size⟩

/-- A loop with a zero count is left inactive, and control goes past the instruction at its end (R54). -/
theorem loopStart_skips {w : Word32} (hf : fetchWord s e.toNat = .ok (w, u)) :
    let l := s.hart.loops
    ∃ t, loopStart k b e 0 size s = .next t ∧ WritesNothing u t ∧
      Transferred (e + (if w.toNat / 16 % 8 = 7 then 8 else 4)) u t ∧
      t.hart.loops = (if k = 0 then { l with lb0 := b, le0 := e, lc0 := 0, lact := l.lact &&& 2 }
        else { l with lb1 := b, le1 := e, lc1 := 0, lact := l.lact &&& 1 }) := by
  simp only [loopStart_zero hf, isLong_iff, fetchWord_loops hf]
  exact ⟨_, rfl, writesNothing_transfer u _ _⟩

/-- A loop with a zero count whose end cannot be read traps at its own address (R54). -/
theorem loopStart_traps {f : Failure} (hf : fetchWord s e.toNat = .error (f, u)) (he : u.hart.trap.status.eip = false) :
    ∃ t, loopStart k b e 0 size s = .next t ∧ Entered { cause := .pageFaultFetch, val := e } u t ∧ KeepsX u t ∧
      KeepsMemory u.discard t := by
  obtain ⟨hcause, hval, helem⟩ := accessTrap_cause (f := { f with cause := .pageFaultFetch }) (val := e) (va := e) (elem := 0)
    (acc := .fetch) (fr := fetchFrame e 4) nofun
  rw [loopStart_zero_fails hf]
  generalize accessTrap _ e 0 .fetch e _ = tr at hcause hval helem
  obtain ⟨hx, -, -, -, -, hmem, -⟩ := takeTrap_keeps (tr := tr) he (by rw [hcause]; nofun)
  have hin := takeTrap_entered u tr he
  unfold Entered at hin ⊢
  rw [hcause, hval, helem] at hin
  exact ⟨_, rfl, hin, hx, hmem⟩

end

/-! ### The loop step (R56) -/

namespace Loops
variable (l : Loops) (k : Bool) (a : Word)

/-- Loop `k` is active and its body ends at `a`. -/
def ends : Bool := if k then l.lact.getLsbD 1 && a == l.le1 else l.lact.getLsbD 0 && a == l.le0

/-- The count of loop `k`. -/
def lc : Word := if k then l.lc1 else l.lc0

/-- The registers when loop `k` goes back to its begin. -/
def repeated : Loops := if k then { l with lc1 := l.lc1 - 1 } else { l with lc0 := l.lc0 - 1 }

/-- The registers when loop `k` ends. -/
def ended : Loops := if k then { l with lc1 := 0, lact := l.lact &&& 1 } else { l with lc0 := 0, lact := l.lact &&& 2 }

/-- The loop that is stepped first: the one with the greater begin, loop 1 when they are equal. -/
def first : Bool := decide (l.lb0.toNat ≤ l.lb1.toNat)

variable {l k a}

theorem stepOne_of_not_ends (h : l.ends k a = false) : l.stepOne k a = (l, false) := by
  cases k <;> simp_all [ends, stepOne]

theorem stepOne_of_repeats (h : l.ends k a = true) (hc : 1 < (l.lc k).toNat) : l.stepOne k a = (l.repeated k, true) := by
  cases k <;> simp_all [ends, lc, repeated, stepOne]

theorem stepOne_of_last (h : l.ends k a = true) (hc : ¬1 < (l.lc k).toNat) : l.stepOne k a = (l.ended k, false) := by
  cases k <;> simp_all [ends, lc, ended, stepOne]

/-- The end of one loop is nothing to the other. -/
@[simp] theorem ends_ended_not : (l.ended k).ends (!k) a = l.ends (!k) a := by
  cases k <;> simp [ends, ended]

@[simp] theorem lc_ended_not : (l.ended k).lc (!k) = l.lc (!k) := by cases k <;> rfl

theorem stepOne_ended_of_repeats (h : l.ends (!k) a = true) (hc : 1 < (l.lc !k).toNat) :
    (l.ended k).stepOne (!k) a = ((l.ended k).repeated !k, true) :=
  stepOne_of_repeats (ends_ended_not.trans h) (by rwa [lc_ended_not])

theorem stepOne_ended_of_last (h : l.ends (!k) a = true) (hc : ¬1 < (l.lc !k).toNat) :
    (l.ended k).stepOne (!k) a = ((l.ended k).ended !k, false) :=
  stepOne_of_last (ends_ended_not.trans h) (by rwa [lc_ended_not])

/-- The step where the loop stepped first repeats. -/
theorem step_of_first_repeats {m : Loops} (h : l.stepOne l.first a = (m, true)) : l.step a = (m, some (l.lb l.first)) := by
  rw [first] at h ⊢
  simp only [step, h]

/-- The step where it does not: the other loop decides. -/
theorem step_of_first_ends {m : Loops} (h : l.stepOne l.first a = (m, false)) :
    l.step a = ((m.stepOne (!l.first) a).1, if (m.stepOne (!l.first) a).2 then some (l.lb !l.first) else none) := by
  rw [first] at h ⊢
  rcases hm : m.stepOne (!decide (l.lb0.toNat ≤ l.lb1.toNat)) a with ⟨n, _ | _⟩
  · simp only [step, h, hm, Bool.false_eq_true, if_false]
  · simp only [step, h, hm, if_true]

theorem step_of_second_repeats {m n : Loops} (h : l.stepOne l.first a = (m, false))
    (h' : m.stepOne (!l.first) a = (n, true)) : l.step a = (n, some (l.lb !l.first)) := by
  rw [step_of_first_ends h, h', if_pos rfl]

theorem step_of_none_repeats {m n : Loops} (h : l.stepOne l.first a = (m, false))
    (h' : m.stepOne (!l.first) a = (n, false)) : l.step a = (n, none) := by
  rw [step_of_first_ends h, h', if_neg nofun]

end Loops

end Sys2Proof.Machine

namespace Sys2Proof.Proofs
open Sys2Proof.Machine

/-- Settles O2: the six branches are one operation under six conditions, and jal and jalr are one jump. -/
theorem controlTransfers : Obligations.ControlTransfers := by
  unfold Obligations.ControlTransfers
  refine ⟨fun s a b o => ?branches, fun s d a o i => ?jumps, fun s d a i he hmis => ?misaligned⟩
  case branches =>
    simp only [List.forall_mem_cons]
    exact ⟨branch_spec rfl o s, branch_spec decide_not.symm o s,
      branch_spec rfl o s, branch_spec (not_slt_eq _ _) o s,
      branch_spec rfl o s, branch_spec (not_ult_eq _ _) o s, List.forall_mem_nil _⟩
  case jumps =>
    simp only [List.forall_mem_cons]
    refine ⟨fun _ => jump_spec d _ s, fun h => ?_, List.forall_mem_nil _⟩
    have halign : (s.x a + i.signExtend 64).toNat % 4 = 0 := h.resolve_right nofun
    rw [exec_jalr_of_aligned halign]
    exact jump_spec d _ s
  case misaligned =>
    obtain ⟨hx, -⟩ := takeTrap_keeps (tr := jalrTrap (s.x a + i.signExtend 64)) he nofun
    exact ⟨_, exec_jalr_of_misaligned hmis, hx, takeTrap_entered s _ he, takeTrap_jalrTrap_info _ he⟩

/-- Settles O3: both instructions are one set-up with their own operands, and the loop step is two steps of one loop. -/
theorem hardwareLoops : Obligations.HardwareLoops := by
  unfold Obligations.HardwareLoops
  refine ⟨fun s k a i e c => ?enters, fun s u k a i e w => ?skips, fun s u k a i e f => ?traps, fun l a => ?step⟩
  case enters =>
    simp only [List.forall_mem_cons]
    exact ⟨fun h => loopStart_enters h, fun h => loopStart_enters h, List.forall_mem_nil _⟩
  case skips =>
    simp only [List.forall_mem_cons]
    refine ⟨fun h hf => ?_, fun _ hf => loopStart_skips (size := 8) hf, List.forall_mem_nil _⟩
    rw [exec_loop_of_zero h]
    exact loopStart_skips hf
  case traps =>
    simp only [List.forall_mem_cons]
    refine ⟨fun h hf he => ?_, fun _ hf he => loopStart_traps (size := 8) hf he, List.forall_mem_nil _⟩
    rw [exec_loop_of_zero h]
    exact loopStart_traps hf he
  case step =>
    intro ends more back repeated ended i
    refine ⟨fun h hm => ?first_repeats, fun h hm h' hm' => ?second_repeats, fun h hm h' hm' => ?both_end,
      fun h hm h' => ?first_ends, fun h h' hm => ?only_second_repeats, fun h h' hm => ?only_second_ends, fun h h' => ?none_ends⟩
    case first_repeats => exact Loops.step_of_first_repeats (Loops.stepOne_of_repeats h hm)
    case second_repeats =>
      exact Loops.step_of_second_repeats (Loops.stepOne_of_last h hm) (Loops.stepOne_ended_of_repeats h' hm')
    case both_end =>
      exact Loops.step_of_none_repeats (Loops.stepOne_of_last h hm) (Loops.stepOne_ended_of_last h' hm')
    case first_ends =>
      exact Loops.step_of_none_repeats (Loops.stepOne_of_last h hm)
        (Loops.stepOne_of_not_ends (Loops.ends_ended_not.trans h'))
    case only_second_repeats =>
      exact Loops.step_of_second_repeats (Loops.stepOne_of_not_ends h) (Loops.stepOne_of_repeats h' hm)
    case only_second_ends =>
      exact Loops.step_of_none_repeats (Loops.stepOne_of_not_ends h) (Loops.stepOne_of_last h' hm)
    case none_ends =>
      exact Loops.step_of_none_repeats (Loops.stepOne_of_not_ends h) (Loops.stepOne_of_not_ends h')

end Sys2Proof.Proofs
